-- ==== Sys2Proof/Word.lean ====
section
/-! DEFINITION. The word types of the SKN-4820 and the one container the model keeps sparse state in. -/

namespace Sys2Proof

/-- One byte of memory. -/
abbrev Byte := BitVec 8
/-- A scalar register, a pointer, a bundle header or a slot word (R56, R152). -/
abbrev Word := BitVec 64
/-- One vector lane (R13, R182). -/
abbrev Lane := BitVec 32
/-- A vector register: the 2048-bit image of R182, lane j in bits [32j+31:32j]. -/
abbrev VReg := BitVec 2048

/-- Sparse data by key: pairs with strictly rising keys, none holding the value an unlisted key reads as. -/
abbrev Store (α : Type) := List (Nat × α)

namespace Store

variable {α : Type}

/-- The value at key `k`; `d` is what an unlisted key reads as. -/
def get (d : α) : Store α → Nat → α
  | [], _ => d
  | (k, v) :: m, n => if k = n then v else get d m n

/-- Every pair but those of key `n`. -/
def erase : Store α → Nat → Store α
  | [], _ => []
  | (k, v) :: m, n => if k = n then erase m n else (k, v) :: erase m n

/-- The pair put in before the first larger key. -/
def insert : Store α → Nat → α → Store α
  | [], n, x => [(n, x)]
  | (k, v) :: m, n, x => if n < k then (n, x) :: (k, v) :: m else (k, v) :: insert m n x

/-- Key `n` now holds `x`; a value equal to the default leaves no pair. -/
def set [DecidableEq α] (d : α) (m : Store α) (n : Nat) (x : α) : Store α :=
  if x = d then erase m n else insert (erase m n) n x

/-- The canonical form: keys strictly rising, no pair holding the default. -/
def wf [DecidableEq α] (d : α) : Store α → Bool
  | [] => true
  | [(_, v)] => decide (v ≠ d)
  | (k, v) :: (k', v') :: m => decide (v ≠ d) && decide (k < k') && wf d ((k', v') :: m)

end Store

end Sys2Proof
end

