-- ==== Sys2Proof/Syntax.lean ====
section
/-! DEFINITION. The operations of spec/opcode_table.json: one constructor of Instr for each row. The slot
instructions carry their operands by kind (R58, R154, R183) and their modifiers by name; the events and
host commands carry what the outside world or the choice among pending work supplies. -/

namespace Sys2Proof

/-- An operand position of kind I: a scalar or a q register (R154). -/
inductive IOp where
  | s (n : BitVec 5)
  | q (n : BitVec 3)
  deriving DecidableEq, Repr

/-- An operand position of kind I/P (R154). -/
inductive XOp where
  | i (o : IOp)
  | p (n : BitVec 4)
  deriving DecidableEq, Repr

/-- A predicate operand, p0 to p15. -/
abbrev POp := BitVec 4
/-- A vector operand, v0 to v63. -/
abbrev VOp := BitVec 6
/-- A tile index, t0 to t31. -/
abbrev TIdx := BitVec 5

/-- The fields every slot word has (R56), with the STEP field of format FT (R59). -/
structure Ctl where
  guard  : BitVec 4
  gneg   : Bool
  rtag   : Option TIdx
  sticky : Bool
  stepV  : Bool
  stepR  : BitVec 5
  deriving DecidableEq, Repr

/-- The conditions of CMP and CMPI, codes 0 to 9 (R160). -/
inductive Cond where
  | eq | ne | lt | ge | le | gt | ltu | geu | leu | gtu
  deriving DecidableEq, Repr

/-- The element types of the vector class, codes 0 to 4 (R185). -/
inductive VTy where
  | f32 | f16 | bf16 | i32 | n32
  deriving DecidableEq, Repr

/-- The rounding override RM, codes 0 to 5 (R185). -/
inductive RmSel where
  | fmode | rne | rtz | rup | rdn | rsr
  deriving DecidableEq, Repr

/-- The conditions of VCMP, codes 0 to 7 (R194). -/
inductive VCond where
  | eq | ne | lt | le | gt | ge | un | or
  deriving DecidableEq, Repr

/-- The operations of VRED and VSCAN (R197). -/
inductive RedOp where
  | add | max | min
  deriving DecidableEq, Repr

/-- The narrow formats of VQNT and VDQNT, codes 0 to 5 (R193). -/
inductive NFmt where
  | e4m3 | e5m2 | fp4 | i8 | n8 | i4
  deriving DecidableEq, Repr

/-- The weight formats WFMT, codes 0 to 4 (R206). -/
inductive WFmt where
  | e4m3 | e5m2 | fp4 | bf16 | f16
  deriving DecidableEq, Repr

/-- The scopes of R288. -/
inductive Scope where
  | core | crew | die | pkg | part
  deriving DecidableEq, Repr

/-- The orders of ATOM, CAS and ROP (R274, R281). -/
inductive Ord where
  | relaxed | acq | rel | ar
  deriving DecidableEq, Repr

/-- The kinds of PHASE (R301). -/
inductive PhaseKind where
  | acq | rel | ar
  deriving DecidableEq, Repr

/-- The scopes of TLBI (R260). -/
inductive TlbScope where
  | core | die | pkg | part
  deriving DecidableEq, Repr

/-- The operations of ATOM, codes 0 to 11 (R275). -/
inductive AtomOp where
  | add | and | or | xor | min | max | minu | maxu | swap | inc | dec | fadd
  deriving DecidableEq, Repr

/-- The operations of PFXP (R422). -/
inductive PfxOp where
  | pin | unpin | inv
  deriving DecidableEq, Repr

/-- A fault as a notice carries it from another package (R48): code, node, CORE, task and stamp. -/
structure FaultNotice where
  code  : BitVec 8
  node  : BitVec 8
  core  : BitVec 8
  task  : BitVec 20
  stamp : Nat
  deriving DecidableEq, Repr

/-- An address on which the port may be spoken to (R441). -/
inductive HostAddr where
  | v6 (a : BitVec 128)
  | v4 (a : BitVec 32)
  deriving DecidableEq, Repr

/-- A message of the command protocol as it reaches the port, its payload apart: the address it is sent to, the four words of
its header and its tag (R441, R443). -/
structure HostHdr where
  dst : HostAddr
  w0  : Word
  w1  : Word
  w2  : Word
  w3  : Word
  tag : BitVec 128
  deriving DecidableEq, Repr

/-- SEQ of a message (R443). -/
def HostHdr.seq (h : HostHdr) : BitVec 32 := h.w1.extractLsb' 32 32

/-- The register a REGRD or REGWR names: space, instance and index (R446). -/
structure RegName where
  space : BitVec 8
  inst  : BitVec 12
  index : BitVec 12
  deriving DecidableEq, Repr

/-- The eight words of a start vector (R39). -/
structure StartVector where
  w0 : Word
  w1 : Word
  w2 : Word
  w3 : Word
  w4 : Word
  w5 : Word
  w6 : Word
  w7 : Word
  deriving DecidableEq, Repr

/-- One member of a partition other than this package, as the fabric manager names it at PARTFORM: its
package index and the enabled clusters of its four dies (R20, R24, R446). -/
structure Member where
  pkg    : BitVec 6
  clmask : List (BitVec 9)
  deriving DecidableEq, Repr

/-- A packet as the receiving ports see it (R388, R389, R399): the sender, the fibres and bands over which it is striped and the
channel it came on, its number in the send queue, its counter of the IV, where its payload goes, the payload that it
decrypts to, what came over the wire, and the codewords that the FEC corrected on each fibre (R437). -/
structure Packet where
  src    : BitVec 6
  fibres : BitVec 32
  bands  : BitVec 8
  chan   : BitVec 6
  seq    : Nat
  ctr    : Word
  dest   : Word
  rq     : Bool
  bytes  : List Byte
  wire   : List Byte
  fec    : List (BitVec 5 × Nat)
  deriving DecidableEq, Repr

/-- The operations of a Mantis request (R278). -/
inductive MantisOp where
  | atom (op : AtomOp) (w64 : Bool)
  | cas (w64 : Bool)
  | mcas (nM1 : BitVec 2)
  | enq
  | chase (hM1 : BitVec 4)
  deriving DecidableEq, Repr

/-- A Mantis request of another package's core as a unit of this package receives it (R278 to R280): the source, its
number, the pointer, the operands and the block; `going` and `hops` say that the unit is at work on it, and how far. -/
structure MantisExt where
  node  : BitVec 8
  core  : BitVec 8
  seq   : BitVec 32
  retx  : Bool
  op    : MantisOp
  p     : Word
  b     : Word
  c     : Word
  blk   : List Word
  going : Bool
  hops  : List Nat
  deriving DecidableEq, Repr

/-- A store of another package's core through a peer pointer to this package (R256): 2^w bytes of a value. -/
structure PeerExt where
  p   : Word
  w   : BitVec 2
  val : Word
  deriving DecidableEq, Repr

/-- The Mantis request an event is about: an operation in flight of the stepping core, or one that another package's core
sent to a unit here (R278). -/
inductive MantisReq where
  | own (id : Nat)
  | ext (x : MantisExt)
  deriving DecidableEq, Repr

/-- The peer access an event is about: an operation in flight of the stepping core, or a store of another package's core
(R256). -/
inductive PeerReq where
  | own (id : Nat)
  | ext (x : PeerExt)
  deriving DecidableEq, Repr

/-- Where a soft error strikes (R436): the path, and what it destroys beyond data (R280). -/
inductive SoftSite where
  | sram | hbm | t2 | mantis (src : Nat) | peerMantis (node : BitVec 8) (src : Nat)
  deriving DecidableEq, Repr

/-- One operation of the machine: the slot instructions of R62 to R66, then the events and host commands. -/
inductive Instr where
  -- issue, skew and landing
  | bundleIssue
  | heldSlotPerform (slot : BitVec 3)
  | resultLanding
  -- scalar class (07_scalar_registers.md)
  | add (c : Ctl) (d a b : IOp) (w32 nat sat : Bool)
  | sub (c : Ctl) (d a b : IOp) (w32 nat sat : Bool)
  | addi (c : Ctl) (d a : IOp) (imm : BitVec 16) (w32 nat sat : Bool)
  | mul (c : Ctl) (d a b : IOp) (w32 nat sat : Bool)
  | mulh (c : Ctl) (d a b : IOp) (w32 : Bool)
  | mulhu (c : Ctl) (d a b : IOp) (w32 : Bool)
  | madd (c : Ctl) (d a b e : IOp) (w32 : Bool)
  | div (c : Ctl) (d a b : IOp) (w32 : Bool)
  | divu (c : Ctl) (d a b : IOp) (w32 : Bool)
  | rem (c : Ctl) (d a b : IOp) (w32 : Bool)
  | remu (c : Ctl) (d a b : IOp) (w32 : Bool)
  | and (c : Ctl) (d a b : IOp) (w32 : Bool)
  | or (c : Ctl) (d a b : IOp) (w32 : Bool)
  | xor (c : Ctl) (d a b : IOp) (w32 : Bool)
  | andn (c : Ctl) (d a b : IOp) (w32 : Bool)
  | andi (c : Ctl) (d a : IOp) (imm : BitVec 16) (w32 : Bool)
  | ori (c : Ctl) (d a : IOp) (imm : BitVec 16) (w32 : Bool)
  | xori (c : Ctl) (d a : IOp) (imm : BitVec 16) (w32 : Bool)
  | shl (c : Ctl) (d a b : IOp) (w32 : Bool)
  | shr (c : Ctl) (d a b : IOp) (w32 : Bool)
  | sra (c : Ctl) (d a b : IOp) (w32 : Bool)
  | shli (c : Ctl) (d a : IOp) (k : BitVec 6) (w32 : Bool)
  | shri (c : Ctl) (d a : IOp) (k : BitVec 6) (w32 : Bool)
  | srai (c : Ctl) (d a : IOp) (k : BitVec 6) (w32 : Bool)
  | rotr (c : Ctl) (d a b : IOp) (w32 : Bool)
  | clz (c : Ctl) (d a : IOp) (w32 : Bool)
  | ctz (c : Ctl) (d a : IOp) (w32 : Bool)
  | popc (c : Ctl) (d a : IOp) (w32 : Bool)
  | min (c : Ctl) (d a b : IOp) (w32 : Bool)
  | max (c : Ctl) (d a b : IOp) (w32 : Bool)
  | minu (c : Ctl) (d a b : IOp) (w32 : Bool)
  | maxu (c : Ctl) (d a b : IOp) (w32 : Bool)
  | abs (c : Ctl) (d a : IOp) (w32 sat : Bool)
  | sel (c : Ctl) (d a b : IOp) (p : POp)
  | cmp (c : Ctl) (d : POp) (a b : IOp) (w32 : Bool) (cond : Cond)
  | cmpi (c : Ctl) (d : POp) (a : IOp) (imm : BitVec 16) (w32 : Bool) (cond : Cond)
  | li (c : Ctl) (d : IOp) (imm : BitVec 16)
  | lih (c : Ctl) (d a : IOp) (imm : BitVec 16) (k : BitVec 2)
  | mov (c : Ctl) (d a : XOp)
  | ext (c : Ctl) (d a : IOp) (lo lenM1 : BitVec 6) (sx : Bool)
  | ins (c : Ctl) (d a : IOp) (lo lenM1 : BitVec 6)
  | lea (c : Ctl) (d a b : IOp) (h : BitVec 3)
  | ptag (c : Ctl) (d a : IOp) (tag : BitVec 4)
  | pand (c : Ctl) (d a b : POp) (nb : Bool)
  | por (c : Ctl) (d a b : POp) (nb : Bool)
  | pxor (c : Ctl) (d a b : POp) (nb : Bool)
  | pnot (c : Ctl) (d a : POp)
  | mrs (c : Ctl) (d : IOp) (idx : BitVec 6)
  | msr (c : Ctl) (a : IOp) (idx : BitVec 6)
  -- control class
  | br (c : Ctl) (off : BitVec 16)
  | brl (c : Ctl) (off : BitVec 16)
  | brr (c : Ctl) (a : IOp) (lnk : Bool)
  | ret (c : Ctl)
  | loop (c : Ctl) (off : BitVec 16)
  | rotset (c : Ctl) (a : IOp) (ec : BitVec 6) (rb pc : Bool)
  | yield (c : Ctl)
  | done (c : Ctl)
  | spawn (c : Ctl) (a b : IOp)
  | cbar (c : Ctl)
  | waits (c : Ctl) (d a b : IOp) (acq : Bool)
  | waitany (c : Ctl) (d : IOp) (mask : BitVec 8) (acq clr : Bool)
  | stampMonitor
  | trap (c : Ctl) (imm : BitVec 16)
  | eret (c : Ctl)
  -- memory/system class
  | ld (c : Ctl) (d : IOp) (a : BitVec 5) (imm : BitVec 16) (cls : BitVec 2) (sx : Bool) (w : BitVec 2)
  | st (c : Ctl) (d : IOp) (a : BitVec 5) (imm : BitVec 16) (w : BitVec 2)
  | ldv (c : Ctl) (d : VOp) (a : BitVec 5) (imm : BitVec 16) (cls : BitVec 2)
  | ldvs (c : Ctl) (d : VOp) (a b e : IOp) (gl : BitVec 3) (cls : BitVec 2)
  | ldvg (c : Ctl) (d : VOp) (a : IOp) (b : VOp) (scale cls : BitVec 2)
  | stv (c : Ctl) (d : VOp) (a : BitVec 5) (imm : BitVec 16)
  | stvs (c : Ctl) (d : VOp) (a b e : IOp) (gl : BitVec 3)
  | stvx (c : Ctl) (d : VOp) (a : IOp) (b : VOp) (scale : BitVec 2)
  | rewalk
  | ldq (c : Ctl) (d : BitVec 3) (a : BitVec 5) (imm : BitVec 16) (sx : Bool) (w : BitVec 2)
  | ldqBind (c : Ctl) (d : BitVec 3) (a : BitVec 5) (imm : BitVec 16)
  | ldvq (c : Ctl) (d : VOp) (a : BitVec 5) (imm : BitVec 16)
  | atom (c : Ctl) (d a b e : IOp) (op : AtomOp) (w64 : Bool) (ord : Ord) (scope : Scope)
  | cas (c : Ctl) (d a b e : IOp) (w64 : Bool) (sord : Ord) (facq : Bool) (scope : Scope)
  | atomicPerform (id : Nat)
  | ropMcas (c : Ctl) (d a b : IOp) (nM1 : BitVec 2) (ord : Ord)
  | ropEnq (c : Ctl) (d a b : IOp) (ord : Ord)
  | ropChase (c : Ctl) (d a b : IOp) (hM1 : BitVec 4) (ord : Ord)
  | mantisRequest (r : MantisReq)
  | mantisRetransmit (id : Nat)
  | variableOpComplete (id : Nat)
  | remoteWriteAck (id : Nat)
  | phase (c : Ctl) (kind : PhaseKind) (scope : Scope)
  | dirtyWriteback (line : Nat)
  | fenceo (c : Ctl)
  | fencex (c : Ctl) (a : IOp)
  | forcedBoundary (core : Nat)
  | fencexAck
  | pref (c : Ctl) (a : BitVec 5) (imm : BitVec 16) (l2only : Bool)
  | tld (c : Ctl) (d a b e : IOp) (map : BitVec 3)
  | tst (c : Ctl) (d a b e : IOp) (map : BitVec 3)
  | shmld (c : Ctl) (a : IOp) (map : BitVec 3)
  | shmst (c : Ctl) (a : IOp) (map : BitVec 3)
  | tlbi (c : Ctl) (a : IOp) (all : Bool) (scope : TlbScope)
  | tlbiInvalidate (id core : Nat)
  | kvst (c : Ctl) (d : IOp) (a b : VOp) (e : IOp) (spec : Bool) (draft : BitVec 4)
  | kalloc (c : Ctl) (d : IOp) (spec : Bool) (draft : BitVec 4)
  | kfree (c : Ctl) (a : IOp)
  | pfxh (c : Ctl) (d a b : IOp)
  | pfxl (c : Ctl) (d a b : IOp) (pin : Bool)
  | pfxi (c : Ctl) (d a b : IOp)
  | pfxp (c : Ctl) (d a : IOp) (op : PfxOp)
  | specb (c : Ctl) (d a b : IOp)
  | specc (c : Ctl) (a : IOp)
  | speca (c : Ctl)
  -- vector class (09_vector_registers.md)
  | vadd (c : Ctl) (d a b : VOp) (t : VTy) (rm : RmSel) (sat : Bool)
  | vsub (c : Ctl) (d a b : VOp) (t : VTy) (rm : RmSel) (sat : Bool)
  | vmul (c : Ctl) (d a b : VOp) (t : VTy) (rm : RmSel) (sat : Bool)
  | vfma (c : Ctl) (d a b e : VOp) (t : VTy) (rm : RmSel) (sat : Bool)
  | vfms (c : Ctl) (d a b e : VOp) (t : VTy) (rm : RmSel) (sat : Bool)
  | vfnma (c : Ctl) (d a b e : VOp) (t : VTy) (rm : RmSel) (sat : Bool)
  | vmin (c : Ctl) (d a b : VOp) (t : VTy)
  | vmax (c : Ctl) (d a b : VOp) (t : VTy)
  | vabs (c : Ctl) (d a : VOp) (t : VTy)
  | vneg (c : Ctl) (d a : VOp) (t : VTy)
  | vrcp (c : Ctl) (d a : VOp) (t : VTy) (rm : RmSel) (sat : Bool)
  | vrsq (c : Ctl) (d a : VOp) (t : VTy) (rm : RmSel) (sat : Bool)
  | vexp2 (c : Ctl) (d a : VOp) (t : VTy) (rm : RmSel) (sat : Bool)
  | vlog2 (c : Ctl) (d a : VOp) (t : VTy) (rm : RmSel) (sat : Bool)
  | vtanh (c : Ctl) (d a : VOp) (t : VTy) (rm : RmSel) (sat : Bool)
  | vcvt (c : Ctl) (d a : VOp) (dst src : VTy) (rm : RmSel) (sat : Bool)
  | vcmp (c : Ctl) (d : POp) (a b : VOp) (cond : VCond) (t : VTy) (hi : Bool)
  | vsel (c : Ctl) (d a b : VOp) (p : POp)
  | viadd (c : Ctl) (d a b : VOp) (t : VTy) (sat : Bool)
  | visub (c : Ctl) (d a b : VOp) (t : VTy) (sat : Bool)
  | vimul (c : Ctl) (d a b : VOp) (t : VTy) (sat : Bool)
  | vand (c : Ctl) (d a b : VOp)
  | vor (c : Ctl) (d a b : VOp)
  | vxor (c : Ctl) (d a b : VOp)
  | vshl (c : Ctl) (d a b : VOp)
  | vshr (c : Ctl) (d a b : VOp)
  | vsra (c : Ctl) (d a b : VOp)
  | vimin (c : Ctl) (d a b : VOp) (t : VTy)
  | vimax (c : Ctl) (d a b : VOp) (t : VTy)
  | vred (c : Ctl) (d a : VOp) (op : RedOp) (t : VTy) (rm : RmSel) (sat : Bool)
  | vscan (c : Ctl) (d a : VOp) (op : RedOp) (t : VTy) (rm : RmSel) (sat : Bool)
  | vperm (c : Ctl) (d a b : VOp)
  | vslide (c : Ctl) (d a : VOp) (b : IOp) (rot : Bool)
  | vbcast (c : Ctl) (d a : VOp) (b : IOp)
  | vsplat (c : Ctl) (d : VOp) (a : IOp)
  | vextr (c : Ctl) (d : IOp) (a : VOp) (b : IOp) (sx : Bool)
  | viota (c : Ctl) (d : VOp) (a : POp)
  | vmov (c : Ctl) (d a : VOp)
  | vpack (c : Ctl) (d a b : VOp) (t : VTy) (rm : RmSel) (sat : Bool)
  | vunpk (c : Ctl) (d a : VOp) (t : VTy) (hi : Bool)
  | vqnt (c : Ctl) (d a b : VOp) (t : VTy) (fmt : NFmt) (rm : RmSel) (sat : Bool)
  | vdqnt (c : Ctl) (d a b : VOp) (t : VTy) (fmt : NFmt) (rm : RmSel) (sat : Bool)
  | vrope (c : Ctl) (d a b : VOp) (e : IOp) (t : VTy) (rm : RmSel) (sat : Bool)
  -- tensor class (10_tile_registers.md, 11_sampled_product.md)
  | tbind (c : Ctl) (t : TIdx) (a : IOp)
  | tbindUnb (c : Ctl) (t : TIdx)
  | tfetch (c : Ctl) (t : TIdx) (a b : IOp) (auto : Bool)
  | trel (c : Ctl) (t : TIdx)
  | tstat (c : Ctl) (d : IOp) (t : TIdx) (w : BitVec 3)
  | tzero (c : Ctl) (acc : BitVec 2) (a : IOp)
  | wload (c : Ctl) (t : TIdx) (a : IOp)
  | wswap (c : Ctl)
  | mma (c : Ctl) (acc : BitVec 2) (t : TIdx) (a : IOp) (wf : WFmt) (half : Bool)
  | mmas (c : Ctl) (acc : BitVec 2) (t : TIdx) (a b : IOp) (wf : WFmt) (half wsk ask : Bool)
  | tdrain (c : Ctl) (t : TIdx) (acc : BitVec 2) (a : IOp) (rm : RmSel) (sat clr : Bool)
  | normk (c : Ctl) (t : TIdx) (a : IOp) (sideB clr : Bool)
  | aliasTab (c : Ctl) (a : IOp)
  | seed (c : Ctl) (a : IOp)
  | smm (c : Ctl) (acc : BitVec 2) (ta tb : TIdx) (a b : IOp)
  | smmv (c : Ctl) (a : IOp)
  | tileControlPerform (t : TIdx)
  | tensorJobComplete (id : Nat)
  | fillRow (t : TIdx) (row : Nat)
  -- copy/fabric class
  | cpy (c : Ctl) (d a b : IOp) (q : BitVec 2) (cb : BitVec 3)
  | cpySet (c : Ctl) (a b : IOp) (q : BitVec 2) (cb : BitVec 3)
  | cpyt (c : Ctl) (d a b : IOp) (q : BitVec 2) (cb : BitVec 3)
  | cpyl (c : Ctl) (a : IOp) (q : BitVec 2) (cb : BitVec 3)
  | kvld (c : Ctl) (t : TIdx) (d a b : IOp) (q : BitVec 2) (cb : BitVec 3)
  | send (c : Ctl) (d a b : IOp) (q : BitVec 2) (cb : BitVec 3)
  | sendRq (c : Ctl) (d a b : IOp) (q : BitVec 2) (cb : BitVec 3)
  | jobq (c : Ctl) (a : IOp)
  | coll (c : Ctl) (a : IOp) (q : BitVec 2) (cb : BitVec 3)
  | reshard (c : Ctl) (smS smD : BitVec 3) (a : IOp) (q : BitVec 2) (cb : BitVec 3)
  | slotsel (c : Ctl) (a b : IOp)
  | park (c : Ctl) (mask : BitVec 8)
  | wake (c : Ctl) (mask : BitVec 8)
  | wakeThr (c : Ctl) (mask : BitVec 8) (a : IOp)
  | linkst (c : Ctl) (d a : IOp)
  -- fabric controller, copy engines, stamps, faults at boundaries
  | copyEntryStart (q : BitVec 2)
  | faultResolveAtBoundary
  | gridAbortNotice (f : FaultNotice)
  | jobCardStart (id : Nat)
  | jobCardComplete (id : Nat)
  | sendQueueEnter (q : BitVec 2)
  | packetStart (dest : BitVec 6)
  | packetReceive (node : BitVec 8) (p : Packet)
  | packetAck (dest : BitVec 6) (seq : Nat)
  | packetResend (dest : BitVec 6)
  | bandParked (band : BitVec 3)
  | bandWakeComplete (band : BitVec 3)
  | integrityFailure (fibre : BitVec 5)
  | linkLayerNotice (pkg : BitVec 6) (fibre : BitVec 5)
  | collWalkerTake (die : BitVec 2)
  | collTransferEmit (die : BitVec 2) (id : Nat)
  | collTransferApply (die : BitVec 2) (id : Nat) (t : Nat) (outside : List (BitVec 8 × List Byte))
  | slotFreeNotice (die : BitVec 2) (id : Nat) (node : BitVec 8)
  | collComplete (die : BitVec 2) (id : Nat)
  | memberLostNotice (pkg : BitVec 6)
  | jigTake (die : BitVec 2)
  | reshardAnnounce (node : BitVec 8) (key : List Word) (base : Word)
  | reshardPieceWrite (die : BitVec 2) (id : Nat) (piece : Nat) (outside : List (Nat × Nat × Nat))
  | reshardComplete (die : BitVec 2) (id : Nat)
  -- launch, dispatch and grid
  | softError (die : BitVec 2) (site : SoftSite) (uncorrectable : Bool) (readers : List (Nat × Option Word))
  | energyCounterTick (uj : List (BitVec 64))
  | thermalThrottle (on : Bool)
  | powerLimitWithhold (cycles : BitVec 4)
  | boot (firmware : List Byte × List Nat)
  -- host link
  | roceWrite (node : BitVec 8) (qp : HostAddr × Nat) (pa : Nat) (bytes : List Byte)
  | roceRead (node : BitVec 8) (qp : HostAddr × Nat) (pa : Nat) (len : Nat)
  | session (m : HostHdr × BitVec 768)
  | regrd (h : HostHdr) (r : RegName)
  | regwr (h : HostHdr) (r : RegName) (v : List Word)
  | formatWindowWrite (h : HostHdr) (die : BitVec 2) (win : BitVec 4) (v : List Word)
  | l2lockWrite (h : HostHdr) (die : BitVec 2) (v : Word)
  | kvcfgWrite (h : HostHdr) (die : BitVec 2) (w0 : Word) (w12 : Word × Word)
  | slotcfgWrite (h : HostHdr) (w0 w1 w2 : Word)
  | keyInstall (h : HostHdr) (entry : BitVec 2) (job : BitVec 16) (peer : BitVec 768) (wrapped : BitVec 320)
  | launch (h : HostHdr) (v : StartVector)
  | preempt (h : HostHdr) (core : Nat)
  | resume (h : HostHdr) (core : Nat)
  | partform (h : HostHdr) (id : BitVec 16) (pkg : BitVec 6) (mesh : Word) (tb : Word) (others : List Member)
  | detach (h : HostHdr) (pkg : BitVec 6)
  | dissolve (h : HostHdr)
  | retrain (h : HostHdr) (fibre : BitVec 5) (ok : Bool)
  | attest (h : HostHdr) (nonce : BitVec 384) (range : Option (BitVec 8 × Nat × Nat))
  | recall (h : HostHdr) (num : BitVec 32)
  | peerRequest (r : PeerReq)
  | roceRequestReject (qp : HostAddr × Option Nat)
  | bootFlashRecovery (image : List Byte)
  -- events that carry nothing
  | launchEvaluate
  | dispatch
  | priorityRaise
  | gridEnd
  | watchdog
  | thermalShutdown
  | packageReset
  | resync
  | pageWaitRewalk
  | latheStep
  | smmBatch
  | hostMessageDiscard
  | fabricOpApply
  | copyPiece
  | stampWrite
  | slotStart
  | rotationSwitch
  | thresholdFire
  | tensorJobStart
  deriving DecidableEq, Repr

end Sys2Proof
end

