-- ==== Sys2Proof/Machine/Numbers.lean ====
section
/-! DEFINITION. Number formats and exact arithmetic (R100 to R119): decoding a pattern to an exact value,
exact sums and products, and the one rounding that stores a value in a format. -/

namespace Sys2Proof.Machine

/-- The binary floating-point formats (R100). -/
inductive FFmt where
  | fp64 | fp32 | fp16 | bf16 | e5m2 | e4m3 | fp4
  deriving DecidableEq, Repr

/-- Exponent bits (R100). -/
def FFmt.ebits : FFmt → Nat
  | .fp64 => 11 | .fp32 => 8 | .fp16 => 5 | .bf16 => 8 | .e5m2 => 5 | .e4m3 => 4 | .fp4 => 2
/-- Fraction bits (R100). -/
def FFmt.fbits : FFmt → Nat
  | .fp64 => 52 | .fp32 => 23 | .fp16 => 10 | .bf16 => 7 | .e5m2 => 2 | .e4m3 => 3 | .fp4 => 1
/-- Bias (R100). -/
def FFmt.bias : FFmt → Nat
  | .fp64 => 1023 | .fp32 => 127 | .fp16 => 15 | .bf16 => 127 | .e5m2 => 15 | .e4m3 => 7 | .fp4 => 1
/-- Width in bits (R100). -/
def FFmt.width (f : FFmt) : Nat := 1 + f.ebits + f.fbits
/-- Whether the format has infinities (R101). -/
def FFmt.hasInf : FFmt → Bool
  | .e4m3 | .fp4 => false
  | .fp64 | .fp32 | .fp16 | .bf16 | .e5m2 => true
/-- The canonical NaN; FP4 has none and stores +0 (R101, R113). -/
def FFmt.nan : FFmt → Nat
  | .fp64 => 0x7FF8000000000000 | .fp32 => 0x7FC00000 | .fp16 => 0x7E00 | .bf16 => 0x7FC0 | .e5m2 => 0x7E
  | .e4m3 => 0x7F | .fp4 => 0
/-- The pattern of the largest finite value (R100, R101). -/
def FFmt.maxFinite : FFmt → Nat
  | .fp64 => 0x7FEFFFFFFFFFFFFF | .fp32 => 0x7F7FFFFF | .fp16 => 0x7BFF | .bf16 => 0x7F7F | .e5m2 => 0x7B
  | .e4m3 => 0x7E | .fp4 => 7
/-- The pattern of +infinity, where there is one. -/
def FFmt.inf (f : FFmt) : Nat := (2 ^ f.ebits - 1) * 2 ^ f.fbits
/-- Whether FTZ applies to the format (R114). -/
def FFmt.flushes : FFmt → Bool
  | .fp32 | .fp16 | .bf16 => true
  | .fp64 | .e5m2 | .e4m3 | .fp4 => false

/-- An exact value: (−1)^neg × m × 2^e, an infinity or NaN. Zero keeps its sign. -/
inductive Ex where
  | nan
  | inf (neg : Bool)
  | fin (neg : Bool) (m : Nat) (e : Int)
  deriving DecidableEq, Repr

/-- The value of a pattern of a format (R100, R101); with `ftz` a subnormal reads as zero (R114). -/
def decodeF (f : FFmt) (ftz : Bool) (p : Nat) : Ex :=
  let neg := p.testBit (f.ebits + f.fbits)
  let ex := p / 2 ^ f.fbits % 2 ^ f.ebits
  let fr := p % 2 ^ f.fbits
  if ex = 2 ^ f.ebits - 1 && f.hasInf then (if fr = 0 then .inf neg else .nan)
  else if f == .e4m3 && ex == 15 && fr == 7 then .nan
  else if ex = 0 then .fin neg (if ftz && f.flushes then 0 else fr) (1 - f.bias - f.fbits)
  else .fin neg (2 ^ f.fbits + fr) (ex - f.bias - f.fbits)

/-- A signed integer as an exact value. -/
def Ex.ofInt (x : Int) : Ex := .fin (x < 0) x.natAbs 0
/-- A value times a power of two. -/
def Ex.scale (x : Ex) (k : Int) : Ex :=
  match x with
  | .fin n m e => .fin n m (e + k)
  | y => y
/-- The value with its sign inverted. -/
def Ex.neg : Ex → Ex
  | .nan => .nan
  | .inf n => .inf (!n)
  | .fin n m e => .fin (!n) m e
/-- An E8M0 scale applied to a value (R104). -/
def Ex.e8m0 (x : Ex) (s : Nat) : Ex := if s = 255 then .nan else x.scale ((s : Int) - 127)

/-- The exact product; ∞ × 0 is NaN (R187). -/
def Ex.mul : Ex → Ex → Ex
  | .nan, _ => .nan
  | _, .nan => .nan
  | .inf a, .inf b => .inf (a != b)
  | .inf a, .fin b m _ => if m = 0 then .nan else .inf (a != b)
  | .fin a m _, .inf b => if m = 0 then .nan else .inf (a != b)
  | .fin a m e, .fin b n f => .fin (a != b) (m * n) (e + f)

/-- The signed integer of a value at a lower exponent. -/
def signedAt (n : Bool) (m : Nat) (e lo : Int) : Int :=
  if n then -((m * 2 ^ (e - lo).toNat : Nat) : Int) else ((m * 2 ^ (e - lo).toNat : Nat) : Int)

/-- The exact sum; ∞ − ∞ is NaN. An exact zero is −0 when both terms are −0, or in RDN when their signs differ
(R112). -/
def Ex.add (rdn : Bool) : Ex → Ex → Ex
  | .nan, _ => .nan
  | _, .nan => .nan
  | .inf a, .inf b => if a = b then .inf a else .nan
  | .inf a, .fin _ _ _ => .inf a
  | .fin _ _ _, .inf b => .inf b
  | .fin a m e, .fin b n f =>
    let lo := min e f
    let x := signedAt a m e lo + signedAt b n f lo
    if x = 0 then .fin (if a = b then a else rdn) 0 0 else .fin (x < 0) x.natAbs lo

/-- Whether a value is less than another, both ordered; −0 is below +0 when `zeros` is set (R189, R194). -/
def Ex.lt (zeros : Bool) : Ex → Ex → Bool
  | .fin a m e, .fin b n f =>
    let x := signedAt a m e (min e f)
    let y := signedAt b n f (min e f)
    x < y || (zeros && x == 0 && y == 0 && a && !b)
  | .inf a, .inf b => a && !b
  | .inf a, .fin _ _ _ => a
  | .fin _ _ _, .inf b => !b
  | _, _ => false

/-- Whether a value is NaN. -/
def Ex.isNan : Ex → Bool
  | .nan => true
  | .inf _ | .fin _ _ _ => false

/-- The rounding modes 0 to 4 (R109). -/
inductive RMode where
  | rne | rtz | rup | rdn | rsr
  deriving DecidableEq, Repr

/-- Whether the magnitude m × 2^-d, not an integer, rounds away from zero (R112, R116); `r` is the draw. -/
def roundsUp (mode : RMode) (neg : Bool) (m d r : Nat) : Bool :=
  let n := m / 2 ^ d
  let rem := m % 2 ^ d
  match mode with
  | .rne => 2 ^ d < 2 * rem || (2 * rem == 2 ^ d && n % 2 == 1)
  | .rtz => false
  | .rup => !neg
  | .rdn => neg
  | .rsr => if neg then 2 ^ 32 * (2 ^ d - rem) / 2 ^ d ≤ r else r < 2 ^ 32 * rem / 2 ^ d

/-- The magnitude m × 2^-d rounded to an integer (R112). -/
def roundMag (mode : RMode) (neg : Bool) (m d r : Nat) : Nat :=
  if m % 2 ^ d = 0 then m / 2 ^ d else m / 2 ^ d + (if roundsUp mode neg m d r then 1 else 0)

/-- What a format stores for an overflow of a sign (R113). -/
def overflowF (f : FFmt) (mode : RMode) (sat neg : Bool) : Nat :=
  if sat || !f.hasInf then f.maxFinite
  else match mode with
    | .rne | .rsr => f.inf
    | .rtz => f.maxFinite
    | .rup => if neg then f.maxFinite else f.inf
    | .rdn => if neg then f.inf else f.maxFinite

/-- The magnitude pattern of a non-zero value rounded to a format, before overflow and FTZ (R112): the fraction
carries into the exponent. -/
def roundPattern (f : FFmt) (mode : RMode) (neg : Bool) (m : Nat) (e : Int) (r : Nat) : Nat :=
  let q := max ((m.log2 : Int) + e) (1 - (f.bias : Int)) - f.fbits
  let n := if q ≤ e then m * 2 ^ (e - q).toNat else roundMag mode neg m (q - e).toNat r
  (q + f.fbits + f.bias - 1).toNat * 2 ^ f.fbits + n

/-- Round(x, fmt, mode) of R112 to R115; `r` is the 32-bit draw of a stochastic rounding. -/
def roundF (f : FFmt) (mode : RMode) (ftz sat : Bool) (r : Nat) (x : Ex) : Nat :=
  let signed := fun (neg : Bool) (p : Nat) => if neg then 2 ^ (f.ebits + f.fbits) + p else p
  match x with
  | .nan => f.nan
  | .inf n => signed n (if sat || !f.hasInf then f.maxFinite else f.inf)
  | .fin n 0 _ => signed n 0
  | .fin n m e =>
    let p := roundPattern f mode n m e r
    if f.maxFinite < p then signed n (overflowF f mode sat n)
    else if ftz && f.flushes && p < 2 ^ f.fbits then signed n 0
    else signed n p

/-- The value rounded to an integer; NaN gives 0 and an infinity the limit (R119). -/
def roundInt (mode : RMode) (lo hi : Int) (r : Nat) (x : Ex) : Int :=
  match x with
  | .nan => 0
  | .inf n => if n then lo else hi
  | .fin n m e =>
    let k := if 0 ≤ e then m * 2 ^ e.toNat else roundMag mode n m (-e).toNat r
    max lo (min hi (if n then -(k : Int) else k))

/-! ## The mode in force (R109 to R111, R186) -/

/-- The mode that an RM field and FMODE give (R110). -/
def modeOf (rm : RmSel) (fmode : BitVec 64) : RMode :=
  match rm with
  | .rne => .rne
  | .rtz => .rtz
  | .rup => .rup
  | .rdn => .rdn
  | .rsr => .rsr
  | .fmode =>
    match (fmode.extractLsb' 0 3).toNat with
    | 0 => .rne
    | 1 => .rtz
    | 2 => .rup
    | 3 => .rdn
    | _ => .rsr

/-- The mode of an operation that is not narrowing: stochastic gives RNE (R111). -/
def RMode.wide : RMode → RMode
  | .rsr => .rne
  | m => m

/-- FTZ of FMODE (R109). -/
def ftzOf (fmode : BitVec 64) : Bool := fmode.getLsbD 3

/-! ## Mix64 and the generator (R86, R229) -/

/-- The mixer of R86. -/
def mix64 (x : BitVec 64) : BitVec 64 :=
  let a := 0xD6E8FEB86659FD93 * (x ^^^ (x >>> 31))
  let b := 0xA3B195354A39B70D * (a ^^^ (a >>> 29))
  b ^^^ (b >>> 32)
/-- Draw number `c` under key `k` (R229). -/
def gen (k c : BitVec 64) : BitVec 64 := mix64 (k ^^^ (0x9E3779B97F4A7C15 * c))

/-! ## N4X (R106 to R108) -/

/-- What the decoding of an N4X block answers: its 32 values, or that a marker stands in element 31. -/
def n4xScan (oxp scale : Nat) (code : Nat → Nat) : Nat → Nat → Option (List Ex)
  | 0, _ => some []
  | n + 1, i =>
    if 32 ≤ i then some []
    else if code i ≠ 8 then
      (n4xScan oxp scale code n (i + 1)).map
        ((Ex.ofInt (if 8 ≤ code i then (code i : Int) - 16 else code i)).e8m0 scale :: ·)
    else if i = 31 then none
    else
      let p := code (i + 1)
      (n4xScan oxp scale code n (i + 2)).map fun l =>
        (decodeF .e4m3 false (p / 8 * 128 + oxp * 8 + p % 8)).e8m0 scale :: (Ex.fin false 0 0).e8m0 scale :: l

/-- The fault that decoding a block meets (R108), apart from alignment. -/
inductive N4xFault where
  | reserved | format
  deriving DecidableEq, Repr

/-- A block of 18 bytes decoded (R107). -/
def decodeN4x (b : List Byte) : Except N4xFault (List Ex) :=
  let h := (b.getD 0 0).toNat + 256 * (b.getD 1 0).toNat
  if h / 4096 ≠ 0 then .error .reserved
  else
    match n4xScan (h / 256 % 16) (h % 256) (fun i => (b.getD (2 + i / 2) 0).toNat / (if i % 2 = 0 then 1 else 16) % 16) 32 0 with
    | some l => .ok l
    | none => .error .format

end Sys2Proof.Machine
end

