-- ==== Sys2Proof/Machine/Flags.lean ====
section
/-! DEFINITION. Integer arithmetic of the scalar class: views, wrapping and saturation (R117, R157), division
(R118), bit counts, and the conditions of the compares (R160). The machine has no flag register: a compare
writes a predicate. -/

namespace Sys2Proof.Machine

/-- The operation width that W32 selects (R156). -/
def width (w32 : Bool) : Nat := if w32 then 32 else 64

/-- The natural view of the low w bits (R157). -/
def viewN (w32 : Bool) (x : Word) : Int := if w32 then (x.setWidth 32).toNat else x.toNat
/-- The signed view of the low w bits (R157). -/
def viewS (w32 : Bool) (x : Word) : Int := if w32 then (x.setWidth 32).toInt else x.toInt
/-- The view that NAT selects (R158). -/
def viewOf (w32 nat : Bool) (x : Word) : Int := if nat then viewN w32 x else viewS w32 x

/-- An exact integer taken modulo 2^w, a 32-bit result sign-extended (R157). -/
def wrapInt (w32 : Bool) (x : Int) : Word := if w32 then (BitVec.ofInt 32 x).signExtend 64 else BitVec.ofInt 64 x
/-- A word cut to w bits and sign-extended (R157). -/
def wrapWord (w32 : Bool) (x : Word) : Word := if w32 then (x.setWidth 32).signExtend 64 else x

/-- The least value of the w-bit range of a view. -/
def lowest (w32 nat : Bool) : Int := if nat then 0 else -(2 ^ (width w32 - 1))
/-- The greatest value of the w-bit range of a view. -/
def highest (w32 nat : Bool) : Int := if nat then 2 ^ width w32 - 1 else 2 ^ (width w32 - 1) - 1

/-- An exact integer as the result of an integer instruction: clamped when SAT is set, then wrapped (R117,
R157). -/
def intResult (w32 nat sat : Bool) (x : Int) : Word :=
  wrapInt w32 (if sat then max (lowest w32 nat) (min (highest w32 nat) x) else x)

/-- The quotient of R118: truncated towards zero, all ones for a divisor of 0. -/
def quotient (a b : Int) : Int := if b = 0 then -1 else a.tdiv b
/-- The remainder of R118: the dividend's sign, the dividend for a divisor of 0. -/
def remainder (a b : Int) : Int := if b = 0 then a else a.tmod b

/-- Leading zero bits of a w-bit number (R158). -/
def leadingZeros (w32 : Bool) (x : Nat) : Nat := if x = 0 then width w32 else width w32 - 1 - x.log2
/-- Trailing zero bits of a w-bit number (R158). -/
def trailingZeros (w32 : Bool) (x : Nat) : Nat :=
  ((List.range (width w32)).find? fun j => x.testBit j).getD (width w32)
/-- One bits of a w-bit number (R158). -/
def oneBits (w32 : Bool) (x : Nat) : Nat := ((List.range (width w32)).filter fun j => x.testBit j).length

/-- A word rotated right within w bits (R158). -/
def rotateRight (w32 : Bool) (x : Word) (k : Nat) : Word :=
  if w32 then ((x.setWidth 32).rotateRight k).signExtend 64 else x.rotateRight k

/-- Whether a condition of R160 holds. -/
def condHolds (c : Cond) (w32 : Bool) (a b : Word) : Bool :=
  match c with
  | .eq => viewS w32 a == viewS w32 b
  | .ne => viewS w32 a != viewS w32 b
  | .lt => viewS w32 a < viewS w32 b
  | .ge => viewS w32 b ≤ viewS w32 a
  | .le => viewS w32 a ≤ viewS w32 b
  | .gt => viewS w32 b < viewS w32 a
  | .ltu => viewN w32 a < viewN w32 b
  | .geu => viewN w32 b ≤ viewN w32 a
  | .leu => viewN w32 a ≤ viewN w32 b
  | .gtu => viewN w32 b < viewN w32 a

/-- The field of `len` bits at bit `lo` (R162). -/
def fieldOf (x : Word) (lo len : Nat) (sx : Bool) : Word :=
  let y := x >>> lo <<< (64 - len)
  if sx then y.sshiftRight (64 - len) else y >>> (64 - len)
/-- A word with the field of `len` bits at bit `lo` replaced (R162). -/
def insertField (old x : Word) (lo len : Nat) : Word :=
  let m : Word := (BitVec.allOnes 64 >>> (64 - len)) <<< lo
  (old &&& ~~~m) ||| ((x <<< lo) &&& m)

/-- A pointer moved by a signed offset, its tag kept and the offset taken modulo 2^60 (R163, R264). -/
def addOffset (p x : Word) : Word := p.extractLsb' 60 4 ++ (p + x).extractLsb' 0 60

end Sys2Proof.Machine
end

