-- ==== Sys2Proof/Config.lean ====
section
/-! DEFINITION. What the manual leaves to the part or to the world outside it: free values, each an opaque
constant without a body. State.free counts the draws, so that two draws are two values. -/

namespace Sys2Proof.Config

/-- The x-coordinate of an ECDH agreement on brainpoolP384r1 between the device key and the public key
given, or none where the check fails (R398, R446; log entry 10). -/
opaque ecdhX : BitVec 768 → BitVec 384
/-- SHA-384 of a list of bytes (R398, R446, R449; log entry 10). -/
opaque sha384 : List Byte → BitVec 384
/-- The RFC 3394 AES-256 unwrap of a 40-byte wrapped key; none where its check fails (R398; log entry 10). -/
opaque aesUnwrap : BitVec 256 → BitVec 320 → Option (BitVec 256)
/-- The signature r‖s over a report with the identity key (R449; log entry 10). -/
opaque ecdsaSign : List Byte → BitVec 768
/-- The check of an ECDSA signature on brainpoolP384r1: public key, digest, signature (R449; log entry 10). -/
opaque ecdsaVerify : List Byte → BitVec 384 → BitVec 768 → Bool
/-- The public key that stands in a firmware image (R449; log entry 10). -/
opaque fwPublicKey : List Byte → List Byte
/-- The signature that stands in a firmware image (R449; log entry 10). -/
opaque fwSignature : List Byte → BitVec 768
/-- The security version that a firmware image names, SVN of R449 (log entry 10). -/
opaque fwVersion : List Byte → BitVec 64
/-- The fused digest of the firmware's public key (R449; log entry 10). -/
opaque fusedKeyDigest : BitVec 384
/-- The fused minimum of the security version (R449; log entry 10). -/
opaque fusedMinVersion : BitVec 64
/-- AES-256-GCM: key, IV, what is authenticated and what is encrypted; the ciphertext with its tag (R399; log entry 95). -/
opaque aesGcm : BitVec 256 → BitVec 96 → List Byte → List Byte → List Byte
/-- The header of a packet on the wire: its number, its target, and whether it is for a receive queue (R399; log entry 95). -/
opaque packetHeader : Nat → Word → Bool → List Byte
/-- The key under which packets go where no key of the partition is installed (R399; log entry 95). -/
opaque noKey : BitVec 256
/-- The AES-256-GCM tag of a message of the command protocol: key, header, payload (R443; log entry 96). -/
opaque messageTag : BitVec 256 → List Word → List Byte → BitVec 128
/-- The fused MAC address of the port (R441). -/
opaque macAddress : BitVec 48
/-- Fuse words of another package that its capability frame shows and that no rule tells (R22; log entry 76). -/
opaque peerFuses : Nat → Nat → Word
/-- A value that the manual leaves open, drawn by State.free (log entry 2). -/
opaque freeWord : Nat → Word

end Sys2Proof.Config
end

