-- ==== Sys2Proof/WellFormed.lean ====
section
/-! DEFINITION. Which slot instructions have an encoding: the ranges and exclusions that step 8 of R68 and
each full description put on the fields. Events and host commands have no slot word and are well formed. -/

namespace Sys2Proof

/-- The types of a floating-point row of R188. -/
def VTy.isFloat : VTy → Bool
  | .f32 | .f16 | .bf16 => true
  | .i32 | .n32 => false

/-- The 16-bit packed types (R182). -/
def VTy.isHalf : VTy → Bool
  | .f16 | .bf16 => true
  | .f32 | .i32 | .n32 => false

/-- TYPE and SAT of a floating-point row: SAT must be 0 with f32 (R188). -/
def floatForm (t : VTy) (sat : Bool) : Bool := t.isFloat && (t.isHalf || !sat)

/-- The legal pairs of VCVT and where SAT is accepted (R191). -/
def cvtForm (dst src : VTy) (sat : Bool) : Bool :=
  match dst, src with
  | .f16, .f16 | .f16, .bf16 | .bf16, .f16 | .bf16, .bf16 | .f32, .f32 => true
  | .i32, .i32 | .i32, .n32 | .n32, .i32 | .n32, .n32 => true
  | .i32, .f32 | .n32, .f32 | .f32, .i32 | .f32, .n32 => !sat
  | _, _ => false

/-- TYPE, operation, RM and SAT of VRED and VSCAN (R197). -/
def redForm (op : RedOp) (t : VTy) (rm : RmSel) (sat : Bool) : Bool :=
  (t.isFloat || rm == .fmode) && (!sat || (op == .add && t != .f32))

/-- No modifier fields beyond the guard: slots S0 to S3 (R68, step 6). -/
def Ctl.plain (c : Ctl) : Bool := c.rtag.isNone && !c.sticky && !c.stepV && c.stepR == 0
/-- A vector slot: sticky and a ready tag are allowed, and there is no STEP field (R67, R81). -/
def Ctl.vector (c : Ctl) : Bool := !c.stepV && c.stepR == 0
/-- A tn or cf slot whose operation may be sticky: STEP is zero while S is 0 (R68, step 8). -/
def Ctl.stepped (c : Ctl) : Bool := c.sticky || (!c.stepV && c.stepR == 0)
/-- A tn or cf slot whose operation may not be sticky (R67). -/
def Ctl.single (c : Ctl) : Bool := !c.sticky && !c.stepV && c.stepR == 0

/-- The slot instructions that have an encoding, and every event and host command. -/
def Instr.wf : Instr → Bool
  | .add c .. | .sub c .. | .addi c .. | .mul c .. | .mulh c .. | .mulhu c .. | .madd c .. | .div c ..
  | .divu c .. | .rem c .. | .remu c .. | .and c .. | .or c .. | .xor c .. | .andn c .. | .andi c ..
  | .ori c .. | .xori c .. | .shl c .. | .shr c .. | .sra c .. | .rotr c .. | .clz c .. | .ctz c ..
  | .popc c .. | .min c .. | .max c .. | .minu c .. | .maxu c .. | .abs c .. | .sel c .. | .cmp c ..
  | .cmpi c .. | .li c .. | .lih c .. | .mov c .. | .lea c .. | .ptag c .. | .pand c .. | .por c ..
  | .pxor c .. | .pnot c .. | .mrs c .. | .msr c .. => c.plain
  | .shli c _ _ k w32 | .shri c _ _ k w32 | .srai c _ _ k w32 => c.plain && (!w32 || k < 32)
  | .ext c _ _ lo lenM1 _ | .ins c _ _ lo lenM1 => c.plain && lo.toNat + lenM1.toNat < 64
  | .br c .. | .brl c .. | .brr c .. | .ret c | .loop c .. | .rotset c .. | .yield c | .done c | .spawn c ..
  | .cbar c | .waits c .. | .trap c .. | .eret c => c.plain
  | .waitany c _ mask _ _ => c.plain && mask != 0
  | .ld c _ _ _ _ sx w | .ldq c _ _ _ sx w => c.plain && !(sx && w == 3)
  | .ldvs c _ _ _ _ gl _ | .stvs c _ _ _ _ gl => c.plain && gl != 7
  | .st c .. | .ldv c .. | .ldvg c .. | .stv c .. | .stvx c .. | .ldqBind c .. | .ldvq c .. => c.plain
  | .atom c _ _ _ e op w64 ord scope =>
      c.plain && (ord != .relaxed || scope == .core) && (op == .inc || op == .dec || e == .s 0)
        && (op != .fadd || !w64)
  | .cas c _ _ _ _ _ sord facq scope => c.plain && (sord != .relaxed || facq || scope == .core)
  | .ropMcas c .. | .ropEnq c .. | .ropChase c .. | .phase c .. | .fenceo c | .fencex c .. | .pref c ..
  | .tld c .. | .tst c .. | .shmld c .. | .shmst c .. => c.plain
  | .tlbi c a all _ => c.plain && (!all || a == .s 0)
  | .kvst c _ _ _ _ spec draft | .kalloc c _ spec draft => c.plain && (spec || draft == 0)
  | .kfree c .. | .pfxh c .. | .pfxl c .. | .pfxi c .. | .pfxp c .. | .specb c .. | .specc c .. | .speca c =>
      c.plain
  | .vadd c _ _ _ t _ sat | .vsub c _ _ _ t _ sat | .vmul c _ _ _ t _ sat => c.vector && floatForm t sat
  | .vfma c _ _ _ _ t _ sat | .vfms c _ _ _ _ t _ sat | .vfnma c _ _ _ _ t _ sat => c.vector && floatForm t sat
  | .vmin c _ _ _ t | .vmax c _ _ _ t | .vabs c _ _ t | .vneg c _ _ t => c.vector && t.isFloat
  | .vrcp c _ _ t _ sat | .vrsq c _ _ t _ sat | .vexp2 c _ _ t _ sat | .vlog2 c _ _ t _ sat
  | .vtanh c _ _ t _ sat => c.vector && floatForm t sat
  | .vcvt c _ _ dst src _ sat => c.vector && cvtForm dst src sat
  | .vcmp c _ _ _ cond t hi =>
      c.vector && (t.isFloat || (cond != .un && cond != .or)) && (t.isHalf || !hi)
  | .vsel c .. => c.vector
  | .viadd c _ _ _ t _ | .visub c _ _ _ t _ | .vimul c _ _ _ t _ => c.vector && !t.isFloat
  | .vand c .. | .vor c .. | .vxor c .. | .vshl c .. | .vshr c .. | .vsra c .. => c.vector
  | .vimin c _ _ _ t | .vimax c _ _ _ t => c.vector && !t.isFloat
  | .vred c _ _ op t rm sat | .vscan c _ _ op t rm sat => c.vector && redForm op t rm sat
  | .vperm c .. | .vslide c .. | .vbcast c .. | .vsplat c .. | .vextr c .. | .viota c .. | .vmov c .. => c.vector
  | .vpack c _ _ _ t _ _ | .vunpk c _ _ t _ => c.vector && t.isHalf
  | .vqnt c _ _ _ t fmt _ sat => c.vector && t.isFloat && (!sat || fmt == .e5m2)
  | .vdqnt c _ _ _ t _ _ sat | .vrope c _ _ _ _ t _ sat => c.vector && floatForm t sat
  | .tbind c .. | .tbindUnb c _ | .tstat c .. | .normk c .. | .aliasTab c .. | .seed c .. | .smm c ..
  | .smmv c .. => c.single
  | .tfetch c .. | .trel c .. | .tzero c .. | .wload c .. | .wswap c | .mma c .. | .mmas c .. | .tdrain c .. =>
      c.stepped
  | .cpy c .. | .cpySet c .. | .cpyt c .. | .kvld c .. | .send c .. | .sendRq c .. => c.stepped
  | .cpyl c .. | .jobq c .. | .coll c .. | .reshard c .. | .slotsel c .. | .park c .. | .wake c ..
  | .wakeThr c .. | .linkst c .. => c.single
  | _ => true

end Sys2Proof
end

