-- ==== Sys2Proof/Decode.lean ====
section
/-! DEFINITION. Bundle headers and slot words: the encoder of a well-formed slot instruction, the decoder
with the order of R68, and the reader of one slot word for the opcode table. -/

namespace Sys2Proof

/-- The faults that decoding raises (R68, R132). -/
inductive DecodeFault where
  | illegalOpcode | illegalSlot | reservedField | stickyInvalid
  deriving DecidableEq, Repr

/-- The six classes of opcodes (R61). -/
inductive OpClass where
  | scalar | control | memory | vector | tensor | copy
  deriving DecidableEq, Repr

/-- The class of an assigned opcode, none for an unassigned one (R61). -/
def opClass (opc : Nat) : Option OpClass :=
  if opc ≤ 0x030 then some .scalar
  else if 0x100 ≤ opc ∧ opc ≤ 0x10D then some .control
  else if 0x140 ≤ opc ∧ opc ≤ 0x15F then some .memory
  else if 0x200 ≤ opc ∧ opc ≤ 0x22A then some .vector
  else if 0x300 ≤ opc ∧ opc ≤ 0x30E then some .tensor
  else if 0x380 ≤ opc ∧ opc ≤ 0x38B then some .copy
  else none

/-- Whether a class may stand in slot S`k` (R55, R61). -/
def OpClass.inSlot : OpClass → Nat → Bool
  | .scalar, k => k == 0 || k == 1
  | .control, k => k == 2
  | .memory, k => k == 3
  | .vector, k => k == 4 || k == 5
  | .tensor, k => k == 6
  | .copy, k => k == 7

/-- The lowest slot of a class. -/
def OpClass.slot : OpClass → Nat
  | .scalar => 0
  | .control => 2
  | .memory => 3
  | .vector => 4
  | .tensor => 6
  | .copy => 7

/-- The sticky-capable opcodes (R67). -/
def stickyOpcode (opc : Nat) : Bool :=
  (0x200 ≤ opc && opc ≤ 0x22A) || opc == 0x301 || opc == 0x302 || (0x304 ≤ opc && opc ≤ 0x309)
    || opc == 0x380 || opc == 0x381 || opc == 0x383 || opc == 0x384

/-! ## The bundle header (R53) -/

/-- A decoded bundle header. -/
structure Header where
  slots   : BitVec 8
  stall   : BitVec 4
  rep     : BitVec 6
  mark    : Bool
  wait    : BitVec 8
  set     : Option (BitVec 3)
  scancel : BitVec 4
  deriving DecidableEq, Repr

/-- Steps 1 and 2 of R68, and the fields of a header that passes them. -/
def decodeHeader (w : BitVec 64) : Except DecodeFault Header :=
  let slots := w.extractLsb' 56 8
  let rep := w.extractLsb' 46 6
  let setv := w.getLsbD 32
  if w.getLsbD 44 || w.extractLsb' 24 4 != 0 || w.extractLsb' 0 24 != 0
      || (!setv && w.extractLsb' 33 3 != 0) then .error .reservedField
  else if rep != 0 && (slots.getLsbD 2 || slots.getLsbD 3) then .error .illegalOpcode
  else .ok
    { slots := slots, stall := w.extractLsb' 52 4, rep := rep, mark := w.getLsbD 45,
      wait := w.extractLsb' 36 8, set := if setv then some (w.extractLsb' 33 3) else none,
      scancel := w.extractLsb' 28 4 }

/-- The header word of a header. -/
def Header.encode (h : Header) : BitVec 64 :=
  h.slots ++ h.stall ++ h.rep ++ BitVec.ofBool h.mark ++ (0#1 : BitVec 1) ++ h.wait ++ h.set.getD 0
    ++ BitVec.ofBool h.set.isSome ++ h.scancel ++ (0#28 : BitVec 28)

/-- The slots present, ascending. -/
def Header.present (h : Header) : List Nat := (List.range 8).filter (h.slots.getLsbD ·)

/-- The bundle's length in bytes (R52). -/
def Header.length (h : Header) : Nat := 8 * (1 + h.present.length)

/-! ## Field codes -/

/-- The code of R160. -/
def Cond.code : Cond → BitVec 4
  | .eq => 0
  | .ne => 1
  | .lt => 2
  | .ge => 3
  | .le => 4
  | .gt => 5
  | .ltu => 6
  | .geu => 7
  | .leu => 8
  | .gtu => 9

/-- The value with a code of R160; a code of no value gives one whose own code differs. -/
def Cond.ofCode (x : BitVec 4) : Cond :=
  match x.toNat with
  | 0 => .eq
  | 1 => .ne
  | 2 => .lt
  | 3 => .ge
  | 4 => .le
  | 5 => .gt
  | 6 => .ltu
  | 7 => .geu
  | 8 => .leu
  | _ => .gtu

/-- The code of R185. -/
def VTy.code : VTy → BitVec 3
  | .f32 => 0
  | .f16 => 1
  | .bf16 => 2
  | .i32 => 3
  | .n32 => 4

/-- The value with a code of R185; a code of no value gives one whose own code differs. -/
def VTy.ofCode (x : BitVec 3) : VTy :=
  match x.toNat with
  | 0 => .f32
  | 1 => .f16
  | 2 => .bf16
  | 3 => .i32
  | _ => .n32

/-- The code of R185. -/
def RmSel.code : RmSel → BitVec 3
  | .fmode => 0
  | .rne => 1
  | .rtz => 2
  | .rup => 3
  | .rdn => 4
  | .rsr => 5

/-- The value with a code of R185; a code of no value gives one whose own code differs. -/
def RmSel.ofCode (x : BitVec 3) : RmSel :=
  match x.toNat with
  | 0 => .fmode
  | 1 => .rne
  | 2 => .rtz
  | 3 => .rup
  | 4 => .rdn
  | _ => .rsr

/-- The code of R194. -/
def VCond.code : VCond → BitVec 3
  | .eq => 0
  | .ne => 1
  | .lt => 2
  | .le => 3
  | .gt => 4
  | .ge => 5
  | .un => 6
  | .or => 7

/-- The value with a code of R194; a code of no value gives one whose own code differs. -/
def VCond.ofCode (x : BitVec 3) : VCond :=
  match x.toNat with
  | 0 => .eq
  | 1 => .ne
  | 2 => .lt
  | 3 => .le
  | 4 => .gt
  | 5 => .ge
  | 6 => .un
  | _ => .or

/-- The code of R197. -/
def RedOp.code : RedOp → BitVec 3
  | .add => 0
  | .max => 1
  | .min => 2

/-- The value with a code of R197; a code of no value gives one whose own code differs. -/
def RedOp.ofCode (x : BitVec 3) : RedOp :=
  match x.toNat with
  | 0 => .add
  | 1 => .max
  | _ => .min

/-- The code of R193. -/
def NFmt.code : NFmt → BitVec 3
  | .e4m3 => 0
  | .e5m2 => 1
  | .fp4 => 2
  | .i8 => 3
  | .n8 => 4
  | .i4 => 5

/-- The value with a code of R193; a code of no value gives one whose own code differs. -/
def NFmt.ofCode (x : BitVec 3) : NFmt :=
  match x.toNat with
  | 0 => .e4m3
  | 1 => .e5m2
  | 2 => .fp4
  | 3 => .i8
  | 4 => .n8
  | _ => .i4

/-- The code of R206. -/
def WFmt.code : WFmt → BitVec 3
  | .e4m3 => 0
  | .e5m2 => 1
  | .fp4 => 2
  | .bf16 => 3
  | .f16 => 4

/-- The value with a code of R206; a code of no value gives one whose own code differs. -/
def WFmt.ofCode (x : BitVec 3) : WFmt :=
  match x.toNat with
  | 0 => .e4m3
  | 1 => .e5m2
  | 2 => .fp4
  | 3 => .bf16
  | _ => .f16

/-- The code of R288. -/
def Scope.code : Scope → BitVec 3
  | .core => 0
  | .crew => 1
  | .die => 2
  | .pkg => 3
  | .part => 4

/-- The value with a code of R288; a code of no value gives one whose own code differs. -/
def Scope.ofCode (x : BitVec 3) : Scope :=
  match x.toNat with
  | 0 => .core
  | 1 => .crew
  | 2 => .die
  | 3 => .pkg
  | _ => .part

/-- The code of R274. -/
def Ord.code : Ord → BitVec 2
  | .relaxed => 0
  | .acq => 1
  | .rel => 2
  | .ar => 3

/-- The value with a code of R274; a code of no value gives one whose own code differs. -/
def Ord.ofCode (x : BitVec 2) : Ord :=
  match x.toNat with
  | 0 => .relaxed
  | 1 => .acq
  | 2 => .rel
  | _ => .ar

/-- The code of R301. -/
def PhaseKind.code : PhaseKind → BitVec 2
  | .acq => 1
  | .rel => 2
  | .ar => 3

/-- The value with a code of R301; a code of no value gives one whose own code differs. -/
def PhaseKind.ofCode (x : BitVec 2) : PhaseKind :=
  match x.toNat with
  | 1 => .acq
  | 2 => .rel
  | _ => .ar

/-- The code of R275. -/
def AtomOp.code : AtomOp → BitVec 4
  | .add => 0
  | .and => 1
  | .or => 2
  | .xor => 3
  | .min => 4
  | .max => 5
  | .minu => 6
  | .maxu => 7
  | .swap => 8
  | .inc => 9
  | .dec => 10
  | .fadd => 11

/-- The value with a code of R275; a code of no value gives one whose own code differs. -/
def AtomOp.ofCode (x : BitVec 4) : AtomOp :=
  match x.toNat with
  | 0 => .add
  | 1 => .and
  | 2 => .or
  | 3 => .xor
  | 4 => .min
  | 5 => .max
  | 6 => .minu
  | 7 => .maxu
  | 8 => .swap
  | 9 => .inc
  | 10 => .dec
  | _ => .fadd

/-- The code of R422. -/
def PfxOp.code : PfxOp → BitVec 2
  | .pin => 0
  | .unpin => 1
  | .inv => 2

/-- The value with a code of R422; a code of no value gives one whose own code differs. -/
def PfxOp.ofCode (x : BitVec 2) : PfxOp :=
  match x.toNat with
  | 0 => .pin
  | 1 => .unpin
  | _ => .inv

/-- The scope code of TLBI (R260). -/
def TlbScope.code : TlbScope → BitVec 3
  | .core => 0
  | .die => 2
  | .pkg => 3
  | .part => 4

/-- The scope with a code of R260; a reserved code gives one whose own code differs. -/
def TlbScope.ofCode (x : BitVec 3) : TlbScope :=
  match x.toNat with
  | 0 => .core
  | 2 => .die
  | 3 => .pkg
  | _ => .part

/-- Specifier of a kind-I operand (R58). -/
def IOp.code : IOp → BitVec 8
  | .s n => (0#3 : BitVec 3) ++ n
  | .q n => (4#5 : BitVec 5) ++ n

/-- The kind-I operand of a specifier; a specifier of another kind gives one whose code differs. -/
def IOp.ofCode (x : BitVec 8) : IOp :=
  if x.getLsbD 5 then .q (x.extractLsb' 0 3) else .s (x.extractLsb' 0 5)

/-- Specifier of a predicate (R58). -/
def pCode (p : POp) : BitVec 8 := (0#4 : BitVec 4) ++ p + 0x28
/-- The predicate of a specifier. -/
def pOf (x : BitVec 8) : POp := (x - 0x28).extractLsb' 0 4
/-- Specifier of a vector register (R58). -/
def vCode (v : VOp) : BitVec 8 := (1#2 : BitVec 2) ++ v
/-- The vector register of a specifier. -/
def vOf (x : BitVec 8) : VOp := x.extractLsb' 0 6

/-- Specifier of a kind-I/P operand (R58). -/
def XOp.code : XOp → BitVec 8
  | .i o => o.code
  | .p n => pCode n

/-- The kind-I/P operand of a specifier: predicates lie at 0x28 to 0x37. -/
def XOp.ofCode (x : BitVec 8) : XOp := if 0x28 ≤ x.toNat then .p (pOf x) else .i (IOp.ofCode x)

/-- The fields of a slot word beyond those of Ctl (R56, R59). -/
structure Form where
  opc : BitVec 10
  d   : BitVec 8 := 0
  a   : BitVec 8 := 0
  bc  : BitVec 16 := 0
  mod : BitVec 10 := 0
  deriving DecidableEq, Repr

/-- The slot word of its fields (R56). -/
def Form.word (f : Form) (c : Ctl) : BitVec 64 :=
  f.opc ++ BitVec.ofBool c.rtag.isSome ++ c.rtag.getD 0 ++ BitVec.ofBool c.sticky ++ f.d ++ f.a ++ f.bc
    ++ c.guard ++ BitVec.ofBool c.gneg ++ f.mod

/-- The fields of a slot word. -/
def Form.ofWord (w : BitVec 64) : Form :=
  { opc := w.extractLsb' 54 10, d := w.extractLsb' 39 8, a := w.extractLsb' 31 8,
    bc := w.extractLsb' 15 16, mod := w.extractLsb' 0 10 }

/-- The control fields of a slot word without a STEP field. -/
def Ctl.ofWord (w : BitVec 64) : Ctl :=
  { guard := w.extractLsb' 11 4, gneg := w.getLsbD 10,
    rtag := if w.getLsbD 53 then some (w.extractLsb' 48 5) else none, sticky := w.getLsbD 47,
    stepV := false, stepR := 0 }

/-- The control fields of a slot word with the STEP field of format FT (R59). -/
def Ctl.ofWordT (w : BitVec 64) : Ctl :=
  { Ctl.ofWord w with stepV := w.getLsbD 22, stepR := w.extractLsb' 15 5 }

/-- The STEP field of format FT (R59). -/
def Ctl.step (c : Ctl) : BitVec 8 := BitVec.ofBool c.stepV ++ (0#2 : BitVec 2) ++ c.stepR

/-- Position b of a form. -/
def Form.b (f : Form) : BitVec 8 := f.bc.extractLsb' 8 8
/-- Position c of a form. -/
def Form.c (f : Form) : BitVec 8 := f.bc.extractLsb' 0 8

/-- A byte with one flag in its lowest bit. -/
def fl1 (x : Bool) : BitVec 8 := (0#7 : BitVec 7) ++ BitVec.ofBool x
/-- A byte with two flags in its lowest bits. -/
def fl2 (y x : Bool) : BitVec 8 := (0#6 : BitVec 6) ++ BitVec.ofBool y ++ BitVec.ofBool x
/-- MOD with one flag in bit 0. -/
def md1 (x : Bool) : BitVec 10 := (0#9 : BitVec 9) ++ BitVec.ofBool x
/-- MOD of the integer instructions (R156). -/
def mdI (sat nat w32 : Bool) : BitVec 10 :=
  (0#7 : BitVec 7) ++ BitVec.ofBool sat ++ BitVec.ofBool nat ++ BitVec.ofBool w32
/-- MOD of the vector class (R185). -/
def mdV (t : VTy) (rm : RmSel) (sat : Bool) (opx : BitVec 3) : BitVec 10 :=
  t.code ++ rm.code ++ BitVec.ofBool sat ++ opx
/-- MOD of format FT (R59). -/
def mdT (t : BitVec 5) (acc : BitVec 2) (map : BitVec 3) : BitVec 10 := t ++ acc ++ map
/-- MOD of the copy instructions (R344). -/
def mdC (x : Bool) (q : BitVec 2) (cb : BitVec 3) : BitVec 10 :=
  (0#4 : BitVec 4) ++ BitVec.ofBool x ++ q ++ cb

/-- The fields of each slot instruction, from the opcode map (R62 to R66) and its full description; none
for an event or a host command. -/
def Instr.form : Instr → Option (Form × Ctl)
  | .add c d a b w n s => some ({ opc := 0x000, d := d.code, a := a.code, bc := b.code ++ (0#8 : BitVec 8), mod := mdI s n w }, c)
  | .sub c d a b w n s => some ({ opc := 0x001, d := d.code, a := a.code, bc := b.code ++ (0#8 : BitVec 8), mod := mdI s n w }, c)
  | .addi c d a imm w n s => some ({ opc := 0x002, d := d.code, a := a.code, bc := imm, mod := mdI s n w }, c)
  | .mul c d a b w n s => some ({ opc := 0x003, d := d.code, a := a.code, bc := b.code ++ (0#8 : BitVec 8), mod := mdI s n w }, c)
  | .mulh c d a b w => some ({ opc := 0x004, d := d.code, a := a.code, bc := b.code ++ (0#8 : BitVec 8), mod := md1 w }, c)
  | .mulhu c d a b w => some ({ opc := 0x005, d := d.code, a := a.code, bc := b.code ++ (0#8 : BitVec 8), mod := md1 w }, c)
  | .madd c d a b e w => some ({ opc := 0x006, d := d.code, a := a.code, bc := b.code ++ e.code, mod := md1 w }, c)
  | .div c d a b w => some ({ opc := 0x007, d := d.code, a := a.code, bc := b.code ++ (0#8 : BitVec 8), mod := md1 w }, c)
  | .divu c d a b w => some ({ opc := 0x008, d := d.code, a := a.code, bc := b.code ++ (0#8 : BitVec 8), mod := md1 w }, c)
  | .rem c d a b w => some ({ opc := 0x009, d := d.code, a := a.code, bc := b.code ++ (0#8 : BitVec 8), mod := md1 w }, c)
  | .remu c d a b w => some ({ opc := 0x00A, d := d.code, a := a.code, bc := b.code ++ (0#8 : BitVec 8), mod := md1 w }, c)
  | .and c d a b w => some ({ opc := 0x00B, d := d.code, a := a.code, bc := b.code ++ (0#8 : BitVec 8), mod := md1 w }, c)
  | .or c d a b w => some ({ opc := 0x00C, d := d.code, a := a.code, bc := b.code ++ (0#8 : BitVec 8), mod := md1 w }, c)
  | .xor c d a b w => some ({ opc := 0x00D, d := d.code, a := a.code, bc := b.code ++ (0#8 : BitVec 8), mod := md1 w }, c)
  | .andn c d a b w => some ({ opc := 0x00E, d := d.code, a := a.code, bc := b.code ++ (0#8 : BitVec 8), mod := md1 w }, c)
  | .andi c d a imm w => some ({ opc := 0x00F, d := d.code, a := a.code, bc := imm, mod := md1 w }, c)
  | .ori c d a imm w => some ({ opc := 0x010, d := d.code, a := a.code, bc := imm, mod := md1 w }, c)
  | .xori c d a imm w => some ({ opc := 0x011, d := d.code, a := a.code, bc := imm, mod := md1 w }, c)
  | .shl c d a b w => some ({ opc := 0x012, d := d.code, a := a.code, bc := b.code ++ (0#8 : BitVec 8), mod := md1 w }, c)
  | .shr c d a b w => some ({ opc := 0x013, d := d.code, a := a.code, bc := b.code ++ (0#8 : BitVec 8), mod := md1 w }, c)
  | .sra c d a b w => some ({ opc := 0x014, d := d.code, a := a.code, bc := b.code ++ (0#8 : BitVec 8), mod := md1 w }, c)
  | .shli c d a k w => some ({ opc := 0x015, d := d.code, a := a.code, bc := (0#10 : BitVec 10) ++ k, mod := md1 w }, c)
  | .shri c d a k w => some ({ opc := 0x016, d := d.code, a := a.code, bc := (0#10 : BitVec 10) ++ k, mod := md1 w }, c)
  | .srai c d a k w => some ({ opc := 0x017, d := d.code, a := a.code, bc := (0#10 : BitVec 10) ++ k, mod := md1 w }, c)
  | .rotr c d a b w => some ({ opc := 0x018, d := d.code, a := a.code, bc := b.code ++ (0#8 : BitVec 8), mod := md1 w }, c)
  | .clz c d a w => some ({ opc := 0x019, d := d.code, a := a.code, mod := md1 w }, c)
  | .ctz c d a w => some ({ opc := 0x01A, d := d.code, a := a.code, mod := md1 w }, c)
  | .popc c d a w => some ({ opc := 0x01B, d := d.code, a := a.code, mod := md1 w }, c)
  | .min c d a b w => some ({ opc := 0x01C, d := d.code, a := a.code, bc := b.code ++ (0#8 : BitVec 8), mod := md1 w }, c)
  | .max c d a b w => some ({ opc := 0x01D, d := d.code, a := a.code, bc := b.code ++ (0#8 : BitVec 8), mod := md1 w }, c)
  | .minu c d a b w => some ({ opc := 0x01E, d := d.code, a := a.code, bc := b.code ++ (0#8 : BitVec 8), mod := md1 w }, c)
  | .maxu c d a b w => some ({ opc := 0x01F, d := d.code, a := a.code, bc := b.code ++ (0#8 : BitVec 8), mod := md1 w }, c)
  | .abs c d a w s => some ({ opc := 0x020, d := d.code, a := a.code, mod := mdI s false w }, c)
  | .sel c d a b p => some ({ opc := 0x021, d := d.code, a := a.code, bc := b.code ++ pCode p }, c)
  | .cmp c d a b w cond => some ({ opc := 0x022, d := pCode d, a := a.code, bc := b.code ++ (0#8 : BitVec 8), mod := (0#5 : BitVec 5) ++ cond.code ++ BitVec.ofBool w }, c)
  | .cmpi c d a imm w cond => some ({ opc := 0x023, d := pCode d, a := a.code, bc := imm, mod := (0#5 : BitVec 5) ++ cond.code ++ BitVec.ofBool w }, c)
  | .li c d imm => some ({ opc := 0x024, d := d.code, bc := imm }, c)
  | .lih c d a imm k => some ({ opc := 0x025, d := d.code, a := a.code, bc := imm, mod := (0#8 : BitVec 8) ++ k }, c)
  | .mov c d a => some ({ opc := 0x026, d := d.code, a := a.code }, c)
  | .ext c d a lo n sx => some ({ opc := 0x027, d := d.code, a := a.code, bc := (0#4 : BitVec 4) ++ n ++ lo, mod := md1 sx }, c)
  | .ins c d a lo n => some ({ opc := 0x028, d := d.code, a := a.code, bc := (0#4 : BitVec 4) ++ n ++ lo }, c)
  | .lea c d a b h => some ({ opc := 0x029, d := d.code, a := a.code, bc := b.code ++ (0#8 : BitVec 8), mod := (0#7 : BitVec 7) ++ h }, c)
  | .ptag c d a t => some ({ opc := 0x02A, d := d.code, a := a.code, bc := (0#12 : BitVec 12) ++ t }, c)
  | .pand c d a b nb => some ({ opc := 0x02B, d := pCode d, a := pCode a, bc := pCode b ++ (0#8 : BitVec 8), mod := md1 nb }, c)
  | .por c d a b nb => some ({ opc := 0x02C, d := pCode d, a := pCode a, bc := pCode b ++ (0#8 : BitVec 8), mod := md1 nb }, c)
  | .pxor c d a b nb => some ({ opc := 0x02D, d := pCode d, a := pCode a, bc := pCode b ++ (0#8 : BitVec 8), mod := md1 nb }, c)
  | .pnot c d a => some ({ opc := 0x02E, d := pCode d, a := pCode a }, c)
  | .mrs c d idx => some ({ opc := 0x02F, d := d.code, bc := (0#10 : BitVec 10) ++ idx }, c)
  | .msr c a idx => some ({ opc := 0x030, a := a.code, bc := (0#10 : BitVec 10) ++ idx }, c)
  | .br c off => some ({ opc := 0x100, bc := off }, c)
  | .brl c off => some ({ opc := 0x101, bc := off }, c)
  | .brr c a lnk => some ({ opc := 0x102, a := a.code, mod := md1 lnk }, c)
  | .ret c => some ({ opc := 0x103 }, c)
  | .loop c off => some ({ opc := 0x104, bc := off }, c)
  | .rotset c a ec rb pc => some ({ opc := 0x105, a := a.code, bc := (0#10 : BitVec 10) ++ ec, mod := (0#8 : BitVec 8) ++ BitVec.ofBool pc ++ BitVec.ofBool rb }, c)
  | .yield c => some ({ opc := 0x106 }, c)
  | .done c => some ({ opc := 0x107 }, c)
  | .spawn c a b => some ({ opc := 0x108, a := a.code, bc := b.code ++ (0#8 : BitVec 8) }, c)
  | .waits c d a b acq => some ({ opc := 0x109, d := d.code, a := a.code, bc := b.code ++ (0#8 : BitVec 8), mod := md1 acq }, c)
  | .waitany c d mask acq clr => some ({ opc := 0x10A, d := d.code, bc := (0#8 : BitVec 8) ++ mask, mod := (0#8 : BitVec 8) ++ BitVec.ofBool clr ++ BitVec.ofBool acq }, c)
  | .cbar c => some ({ opc := 0x10B }, c)
  | .trap c imm => some ({ opc := 0x10C, bc := imm }, c)
  | .eret c => some ({ opc := 0x10D }, c)
  | .ld c d a imm cls sx w => some ({ opc := 0x140, d := d.code, a := (0#3 : BitVec 3) ++ a, bc := imm, mod := (0#5 : BitVec 5) ++ cls ++ BitVec.ofBool sx ++ w }, c)
  | .ldq c d a imm sx w => some ({ opc := 0x141, d := (IOp.q d).code, a := (0#3 : BitVec 3) ++ a, bc := imm, mod := (0#7 : BitVec 7) ++ BitVec.ofBool sx ++ w }, c)
  | .ldqBind c d a imm => some ({ opc := 0x141, d := (IOp.q d).code, a := (0#3 : BitVec 3) ++ a, bc := imm, mod := 0x23 }, c)
  | .st c d a imm w => some ({ opc := 0x142, d := d.code, a := (0#3 : BitVec 3) ++ a, bc := imm, mod := (0#8 : BitVec 8) ++ w }, c)
  | .ldv c d a imm cls => some ({ opc := 0x143, d := vCode d, a := (0#3 : BitVec 3) ++ a, bc := imm, mod := (0#5 : BitVec 5) ++ cls ++ (0#3 : BitVec 3) }, c)
  | .ldvs c d a b e gl cls => some ({ opc := 0x144, d := vCode d, a := a.code, bc := b.code ++ e.code, mod := gl ++ (0#2 : BitVec 2) ++ cls ++ (0#3 : BitVec 3) }, c)
  | .ldvg c d a b sc cls => some ({ opc := 0x145, d := vCode d, a := a.code, bc := vCode b ++ (0#8 : BitVec 8), mod := (0#3 : BitVec 3) ++ sc ++ cls ++ (0#3 : BitVec 3) }, c)
  | .ldvq c d a imm => some ({ opc := 0x146, d := vCode d, a := (0#3 : BitVec 3) ++ a, bc := imm }, c)
  | .stv c d a imm => some ({ opc := 0x147, d := vCode d, a := (0#3 : BitVec 3) ++ a, bc := imm }, c)
  | .stvs c d a b e gl => some ({ opc := 0x148, d := vCode d, a := a.code, bc := b.code ++ e.code, mod := gl ++ (0#7 : BitVec 7) }, c)
  | .stvx c d a b sc => some ({ opc := 0x149, d := vCode d, a := a.code, bc := vCode b ++ (0#8 : BitVec 8), mod := (0#3 : BitVec 3) ++ sc ++ (0#5 : BitVec 5) }, c)
  | .atom c d a b e op w64 ord scope => some ({ opc := 0x14A, d := d.code, a := a.code, bc := b.code ++ e.code, mod := scope.code ++ ord.code ++ BitVec.ofBool w64 ++ op.code }, c)
  | .cas c d a b e w64 sord facq scope => some ({ opc := 0x14B, d := d.code, a := a.code, bc := b.code ++ e.code, mod := scope.code ++ sord.code ++ BitVec.ofBool w64 ++ (0#1 : BitVec 1) ++ BitVec.ofBool facq ++ (0#2 : BitVec 2) }, c)
  | .ropMcas c d a b n ord => some ({ opc := 0x14C, d := d.code, a := a.code, bc := b.code ++ (0#8 : BitVec 8), mod := (0#2 : BitVec 2) ++ ord.code ++ (0#2 : BitVec 2) ++ n ++ (0#2 : BitVec 2) }, c)
  | .ropEnq c d a b ord => some ({ opc := 0x14C, d := d.code, a := a.code, bc := b.code ++ (0#8 : BitVec 8), mod := (0#2 : BitVec 2) ++ ord.code ++ (0#4 : BitVec 4) ++ (1#2 : BitVec 2) }, c)
  | .ropChase c d a b h ord => some ({ opc := 0x14C, d := d.code, a := a.code, bc := b.code ++ (0#8 : BitVec 8), mod := (0#2 : BitVec 2) ++ ord.code ++ h ++ (2#2 : BitVec 2) }, c)
  | .phase c kind scope => some ({ opc := 0x14D, mod := scope.code ++ kind.code ++ (0#5 : BitVec 5) }, c)
  | .fenceo c => some ({ opc := 0x14E }, c)
  | .fencex c a => some ({ opc := 0x14F, a := a.code }, c)
  | .pref c a imm l2 => some ({ opc := 0x150, a := (0#3 : BitVec 3) ++ a, bc := imm, mod := md1 l2 }, c)
  | .tld c d a b e map => some ({ opc := 0x151, d := d.code, a := a.code, bc := b.code ++ e.code, mod := (0#7 : BitVec 7) ++ map }, c)
  | .tst c d a b e map => some ({ opc := 0x152, d := d.code, a := a.code, bc := b.code ++ e.code, mod := (0#7 : BitVec 7) ++ map }, c)
  | .shmld c a map => some ({ opc := 0x153, a := a.code, mod := (0#7 : BitVec 7) ++ map }, c)
  | .shmst c a map => some ({ opc := 0x154, a := a.code, mod := (0#7 : BitVec 7) ++ map }, c)
  | .kvst c d a b e spec draft => some ({ opc := 0x155, d := d.code, a := vCode a, bc := vCode b ++ e.code, mod := (0#5 : BitVec 5) ++ draft ++ BitVec.ofBool spec }, c)
  | .kalloc c d spec draft => some ({ opc := 0x156, d := d.code, mod := (0#5 : BitVec 5) ++ draft ++ BitVec.ofBool spec }, c)
  | .kfree c a => some ({ opc := 0x157, a := a.code }, c)
  | .pfxh c d a b => some ({ opc := 0x158, d := d.code, a := a.code, bc := b.code ++ (0#8 : BitVec 8) }, c)
  | .pfxl c d a b pin => some ({ opc := 0x159, d := d.code, a := a.code, bc := b.code ++ (0#8 : BitVec 8), mod := md1 pin }, c)
  | .pfxi c d a b => some ({ opc := 0x15A, d := d.code, a := a.code, bc := b.code ++ (0#8 : BitVec 8) }, c)
  | .pfxp c d a op => some ({ opc := 0x15B, d := d.code, a := a.code, mod := (0#8 : BitVec 8) ++ op.code }, c)
  | .specb c d a b => some ({ opc := 0x15C, d := d.code, a := a.code, bc := b.code ++ (0#8 : BitVec 8) }, c)
  | .specc c a => some ({ opc := 0x15D, a := a.code }, c)
  | .speca c => some ({ opc := 0x15E }, c)
  | .tlbi c a all scope => some ({ opc := 0x15F, a := a.code, mod := (0#6 : BitVec 6) ++ BitVec.ofBool all ++ scope.code }, c)
  | .vadd c d a b t rm s => some ({ opc := 0x200, d := vCode d, a := vCode a, bc := vCode b ++ (0#8 : BitVec 8), mod := mdV t rm s 0 }, c)
  | .vsub c d a b t rm s => some ({ opc := 0x201, d := vCode d, a := vCode a, bc := vCode b ++ (0#8 : BitVec 8), mod := mdV t rm s 0 }, c)
  | .vmul c d a b t rm s => some ({ opc := 0x202, d := vCode d, a := vCode a, bc := vCode b ++ (0#8 : BitVec 8), mod := mdV t rm s 0 }, c)
  | .vfma c d a b e t rm s => some ({ opc := 0x203, d := vCode d, a := vCode a, bc := vCode b ++ vCode e, mod := mdV t rm s 0 }, c)
  | .vfms c d a b e t rm s => some ({ opc := 0x204, d := vCode d, a := vCode a, bc := vCode b ++ vCode e, mod := mdV t rm s 0 }, c)
  | .vfnma c d a b e t rm s => some ({ opc := 0x205, d := vCode d, a := vCode a, bc := vCode b ++ vCode e, mod := mdV t rm s 0 }, c)
  | .vmin c d a b t => some ({ opc := 0x206, d := vCode d, a := vCode a, bc := vCode b ++ (0#8 : BitVec 8), mod := mdV t .fmode false 0 }, c)
  | .vmax c d a b t => some ({ opc := 0x207, d := vCode d, a := vCode a, bc := vCode b ++ (0#8 : BitVec 8), mod := mdV t .fmode false 0 }, c)
  | .vabs c d a t => some ({ opc := 0x208, d := vCode d, a := vCode a, mod := mdV t .fmode false 0 }, c)
  | .vneg c d a t => some ({ opc := 0x209, d := vCode d, a := vCode a, mod := mdV t .fmode false 0 }, c)
  | .vrcp c d a t rm s => some ({ opc := 0x20A, d := vCode d, a := vCode a, mod := mdV t rm s 0 }, c)
  | .vrsq c d a t rm s => some ({ opc := 0x20B, d := vCode d, a := vCode a, mod := mdV t rm s 0 }, c)
  | .vexp2 c d a t rm s => some ({ opc := 0x20C, d := vCode d, a := vCode a, mod := mdV t rm s 0 }, c)
  | .vlog2 c d a t rm s => some ({ opc := 0x20D, d := vCode d, a := vCode a, mod := mdV t rm s 0 }, c)
  | .vtanh c d a t rm s => some ({ opc := 0x20E, d := vCode d, a := vCode a, mod := mdV t rm s 0 }, c)
  | .vcvt c d a dst src rm s => some ({ opc := 0x20F, d := vCode d, a := vCode a, mod := mdV dst rm s src.code }, c)
  | .vcmp c d a b cond t hi => some ({ opc := 0x210, d := pCode d, a := vCode a, bc := vCode b ++ (0#8 : BitVec 8), mod := mdV t .fmode hi cond.code }, c)
  | .vsel c d a b p => some ({ opc := 0x211, d := vCode d, a := vCode a, bc := vCode b ++ pCode p }, c)
  | .viadd c d a b t s => some ({ opc := 0x212, d := vCode d, a := vCode a, bc := vCode b ++ (0#8 : BitVec 8), mod := mdV t .fmode s 0 }, c)
  | .visub c d a b t s => some ({ opc := 0x213, d := vCode d, a := vCode a, bc := vCode b ++ (0#8 : BitVec 8), mod := mdV t .fmode s 0 }, c)
  | .vimul c d a b t s => some ({ opc := 0x214, d := vCode d, a := vCode a, bc := vCode b ++ (0#8 : BitVec 8), mod := mdV t .fmode s 0 }, c)
  | .vand c d a b => some ({ opc := 0x215, d := vCode d, a := vCode a, bc := vCode b ++ (0#8 : BitVec 8), mod := mdV .n32 .fmode false 0 }, c)
  | .vor c d a b => some ({ opc := 0x216, d := vCode d, a := vCode a, bc := vCode b ++ (0#8 : BitVec 8), mod := mdV .n32 .fmode false 0 }, c)
  | .vxor c d a b => some ({ opc := 0x217, d := vCode d, a := vCode a, bc := vCode b ++ (0#8 : BitVec 8), mod := mdV .n32 .fmode false 0 }, c)
  | .vshl c d a b => some ({ opc := 0x218, d := vCode d, a := vCode a, bc := vCode b ++ (0#8 : BitVec 8), mod := mdV .n32 .fmode false 0 }, c)
  | .vshr c d a b => some ({ opc := 0x219, d := vCode d, a := vCode a, bc := vCode b ++ (0#8 : BitVec 8), mod := mdV .n32 .fmode false 0 }, c)
  | .vsra c d a b => some ({ opc := 0x21A, d := vCode d, a := vCode a, bc := vCode b ++ (0#8 : BitVec 8), mod := mdV .i32 .fmode false 0 }, c)
  | .vimin c d a b t => some ({ opc := 0x21B, d := vCode d, a := vCode a, bc := vCode b ++ (0#8 : BitVec 8), mod := mdV t .fmode false 0 }, c)
  | .vimax c d a b t => some ({ opc := 0x21C, d := vCode d, a := vCode a, bc := vCode b ++ (0#8 : BitVec 8), mod := mdV t .fmode false 0 }, c)
  | .vred c d a op t rm s => some ({ opc := 0x21D, d := vCode d, a := vCode a, mod := mdV t rm s op.code }, c)
  | .vscan c d a op t rm s => some ({ opc := 0x21E, d := vCode d, a := vCode a, mod := mdV t rm s op.code }, c)
  | .vperm c d a b => some ({ opc := 0x21F, d := vCode d, a := vCode a, bc := vCode b ++ (0#8 : BitVec 8) }, c)
  | .vslide c d a b rot => some ({ opc := 0x220, d := vCode d, a := vCode a, bc := b.code ++ (0#8 : BitVec 8), mod := md1 rot }, c)
  | .vbcast c d a b => some ({ opc := 0x221, d := vCode d, a := vCode a, bc := b.code ++ (0#8 : BitVec 8) }, c)
  | .vsplat c d a => some ({ opc := 0x222, d := vCode d, a := a.code }, c)
  | .vextr c d a b sx => some ({ opc := 0x223, d := d.code, a := vCode a, bc := b.code ++ (0#8 : BitVec 8), mod := md1 sx }, c)
  | .viota c d a => some ({ opc := 0x224, d := vCode d, a := pCode a }, c)
  | .vpack c d a b t rm s => some ({ opc := 0x225, d := vCode d, a := vCode a, bc := vCode b ++ (0#8 : BitVec 8), mod := mdV t rm s 0 }, c)
  | .vunpk c d a t hi => some ({ opc := 0x226, d := vCode d, a := vCode a, mod := mdV t .fmode false ((0#2 : BitVec 2) ++ BitVec.ofBool hi) }, c)
  | .vqnt c d a b t fmt rm s => some ({ opc := 0x227, d := vCode d, a := vCode a, bc := vCode b ++ (0#8 : BitVec 8), mod := mdV t rm s fmt.code }, c)
  | .vdqnt c d a b t fmt rm s => some ({ opc := 0x228, d := vCode d, a := vCode a, bc := vCode b ++ (0#8 : BitVec 8), mod := mdV t rm s fmt.code }, c)
  | .vrope c d a b e t rm s => some ({ opc := 0x229, d := vCode d, a := vCode a, bc := vCode b ++ e.code, mod := mdV t rm s 0 }, c)
  | .vmov c d a => some ({ opc := 0x22A, d := vCode d, a := vCode a }, c)
  | .tbind c t a => some ({ opc := 0x300, a := a.code, bc := (0#8 : BitVec 8) ++ c.step, mod := mdT t 0 0 }, c)
  | .tbindUnb c t => some ({ opc := 0x300, d := 1, bc := (0#8 : BitVec 8) ++ c.step, mod := mdT t 0 0 }, c)
  | .tfetch c t a b auto => some ({ opc := 0x301, d := fl1 auto, a := a.code, bc := b.code ++ c.step, mod := mdT t 0 0 }, c)
  | .trel c t => some ({ opc := 0x302, bc := (0#8 : BitVec 8) ++ c.step, mod := mdT t 0 0 }, c)
  | .tstat c d t w => some ({ opc := 0x303, d := d.code, a := (0#5 : BitVec 5) ++ w, bc := (0#8 : BitVec 8) ++ c.step, mod := mdT t 0 0 }, c)
  | .tzero c acc a => some ({ opc := 0x304, a := a.code, bc := (0#8 : BitVec 8) ++ c.step, mod := mdT 0 acc 0 }, c)
  | .wload c t a => some ({ opc := 0x305, a := a.code, bc := (0#8 : BitVec 8) ++ c.step, mod := mdT t 0 0 }, c)
  | .wswap c => some ({ opc := 0x306, bc := (0#8 : BitVec 8) ++ c.step }, c)
  | .mma c acc t a wf half => some ({ opc := 0x307, d := (0#4 : BitVec 4) ++ wf.code ++ BitVec.ofBool half, a := a.code, bc := (0#8 : BitVec 8) ++ c.step, mod := mdT t acc 0 }, c)
  | .mmas c acc t a b wf half wsk ask => some ({ opc := 0x308, d := (0#2 : BitVec 2) ++ BitVec.ofBool ask ++ BitVec.ofBool wsk ++ wf.code ++ BitVec.ofBool half, a := a.code, bc := b.code ++ c.step, mod := mdT t acc 0 }, c)
  | .tdrain c t acc a rm sat clr => some ({ opc := 0x309, d := (0#3 : BitVec 3) ++ rm.code ++ BitVec.ofBool sat ++ BitVec.ofBool clr, a := a.code, bc := (0#8 : BitVec 8) ++ c.step, mod := mdT t acc 0 }, c)
  | .normk c t a side clr => some ({ opc := 0x30A, d := fl2 clr side, a := a.code, bc := (0#8 : BitVec 8) ++ c.step, mod := mdT t 0 0 }, c)
  | .aliasTab c a => some ({ opc := 0x30B, a := a.code, bc := (0#8 : BitVec 8) ++ c.step }, c)
  | .seed c a => some ({ opc := 0x30C, a := a.code, bc := (0#8 : BitVec 8) ++ c.step }, c)
  | .smm c acc ta tb a b => some ({ opc := 0x30D, d := (0#3 : BitVec 3) ++ tb, a := a.code, bc := b.code ++ c.step, mod := mdT ta acc 0 }, c)
  | .smmv c a => some ({ opc := 0x30E, a := a.code, bc := (0#8 : BitVec 8) ++ c.step }, c)
  | .cpy c d a b q cb => some ({ opc := 0x380, d := d.code, a := a.code, bc := b.code ++ c.step, mod := mdC false q cb }, c)
  | .cpySet c a b q cb => some ({ opc := 0x380, a := a.code, bc := b.code ++ c.step, mod := mdC true q cb }, c)
  | .cpyt c d a b q cb => some ({ opc := 0x381, d := d.code, a := a.code, bc := b.code ++ c.step, mod := mdC false q cb }, c)
  | .cpyl c a q cb => some ({ opc := 0x382, a := a.code, bc := (0#8 : BitVec 8) ++ c.step, mod := mdC false q cb }, c)
  | .kvld c t d a b q cb => some ({ opc := 0x383, d := d.code, a := a.code, bc := b.code ++ c.step, mod := t ++ q ++ cb }, c)
  | .send c d a b q cb => some ({ opc := 0x384, d := d.code, a := a.code, bc := b.code ++ c.step, mod := mdC false q cb }, c)
  | .sendRq c d a b q cb => some ({ opc := 0x384, d := d.code, a := a.code, bc := b.code ++ c.step, mod := mdC true q cb }, c)
  | .jobq c a => some ({ opc := 0x385, a := a.code, bc := (0#8 : BitVec 8) ++ c.step }, c)
  | .coll c a q cb => some ({ opc := 0x386, a := a.code, bc := (0#8 : BitVec 8) ++ c.step, mod := mdC false q cb }, c)
  | .reshard c smS smD a q cb => some ({ opc := 0x387, d := (0#2 : BitVec 2) ++ smD ++ smS, a := a.code, bc := (0#8 : BitVec 8) ++ c.step, mod := mdC false q cb }, c)
  | .slotsel c a b => some ({ opc := 0x388, a := a.code, bc := b.code ++ c.step }, c)
  | .park c mask => some ({ opc := 0x389, bc := (0#8 : BitVec 8) ++ c.step, mod := (0#2 : BitVec 2) ++ mask }, c)
  | .wake c mask => some ({ opc := 0x38A, bc := (0#8 : BitVec 8) ++ c.step, mod := (0#2 : BitVec 2) ++ mask }, c)
  | .wakeThr c mask a => some ({ opc := 0x38A, a := a.code, bc := (0#8 : BitVec 8) ++ c.step, mod := (1#2 : BitVec 2) ++ mask }, c)
  | .linkst c d a => some ({ opc := 0x38B, d := d.code, a := a.code, bc := (0#8 : BitVec 8) ++ c.step }, c)
  | _ => none

/-- The slot word of an instruction; an event or a host command has none and gives 0. -/
def Instr.encode (i : Instr) : BitVec 64 :=
  match i.form with
  | some (f, c) => f.word c
  | none => 0

/-- The class an instruction's opcode belongs to; none for an event or a host command. -/
def Instr.opClass (i : Instr) : Option OpClass :=
  match i.form with
  | some (f, _) => Sys2Proof.opClass f.opc.toNat
  | none => none

/-! ## Reading the fields. A word whose fields no instruction has reads as one whose own word differs. -/

/-- The scalar class (R62). -/
def parseScalar (f : Form) (c : Ctl) : Option Instr :=
  match f.opc.toNat with
  | 0x000 => some (.add c (IOp.ofCode f.d) (IOp.ofCode f.a) (IOp.ofCode f.b) (f.mod.getLsbD 0) (f.mod.getLsbD 1) (f.mod.getLsbD 2))
  | 0x001 => some (.sub c (IOp.ofCode f.d) (IOp.ofCode f.a) (IOp.ofCode f.b) (f.mod.getLsbD 0) (f.mod.getLsbD 1) (f.mod.getLsbD 2))
  | 0x002 => some (.addi c (IOp.ofCode f.d) (IOp.ofCode f.a) f.bc (f.mod.getLsbD 0) (f.mod.getLsbD 1) (f.mod.getLsbD 2))
  | 0x003 => some (.mul c (IOp.ofCode f.d) (IOp.ofCode f.a) (IOp.ofCode f.b) (f.mod.getLsbD 0) (f.mod.getLsbD 1) (f.mod.getLsbD 2))
  | 0x004 => some (.mulh c (IOp.ofCode f.d) (IOp.ofCode f.a) (IOp.ofCode f.b) (f.mod.getLsbD 0))
  | 0x005 => some (.mulhu c (IOp.ofCode f.d) (IOp.ofCode f.a) (IOp.ofCode f.b) (f.mod.getLsbD 0))
  | 0x006 => some (.madd c (IOp.ofCode f.d) (IOp.ofCode f.a) (IOp.ofCode f.b) (IOp.ofCode f.c) (f.mod.getLsbD 0))
  | 0x007 => some (.div c (IOp.ofCode f.d) (IOp.ofCode f.a) (IOp.ofCode f.b) (f.mod.getLsbD 0))
  | 0x008 => some (.divu c (IOp.ofCode f.d) (IOp.ofCode f.a) (IOp.ofCode f.b) (f.mod.getLsbD 0))
  | 0x009 => some (.rem c (IOp.ofCode f.d) (IOp.ofCode f.a) (IOp.ofCode f.b) (f.mod.getLsbD 0))
  | 0x00A => some (.remu c (IOp.ofCode f.d) (IOp.ofCode f.a) (IOp.ofCode f.b) (f.mod.getLsbD 0))
  | 0x00B => some (.and c (IOp.ofCode f.d) (IOp.ofCode f.a) (IOp.ofCode f.b) (f.mod.getLsbD 0))
  | 0x00C => some (.or c (IOp.ofCode f.d) (IOp.ofCode f.a) (IOp.ofCode f.b) (f.mod.getLsbD 0))
  | 0x00D => some (.xor c (IOp.ofCode f.d) (IOp.ofCode f.a) (IOp.ofCode f.b) (f.mod.getLsbD 0))
  | 0x00E => some (.andn c (IOp.ofCode f.d) (IOp.ofCode f.a) (IOp.ofCode f.b) (f.mod.getLsbD 0))
  | 0x00F => some (.andi c (IOp.ofCode f.d) (IOp.ofCode f.a) f.bc (f.mod.getLsbD 0))
  | 0x010 => some (.ori c (IOp.ofCode f.d) (IOp.ofCode f.a) f.bc (f.mod.getLsbD 0))
  | 0x011 => some (.xori c (IOp.ofCode f.d) (IOp.ofCode f.a) f.bc (f.mod.getLsbD 0))
  | 0x012 => some (.shl c (IOp.ofCode f.d) (IOp.ofCode f.a) (IOp.ofCode f.b) (f.mod.getLsbD 0))
  | 0x013 => some (.shr c (IOp.ofCode f.d) (IOp.ofCode f.a) (IOp.ofCode f.b) (f.mod.getLsbD 0))
  | 0x014 => some (.sra c (IOp.ofCode f.d) (IOp.ofCode f.a) (IOp.ofCode f.b) (f.mod.getLsbD 0))
  | 0x015 => some (.shli c (IOp.ofCode f.d) (IOp.ofCode f.a) (f.bc.extractLsb' 0 6) (f.mod.getLsbD 0))
  | 0x016 => some (.shri c (IOp.ofCode f.d) (IOp.ofCode f.a) (f.bc.extractLsb' 0 6) (f.mod.getLsbD 0))
  | 0x017 => some (.srai c (IOp.ofCode f.d) (IOp.ofCode f.a) (f.bc.extractLsb' 0 6) (f.mod.getLsbD 0))
  | 0x018 => some (.rotr c (IOp.ofCode f.d) (IOp.ofCode f.a) (IOp.ofCode f.b) (f.mod.getLsbD 0))
  | 0x019 => some (.clz c (IOp.ofCode f.d) (IOp.ofCode f.a) (f.mod.getLsbD 0))
  | 0x01A => some (.ctz c (IOp.ofCode f.d) (IOp.ofCode f.a) (f.mod.getLsbD 0))
  | 0x01B => some (.popc c (IOp.ofCode f.d) (IOp.ofCode f.a) (f.mod.getLsbD 0))
  | 0x01C => some (.min c (IOp.ofCode f.d) (IOp.ofCode f.a) (IOp.ofCode f.b) (f.mod.getLsbD 0))
  | 0x01D => some (.max c (IOp.ofCode f.d) (IOp.ofCode f.a) (IOp.ofCode f.b) (f.mod.getLsbD 0))
  | 0x01E => some (.minu c (IOp.ofCode f.d) (IOp.ofCode f.a) (IOp.ofCode f.b) (f.mod.getLsbD 0))
  | 0x01F => some (.maxu c (IOp.ofCode f.d) (IOp.ofCode f.a) (IOp.ofCode f.b) (f.mod.getLsbD 0))
  | 0x020 => some (.abs c (IOp.ofCode f.d) (IOp.ofCode f.a) (f.mod.getLsbD 0) (f.mod.getLsbD 2))
  | 0x021 => some (.sel c (IOp.ofCode f.d) (IOp.ofCode f.a) (IOp.ofCode f.b) (pOf f.c))
  | 0x022 => some (.cmp c (pOf f.d) (IOp.ofCode f.a) (IOp.ofCode f.b) (f.mod.getLsbD 0) (Cond.ofCode (f.mod.extractLsb' 1 4)))
  | 0x023 => some (.cmpi c (pOf f.d) (IOp.ofCode f.a) f.bc (f.mod.getLsbD 0) (Cond.ofCode (f.mod.extractLsb' 1 4)))
  | 0x024 => some (.li c (IOp.ofCode f.d) f.bc)
  | 0x025 => some (.lih c (IOp.ofCode f.d) (IOp.ofCode f.a) f.bc (f.mod.extractLsb' 0 2))
  | 0x026 => some (.mov c (XOp.ofCode f.d) (XOp.ofCode f.a))
  | 0x027 => some (.ext c (IOp.ofCode f.d) (IOp.ofCode f.a) (f.bc.extractLsb' 0 6) (f.bc.extractLsb' 6 6) (f.mod.getLsbD 0))
  | 0x028 => some (.ins c (IOp.ofCode f.d) (IOp.ofCode f.a) (f.bc.extractLsb' 0 6) (f.bc.extractLsb' 6 6))
  | 0x029 => some (.lea c (IOp.ofCode f.d) (IOp.ofCode f.a) (IOp.ofCode f.b) (f.mod.extractLsb' 0 3))
  | 0x02A => some (.ptag c (IOp.ofCode f.d) (IOp.ofCode f.a) (f.bc.extractLsb' 0 4))
  | 0x02B => some (.pand c (pOf f.d) (pOf f.a) (pOf f.b) (f.mod.getLsbD 0))
  | 0x02C => some (.por c (pOf f.d) (pOf f.a) (pOf f.b) (f.mod.getLsbD 0))
  | 0x02D => some (.pxor c (pOf f.d) (pOf f.a) (pOf f.b) (f.mod.getLsbD 0))
  | 0x02E => some (.pnot c (pOf f.d) (pOf f.a))
  | 0x02F => some (.mrs c (IOp.ofCode f.d) (f.bc.extractLsb' 0 6))
  | 0x030 => some (.msr c (IOp.ofCode f.a) (f.bc.extractLsb' 0 6))
  | _ => none

/-- The control class (R63). -/
def parseControl (f : Form) (c : Ctl) : Option Instr :=
  match f.opc.toNat with
  | 0x100 => some (.br c f.bc)
  | 0x101 => some (.brl c f.bc)
  | 0x102 => some (.brr c (IOp.ofCode f.a) (f.mod.getLsbD 0))
  | 0x103 => some (.ret c)
  | 0x104 => some (.loop c f.bc)
  | 0x105 => some (.rotset c (IOp.ofCode f.a) (f.bc.extractLsb' 0 6) (f.mod.getLsbD 0) (f.mod.getLsbD 1))
  | 0x106 => some (.yield c)
  | 0x107 => some (.done c)
  | 0x108 => some (.spawn c (IOp.ofCode f.a) (IOp.ofCode f.b))
  | 0x109 => some (.waits c (IOp.ofCode f.d) (IOp.ofCode f.a) (IOp.ofCode f.b) (f.mod.getLsbD 0))
  | 0x10A => some (.waitany c (IOp.ofCode f.d) f.c (f.mod.getLsbD 0) (f.mod.getLsbD 1))
  | 0x10B => some (.cbar c)
  | 0x10C => some (.trap c f.bc)
  | 0x10D => some (.eret c)
  | _ => none

/-- The memory/system class (R64). -/
def parseMemory (f : Form) (c : Ctl) : Option Instr :=
  match f.opc.toNat with
  | 0x140 => some (.ld c (IOp.ofCode f.d) (f.a.extractLsb' 0 5) f.bc (f.mod.extractLsb' 3 2) (f.mod.getLsbD 2) (f.mod.extractLsb' 0 2))
  | 0x141 =>
      if f.mod.getLsbD 5 then some (.ldqBind c (f.d.extractLsb' 0 3) (f.a.extractLsb' 0 5) f.bc) else some (.ldq c (f.d.extractLsb' 0 3) (f.a.extractLsb' 0 5) f.bc (f.mod.getLsbD 2) (f.mod.extractLsb' 0 2))
  | 0x142 => some (.st c (IOp.ofCode f.d) (f.a.extractLsb' 0 5) f.bc (f.mod.extractLsb' 0 2))
  | 0x143 => some (.ldv c (vOf f.d) (f.a.extractLsb' 0 5) f.bc (f.mod.extractLsb' 3 2))
  | 0x144 => some (.ldvs c (vOf f.d) (IOp.ofCode f.a) (IOp.ofCode f.b) (IOp.ofCode f.c) (f.mod.extractLsb' 7 3) (f.mod.extractLsb' 3 2))
  | 0x145 => some (.ldvg c (vOf f.d) (IOp.ofCode f.a) (vOf f.b) (f.mod.extractLsb' 5 2) (f.mod.extractLsb' 3 2))
  | 0x146 => some (.ldvq c (vOf f.d) (f.a.extractLsb' 0 5) f.bc)
  | 0x147 => some (.stv c (vOf f.d) (f.a.extractLsb' 0 5) f.bc)
  | 0x148 => some (.stvs c (vOf f.d) (IOp.ofCode f.a) (IOp.ofCode f.b) (IOp.ofCode f.c) (f.mod.extractLsb' 7 3))
  | 0x149 => some (.stvx c (vOf f.d) (IOp.ofCode f.a) (vOf f.b) (f.mod.extractLsb' 5 2))
  | 0x14A => some (.atom c (IOp.ofCode f.d) (IOp.ofCode f.a) (IOp.ofCode f.b) (IOp.ofCode f.c) (AtomOp.ofCode (f.mod.extractLsb' 0 4)) (f.mod.getLsbD 4) (Ord.ofCode (f.mod.extractLsb' 5 2)) (Scope.ofCode (f.mod.extractLsb' 7 3)))
  | 0x14B => some (.cas c (IOp.ofCode f.d) (IOp.ofCode f.a) (IOp.ofCode f.b) (IOp.ofCode f.c) (f.mod.getLsbD 4) (Ord.ofCode (f.mod.extractLsb' 5 2)) (f.mod.getLsbD 2) (Scope.ofCode (f.mod.extractLsb' 7 3)))
  | 0x14C =>
      if f.mod.extractLsb' 0 2 == 0 then some (.ropMcas c (IOp.ofCode f.d) (IOp.ofCode f.a) (IOp.ofCode f.b) (f.mod.extractLsb' 2 2) (Ord.ofCode (f.mod.extractLsb' 6 2))) else if f.mod.extractLsb' 0 2 == 1 then some (.ropEnq c (IOp.ofCode f.d) (IOp.ofCode f.a) (IOp.ofCode f.b) (Ord.ofCode (f.mod.extractLsb' 6 2))) else some (.ropChase c (IOp.ofCode f.d) (IOp.ofCode f.a) (IOp.ofCode f.b) (f.mod.extractLsb' 2 4) (Ord.ofCode (f.mod.extractLsb' 6 2)))
  | 0x14D => some (.phase c (PhaseKind.ofCode (f.mod.extractLsb' 5 2)) (Scope.ofCode (f.mod.extractLsb' 7 3)))
  | 0x14E => some (.fenceo c)
  | 0x14F => some (.fencex c (IOp.ofCode f.a))
  | 0x150 => some (.pref c (f.a.extractLsb' 0 5) f.bc (f.mod.getLsbD 0))
  | 0x151 => some (.tld c (IOp.ofCode f.d) (IOp.ofCode f.a) (IOp.ofCode f.b) (IOp.ofCode f.c) (f.mod.extractLsb' 0 3))
  | 0x152 => some (.tst c (IOp.ofCode f.d) (IOp.ofCode f.a) (IOp.ofCode f.b) (IOp.ofCode f.c) (f.mod.extractLsb' 0 3))
  | 0x153 => some (.shmld c (IOp.ofCode f.a) (f.mod.extractLsb' 0 3))
  | 0x154 => some (.shmst c (IOp.ofCode f.a) (f.mod.extractLsb' 0 3))
  | 0x155 => some (.kvst c (IOp.ofCode f.d) (vOf f.a) (vOf f.b) (IOp.ofCode f.c) (f.mod.getLsbD 0) (f.mod.extractLsb' 1 4))
  | 0x156 => some (.kalloc c (IOp.ofCode f.d) (f.mod.getLsbD 0) (f.mod.extractLsb' 1 4))
  | 0x157 => some (.kfree c (IOp.ofCode f.a))
  | 0x158 => some (.pfxh c (IOp.ofCode f.d) (IOp.ofCode f.a) (IOp.ofCode f.b))
  | 0x159 => some (.pfxl c (IOp.ofCode f.d) (IOp.ofCode f.a) (IOp.ofCode f.b) (f.mod.getLsbD 0))
  | 0x15A => some (.pfxi c (IOp.ofCode f.d) (IOp.ofCode f.a) (IOp.ofCode f.b))
  | 0x15B => some (.pfxp c (IOp.ofCode f.d) (IOp.ofCode f.a) (PfxOp.ofCode (f.mod.extractLsb' 0 2)))
  | 0x15C => some (.specb c (IOp.ofCode f.d) (IOp.ofCode f.a) (IOp.ofCode f.b))
  | 0x15D => some (.specc c (IOp.ofCode f.a))
  | 0x15E => some (.speca c)
  | 0x15F => some (.tlbi c (IOp.ofCode f.a) (f.mod.getLsbD 3) (TlbScope.ofCode (f.mod.extractLsb' 0 3)))
  | _ => none

/-- The vector class (R65). -/
def parseVector (f : Form) (c : Ctl) : Option Instr :=
  match f.opc.toNat with
  | 0x200 => some (.vadd c (vOf f.d) (vOf f.a) (vOf f.b) (VTy.ofCode (f.mod.extractLsb' 7 3)) (RmSel.ofCode (f.mod.extractLsb' 4 3)) (f.mod.getLsbD 3))
  | 0x201 => some (.vsub c (vOf f.d) (vOf f.a) (vOf f.b) (VTy.ofCode (f.mod.extractLsb' 7 3)) (RmSel.ofCode (f.mod.extractLsb' 4 3)) (f.mod.getLsbD 3))
  | 0x202 => some (.vmul c (vOf f.d) (vOf f.a) (vOf f.b) (VTy.ofCode (f.mod.extractLsb' 7 3)) (RmSel.ofCode (f.mod.extractLsb' 4 3)) (f.mod.getLsbD 3))
  | 0x203 => some (.vfma c (vOf f.d) (vOf f.a) (vOf f.b) (vOf f.c) (VTy.ofCode (f.mod.extractLsb' 7 3)) (RmSel.ofCode (f.mod.extractLsb' 4 3)) (f.mod.getLsbD 3))
  | 0x204 => some (.vfms c (vOf f.d) (vOf f.a) (vOf f.b) (vOf f.c) (VTy.ofCode (f.mod.extractLsb' 7 3)) (RmSel.ofCode (f.mod.extractLsb' 4 3)) (f.mod.getLsbD 3))
  | 0x205 => some (.vfnma c (vOf f.d) (vOf f.a) (vOf f.b) (vOf f.c) (VTy.ofCode (f.mod.extractLsb' 7 3)) (RmSel.ofCode (f.mod.extractLsb' 4 3)) (f.mod.getLsbD 3))
  | 0x206 => some (.vmin c (vOf f.d) (vOf f.a) (vOf f.b) (VTy.ofCode (f.mod.extractLsb' 7 3)))
  | 0x207 => some (.vmax c (vOf f.d) (vOf f.a) (vOf f.b) (VTy.ofCode (f.mod.extractLsb' 7 3)))
  | 0x208 => some (.vabs c (vOf f.d) (vOf f.a) (VTy.ofCode (f.mod.extractLsb' 7 3)))
  | 0x209 => some (.vneg c (vOf f.d) (vOf f.a) (VTy.ofCode (f.mod.extractLsb' 7 3)))
  | 0x20A => some (.vrcp c (vOf f.d) (vOf f.a) (VTy.ofCode (f.mod.extractLsb' 7 3)) (RmSel.ofCode (f.mod.extractLsb' 4 3)) (f.mod.getLsbD 3))
  | 0x20B => some (.vrsq c (vOf f.d) (vOf f.a) (VTy.ofCode (f.mod.extractLsb' 7 3)) (RmSel.ofCode (f.mod.extractLsb' 4 3)) (f.mod.getLsbD 3))
  | 0x20C => some (.vexp2 c (vOf f.d) (vOf f.a) (VTy.ofCode (f.mod.extractLsb' 7 3)) (RmSel.ofCode (f.mod.extractLsb' 4 3)) (f.mod.getLsbD 3))
  | 0x20D => some (.vlog2 c (vOf f.d) (vOf f.a) (VTy.ofCode (f.mod.extractLsb' 7 3)) (RmSel.ofCode (f.mod.extractLsb' 4 3)) (f.mod.getLsbD 3))
  | 0x20E => some (.vtanh c (vOf f.d) (vOf f.a) (VTy.ofCode (f.mod.extractLsb' 7 3)) (RmSel.ofCode (f.mod.extractLsb' 4 3)) (f.mod.getLsbD 3))
  | 0x20F => some (.vcvt c (vOf f.d) (vOf f.a) (VTy.ofCode (f.mod.extractLsb' 7 3)) (VTy.ofCode (f.mod.extractLsb' 0 3)) (RmSel.ofCode (f.mod.extractLsb' 4 3)) (f.mod.getLsbD 3))
  | 0x210 => some (.vcmp c (pOf f.d) (vOf f.a) (vOf f.b) (VCond.ofCode (f.mod.extractLsb' 0 3)) (VTy.ofCode (f.mod.extractLsb' 7 3)) (f.mod.getLsbD 3))
  | 0x211 => some (.vsel c (vOf f.d) (vOf f.a) (vOf f.b) (pOf f.c))
  | 0x212 => some (.viadd c (vOf f.d) (vOf f.a) (vOf f.b) (VTy.ofCode (f.mod.extractLsb' 7 3)) (f.mod.getLsbD 3))
  | 0x213 => some (.visub c (vOf f.d) (vOf f.a) (vOf f.b) (VTy.ofCode (f.mod.extractLsb' 7 3)) (f.mod.getLsbD 3))
  | 0x214 => some (.vimul c (vOf f.d) (vOf f.a) (vOf f.b) (VTy.ofCode (f.mod.extractLsb' 7 3)) (f.mod.getLsbD 3))
  | 0x215 => some (.vand c (vOf f.d) (vOf f.a) (vOf f.b))
  | 0x216 => some (.vor c (vOf f.d) (vOf f.a) (vOf f.b))
  | 0x217 => some (.vxor c (vOf f.d) (vOf f.a) (vOf f.b))
  | 0x218 => some (.vshl c (vOf f.d) (vOf f.a) (vOf f.b))
  | 0x219 => some (.vshr c (vOf f.d) (vOf f.a) (vOf f.b))
  | 0x21A => some (.vsra c (vOf f.d) (vOf f.a) (vOf f.b))
  | 0x21B => some (.vimin c (vOf f.d) (vOf f.a) (vOf f.b) (VTy.ofCode (f.mod.extractLsb' 7 3)))
  | 0x21C => some (.vimax c (vOf f.d) (vOf f.a) (vOf f.b) (VTy.ofCode (f.mod.extractLsb' 7 3)))
  | 0x21D => some (.vred c (vOf f.d) (vOf f.a) (RedOp.ofCode (f.mod.extractLsb' 0 3)) (VTy.ofCode (f.mod.extractLsb' 7 3)) (RmSel.ofCode (f.mod.extractLsb' 4 3)) (f.mod.getLsbD 3))
  | 0x21E => some (.vscan c (vOf f.d) (vOf f.a) (RedOp.ofCode (f.mod.extractLsb' 0 3)) (VTy.ofCode (f.mod.extractLsb' 7 3)) (RmSel.ofCode (f.mod.extractLsb' 4 3)) (f.mod.getLsbD 3))
  | 0x21F => some (.vperm c (vOf f.d) (vOf f.a) (vOf f.b))
  | 0x220 => some (.vslide c (vOf f.d) (vOf f.a) (IOp.ofCode f.b) (f.mod.getLsbD 0))
  | 0x221 => some (.vbcast c (vOf f.d) (vOf f.a) (IOp.ofCode f.b))
  | 0x222 => some (.vsplat c (vOf f.d) (IOp.ofCode f.a))
  | 0x223 => some (.vextr c (IOp.ofCode f.d) (vOf f.a) (IOp.ofCode f.b) (f.mod.getLsbD 0))
  | 0x224 => some (.viota c (vOf f.d) (pOf f.a))
  | 0x225 => some (.vpack c (vOf f.d) (vOf f.a) (vOf f.b) (VTy.ofCode (f.mod.extractLsb' 7 3)) (RmSel.ofCode (f.mod.extractLsb' 4 3)) (f.mod.getLsbD 3))
  | 0x226 => some (.vunpk c (vOf f.d) (vOf f.a) (VTy.ofCode (f.mod.extractLsb' 7 3)) (f.mod.getLsbD 0))
  | 0x227 => some (.vqnt c (vOf f.d) (vOf f.a) (vOf f.b) (VTy.ofCode (f.mod.extractLsb' 7 3)) (NFmt.ofCode (f.mod.extractLsb' 0 3)) (RmSel.ofCode (f.mod.extractLsb' 4 3)) (f.mod.getLsbD 3))
  | 0x228 => some (.vdqnt c (vOf f.d) (vOf f.a) (vOf f.b) (VTy.ofCode (f.mod.extractLsb' 7 3)) (NFmt.ofCode (f.mod.extractLsb' 0 3)) (RmSel.ofCode (f.mod.extractLsb' 4 3)) (f.mod.getLsbD 3))
  | 0x229 => some (.vrope c (vOf f.d) (vOf f.a) (vOf f.b) (IOp.ofCode f.c) (VTy.ofCode (f.mod.extractLsb' 7 3)) (RmSel.ofCode (f.mod.extractLsb' 4 3)) (f.mod.getLsbD 3))
  | 0x22A => some (.vmov c (vOf f.d) (vOf f.a))
  | _ => none

/-- The tensor class (R66). -/
def parseTensor (f : Form) (c : Ctl) : Option Instr :=
  match f.opc.toNat with
  | 0x300 =>
      if f.d.getLsbD 0 then some (.tbindUnb c (f.mod.extractLsb' 5 5)) else some (.tbind c (f.mod.extractLsb' 5 5) (IOp.ofCode f.a))
  | 0x301 => some (.tfetch c (f.mod.extractLsb' 5 5) (IOp.ofCode f.a) (IOp.ofCode f.b) (f.d.getLsbD 0))
  | 0x302 => some (.trel c (f.mod.extractLsb' 5 5))
  | 0x303 => some (.tstat c (IOp.ofCode f.d) (f.mod.extractLsb' 5 5) (f.a.extractLsb' 0 3))
  | 0x304 => some (.tzero c (f.mod.extractLsb' 3 2) (IOp.ofCode f.a))
  | 0x305 => some (.wload c (f.mod.extractLsb' 5 5) (IOp.ofCode f.a))
  | 0x306 => some (.wswap c)
  | 0x307 => some (.mma c (f.mod.extractLsb' 3 2) (f.mod.extractLsb' 5 5) (IOp.ofCode f.a) (WFmt.ofCode (f.d.extractLsb' 1 3)) (f.d.getLsbD 0))
  | 0x308 => some (.mmas c (f.mod.extractLsb' 3 2) (f.mod.extractLsb' 5 5) (IOp.ofCode f.a) (IOp.ofCode f.b) (WFmt.ofCode (f.d.extractLsb' 1 3)) (f.d.getLsbD 0) (f.d.getLsbD 4) (f.d.getLsbD 5))
  | 0x309 => some (.tdrain c (f.mod.extractLsb' 5 5) (f.mod.extractLsb' 3 2) (IOp.ofCode f.a) (RmSel.ofCode (f.d.extractLsb' 2 3)) (f.d.getLsbD 1) (f.d.getLsbD 0))
  | 0x30A => some (.normk c (f.mod.extractLsb' 5 5) (IOp.ofCode f.a) (f.d.getLsbD 0) (f.d.getLsbD 1))
  | 0x30B => some (.aliasTab c (IOp.ofCode f.a))
  | 0x30C => some (.seed c (IOp.ofCode f.a))
  | 0x30D => some (.smm c (f.mod.extractLsb' 3 2) (f.mod.extractLsb' 5 5) (f.d.extractLsb' 0 5) (IOp.ofCode f.a) (IOp.ofCode f.b))
  | 0x30E => some (.smmv c (IOp.ofCode f.a))
  | _ => none

/-- The copy/fabric class (R66). -/
def parseCopy (f : Form) (c : Ctl) : Option Instr :=
  match f.opc.toNat with
  | 0x380 =>
      if f.mod.getLsbD 5 then some (.cpySet c (IOp.ofCode f.a) (IOp.ofCode f.b) (f.mod.extractLsb' 3 2) (f.mod.extractLsb' 0 3)) else some (.cpy c (IOp.ofCode f.d) (IOp.ofCode f.a) (IOp.ofCode f.b) (f.mod.extractLsb' 3 2) (f.mod.extractLsb' 0 3))
  | 0x381 => some (.cpyt c (IOp.ofCode f.d) (IOp.ofCode f.a) (IOp.ofCode f.b) (f.mod.extractLsb' 3 2) (f.mod.extractLsb' 0 3))
  | 0x382 => some (.cpyl c (IOp.ofCode f.a) (f.mod.extractLsb' 3 2) (f.mod.extractLsb' 0 3))
  | 0x383 => some (.kvld c (f.mod.extractLsb' 5 5) (IOp.ofCode f.d) (IOp.ofCode f.a) (IOp.ofCode f.b) (f.mod.extractLsb' 3 2) (f.mod.extractLsb' 0 3))
  | 0x384 =>
      if f.mod.getLsbD 5 then some (.sendRq c (IOp.ofCode f.d) (IOp.ofCode f.a) (IOp.ofCode f.b) (f.mod.extractLsb' 3 2) (f.mod.extractLsb' 0 3)) else some (.send c (IOp.ofCode f.d) (IOp.ofCode f.a) (IOp.ofCode f.b) (f.mod.extractLsb' 3 2) (f.mod.extractLsb' 0 3))
  | 0x385 => some (.jobq c (IOp.ofCode f.a))
  | 0x386 => some (.coll c (IOp.ofCode f.a) (f.mod.extractLsb' 3 2) (f.mod.extractLsb' 0 3))
  | 0x387 => some (.reshard c (f.d.extractLsb' 0 3) (f.d.extractLsb' 3 3) (IOp.ofCode f.a) (f.mod.extractLsb' 3 2) (f.mod.extractLsb' 0 3))
  | 0x388 => some (.slotsel c (IOp.ofCode f.a) (IOp.ofCode f.b))
  | 0x389 => some (.park c (f.mod.extractLsb' 0 8))
  | 0x38A =>
      if f.mod.getLsbD 8 then some (.wakeThr c (f.mod.extractLsb' 0 8) (IOp.ofCode f.a)) else some (.wake c (f.mod.extractLsb' 0 8))
  | 0x38B => some (.linkst c (IOp.ofCode f.d) (IOp.ofCode f.a))
  | _ => none

/-- The instruction whose fields a word holds, before the checks of step 8 of R68. -/
def parse (k : OpClass) (w : BitVec 64) : Option Instr :=
  match k with
  | .scalar => parseScalar (Form.ofWord w) (Ctl.ofWord w)
  | .control => parseControl (Form.ofWord w) (Ctl.ofWord w)
  | .memory => parseMemory (Form.ofWord w) (Ctl.ofWord w)
  | .vector => parseVector (Form.ofWord w) (Ctl.ofWord w)
  | .tensor => parseTensor (Form.ofWord w) (Ctl.ofWordT w)
  | .copy => parseCopy (Form.ofWord w) (Ctl.ofWordT w)

/-- Step 8 of R68: the fields are those of a well-formed instruction and no other bit of the word is set. -/
def checkFields (k : OpClass) (w : BitVec 64) : Except DecodeFault Instr :=
  match parse k w with
  | some i => if i.wf && i.encode == w then .ok i else .error .reservedField
  | none => .error .reservedField

/-- Steps 4 to 8 of R68 for the word of slot S`slot`. -/
def decodeSlot (slot : Nat) (w : BitVec 64) : Except DecodeFault Instr :=
  match opClass (w.extractLsb' 54 10).toNat with
  | none => .error .illegalOpcode
  | some k =>
    if !k.inSlot slot then .error .illegalSlot
    else if (slot < 4 && (w.getLsbD 53 || w.getLsbD 47)) || (!w.getLsbD 53 && w.extractLsb' 48 5 != 0) then
      .error .reservedField
    else if w.getLsbD 47 && !stickyOpcode (w.extractLsb' 54 10).toNat then .error .stickyInvalid
    else checkFields k w

/-- The instruction that the decoder reads from a slot word of the opcode table, in the lowest slot its class
may stand in; the table gives a row one slot word of 64 bits (log entry 12). -/
def decodeTableWord (_nbits w : Nat) : Option Instr :=
  match opClass ((BitVec.ofNat 64 w).extractLsb' 54 10).toNat with
  | none => none
  | some k =>
    match decodeSlot k.slot (BitVec.ofNat 64 w) with
    | .ok i => some i
    | .error _ => none

end Sys2Proof
end

