-- ==== Sys2Proof/Machine/State.lean ====
section
/-! DEFINITION. The whole state of one SKN-4820 package as plain data: its 576 cores, 36 clusters and four
dies, the package's own tables and queues, and every byte its nodes and its partition hold. -/

namespace Sys2Proof.Machine

/-- No instruction ends a run in a fault: a fault of the SKN-4820 is an event that the machine takes (R48,
R50, R136), so it is a next state. -/
inductive Fault where
  /-- Raised by a host bulk access whose address the node's map does not populate (R16, R441): the manual
  gives it no effect. Safe: the run stops where the hardware goes on. -/
  | hostAddressUnpopulated
  deriving DecidableEq, Repr

/-- Why a meaning declines to answer. -/
inductive Refusal where
  /-- The operation has no meaning in this model. Raised by exec alone; safe. -/
  | notModelled (mnemonic : String)
  deriving DecidableEq, Repr

/-- The fault codes of R132, in the order of the table. -/
inductive FCode where
  | illegalOpcode | illegalSlot | reservedField | stallUndersize | stickyInvalid | gateOverflow | priv
  | spaceTag | range | align | pageNotPresent | pagePermission | latencyClass | decodedViewWrite
  | tileUnbound | tileShape | partialSumRead | mapInvalid | reshardUnplannable | remoteIndeterminate
  | remoteUnreachable | memberLost | positionRange | specWindow | kvPoolEmpty | prefixTableFull
  | queueUnmapped | format | integrity | softErrorUncorrectable | watchdog | trap | sampleTable
  deriving DecidableEq, Repr

/-! ## A core -/

/-- Where an access lands: its tag, the key of its first byte (for tag 0x2 the view address, for tag 0x3
the offset at the target), the node, the page's latency class, and the leaf a walk found, as page number, page size
and entry. -/
structure Loc where
  tag  : Nat
  key  : Nat
  node : Nat
  cls  : Nat
  leaf : Option (Nat × Nat × Word)
  deriving DecidableEq, Repr

/-- Where a landing writes (R146): a physical register, a special register, a q register or the queue
table; `p8` is the predicate set-up of ROTSET.pc, which takes the base in force when it lands (R181). -/
inductive WrKind where
  | scalar | vector | pred | special | push | bind | p8
  deriving DecidableEq, Repr

/-- One register write of a landing: the lanes or bits of `mask` take those of `val`. `room` is the stage
queue in which R319 reserved the push. -/
structure Wr where
  kind : WrKind
  idx  : Nat
  mask : Word
  val  : VReg
  room : Nat
  deriving DecidableEq, Repr

/-- A pending fixed-latency result (R71, R173): written at `due`; placed by slot `slot` in cycle `placed`;
`llb` says it holds a load-landing-buffer entry and `latch` a snapshot-latch entry (R144). -/
structure Landing where
  due    : Nat
  placed : Nat
  slot   : Nat
  /-- the number of the issue that asked for it (R71) -/
  num    : Nat
  /-- the address of its bundle; 0 for what a save area gave back -/
  bundle : Word
  llb    : Bool
  latch  : Bool
  writes : List Wr
  /-- for a timed global load, its pointers with the page size and MIG of the leaf of each (R259) -/
  vas    : List (Word × Nat × Bool)
  deriving DecidableEq, Repr

/-- One slot operation: what issued it and, once `latched`, the guard, operands, bases and mode it read
(R78, R82). -/
structure SlotOp where
  slot    : Nat
  instr   : Instr
  bundle  : Word
  len     : Nat
  latched : Bool
  guard   : Word
  d       : Word
  a       : Word
  b       : Word
  c       : Word
  va      : VReg
  vb      : VReg
  vc      : VReg
  vrb     : Word
  prb     : Word
  fmode   : Word
  sup     : Bool
  bar     : Option (BitVec 3)
  /-- the stage queue in which R319 reserved room for a push of this operation -/
  room    : Nat
  /-- the number of the issue that holds it, and whether its ready tag has been met (R81) -/
  num     : Nat
  go      : Bool
  deriving DecidableEq, Repr

/-- An operation read from nothing: the slot context outside an issue. -/
def SlotOp.none : SlotOp :=
  { slot := 0, instr := .resultLanding, bundle := 0, len := 8, latched := false, guard := 0, d := 0, a := 0,
    b := 0, c := 0, va := 0, vb := 0, vc := 0, vrb := 0, prb := 0, fmode := 0, sup := false, bar := .none, room := 0, num := 0,
    go := false }

/-- The sticky state of one slot (R76 to R79): the operation with its latched operands, the two steps and
the count of re-issues. -/
structure Sticky where
  op    : SlotOp
  stepA : Word
  stepB : Word
  k     : Nat
  deriving DecidableEq, Repr

/-- A raised fault that waits to be resolved: code, address, slot, bundle (R134, R135). -/
structure Raised where
  code   : FCode
  addr   : Word
  slot   : Nat
  bundle : Word
  /-- the check of a record or a start-table entry, or a record being written (R132): never absorbed -/
  hard   : Bool
  deriving DecidableEq, Repr

/-- One lane of a gate entry (R146): the tag its pointer had, the byte it reaches, its bytes. -/
structure GateLane where
  lane : Nat
  tag  : Nat
  key  : Nat
  val  : Word
  deriving DecidableEq, Repr

/-- A store in the store gate (R138, R146). -/
structure GateEntry where
  opc    : BitVec 10
  bundle : Word
  bytes  : Nat
  lanes  : List GateLane
  deriving DecidableEq, Repr

/-- The mark's snapshot (R84): the three files, the bases, the counts, FMODE and the sticky state. -/
structure Snapshot where
  pc     : Word
  s      : Store Word
  v      : Store VReg
  p      : Store Word
  vrb    : Word
  prb    : Word
  lc     : Word
  ec     : Word
  fmode  : Word
  sticky : List Sticky
  deriving DecidableEq, Repr

/-- What a core's task is beyond its special registers: the record fields that no register shows (R31,
R42) and the fault bookkeeping of R50. -/
structure TaskInfo where
  kind     : BitVec 4
  prio     : BitVec 3
  waitcnt  : BitVec 16
  stamp    : BitVec 48
  argp     : Word
  retries  : BitVec 4
  lastf    : BitVec 8
  /-- its record has been written or was the one dispatched (R42) -/
  saved    : Bool
  deriving DecidableEq, Repr

/-- A task as its last dispatch found it, for a retry without a mark (R50). -/
structure Dispatched where
  pc   : Word
  s0   : Word
  s1   : Word
  s2   : Word
  s3   : Word
  info : TaskInfo
  tpol : BitVec 2
  deriving DecidableEq, Repr

/-- A completion barrier (R339). -/
structure Cb where
  addr : Word
  exp  : Word
  deriving DecidableEq, Repr

/-- An entry of a stage queue, receive queue or load stream: the value, the cycle it entered (R319), and who pushed
it, as core × 8 + slot (R320). -/
structure QEntry where
  val : Word
  at_ : Nat
  src : Nat
  deriving DecidableEq, Repr

/-- The load return stream of one q (R317, R330): filled entries in order, then the loads that reserved an
entry, by pending-operation number, with the value once it is there. -/
structure Stream where
  ready : List QEntry
  owed  : List (Nat × Option Word)
  deriving DecidableEq, Repr

/-- The task that issued an engine operation: its ids, its record and the run of its core (R137). -/
structure Owner where
  task : BitVec 20
  crew : Nat
  cont : Nat
  run  : Nat
  deriving DecidableEq, Repr

/-- A variable-latency operation of the ms slot or the fabric controller that has issued and not completed
(R267): its latched slot operation, its owner, and how far it has come. -/
structure Pend where
  id    : Nat
  op    : SlotOp
  own   : Owner
  due   : Nat
  /-- bytes reached, per lane, as translated at issue; for a decoded view its source bytes (R131) -/
  keys  : List (Nat × Nat)
  /-- the pointers of the lanes, and the lanes with their places as translated at issue (R128, R259) -/
  vas   : List Word
  locs  : List (Nat × Word × Loc)
  peer  : Bool
  /-- performed at its home or target -/
  perf  : Bool
  /-- acknowledged or replied -/
  acked : Bool
  res   : List Word
  dest  : List Wr
  fault : Option (FCode × Word)
  seq   : BitVec 32
  sent  : Nat
  lastTx : Nat
  /-- the cores a TLBI still has to reach (R261); what it waits for at those it has reached stands in `keys` -/
  left  : List Nat
  /-- a FENCEO issued after it while it was unbound (R306) -/
  fenced : Bool
  /-- a word latched at issue: STEP, SPECW, the operand block of ROP, the image of a map (R282, R410) -/
  blk   : List Word
  deriving DecidableEq, Repr

/-- A tensor job (R208): its latched slot operation, when it started, how many rows are done, how many it
processed, the first reserved counter value of a TDRAIN (R229), and the rows a fill has still to write. -/
structure TJob where
  id    : Nat
  op    : SlotOp
  own   : Owner
  start : Option Nat
  due   : Nat
  rows  : Nat
  live  : Nat
  draw  : Word
  fill  : List Nat
  /-- the card this job works for, and where its next entry lies (R334) -/
  card  : Option Nat
  deriving DecidableEq, Repr

/-- How far a copy-queue entry has come (R337): waiting, moving, handed to a send queue, the walker or the
Jig, or performed and waiting for its stamp. -/
inductive CopyStage where
  | queued | active | handed | performed
  deriving DecidableEq, Repr

/-- A copy-queue entry (R336): its latched slot operation, the stamp set up at issue (SA zero for none, V,
the completion barrier), and its progress. -/
structure CopyEntry where
  id     : Nat
  op     : SlotOp
  own    : Owner
  q      : BitVec 2
  cb     : BitVec 3
  sa     : Word
  v      : Word
  stage  : CopyStage
  /-- entry of a list or row of a CPYT in progress, and bytes of it done -/
  row    : Nat
  pos    : Nat
  /-- source bytes as they were when the copy, row or entry started, and the share they were mapped under (R247) -/
  buf    : List Byte
  share  : Nat
  failed : Bool
  /-- SPECW at the issue of a KVLD (R424), and the two maps of a RESHARD (R386) -/
  blk    : List Word
  /-- the job card this copy works for (R335) -/
  card   : Option Nat
  deriving DecidableEq, Repr

/-- One entry of the alias table (R233). -/
structure AliasEntry where
  thr  : BitVec 32
  full : Bool
  alix : BitVec 12
  p    : BitVec 32
  r    : BitVec 32
  deriving DecidableEq, Repr

/-- An empty alias entry. -/
def AliasEntry.none : AliasEntry := { thr := 0, full := false, alix := 0, p := 0, r := 0 }

/-- The Scarab state of R227, with CNRM of the last batch (R239). -/
structure Scarab where
  na2    : Store Lane
  nb2    : Store Lane
  table  : Store AliasEntry
  kn     : BitVec 13
  valid  : Bool
  rctr   : Word
  sctr   : Word
  sq     : Word
  reason : BitVec 3
  key    : Word
  thr    : BitVec 32
  n      : BitVec 24
  cnrm   : Word
  deriving DecidableEq, Repr

/-- The Scarab at dispatch (R227). -/
def Scarab.clear : Scarab :=
  { na2 := [], nb2 := [], table := [], kn := 0, valid := false, rctr := 0, sctr := 0, sq := 0, reason := 0,
    key := 0, thr := 0, n := 0, cnrm := 0 }

/-- A phase-cache line (R249, R295): the bytes held, which were read in this phase or written, which are written and
not yet performed, which of these one store wrote together with the byte before (R290), and whether the present phase has
touched the line. -/
structure CLine where
  data  : BitVec 1024
  have_ : BitVec 128
  dirty : BitVec 128
  glue  : BitVec 128
  cur   : Bool
  deriving DecidableEq, Repr

/-- A line the phase cache does not hold. -/
def CLine.none : CLine := { data := 0, have_ := 0, dirty := 0, glue := 0, cur := false }

/-- A cached translation (R258): page number, page size, leaf entry and the last cycle in which the cache
holds it. -/
structure TlbEntry where
  page : Nat
  size : Nat
  leaf : Word
  till : Nat
  deriving DecidableEq, Repr

/-- A non-leaf entry in a die's walk cache (R258): the word, the last cycle in which the cache holds it, and the cores whose
own unperformed store to it it may not hide (log entry 78). -/
structure WalkEntry where
  word : Word
  till : Nat
  shut : List Nat
  deriving DecidableEq, Repr

/-- No entry. -/
def WalkEntry.none : WalkEntry := { word := 0, till := 0, shut := [] }

/-- What a core waits for before its next bundle (R140 to R143, R302, R308, R324 to R328, R362, R363): PHASE and
FENCEX from slot ms, the rest from slot cb or from fetch. `released` is a crew barrier whose round has completed, and since
when (R326). -/
inductive Wait where
  | trap (imm : BitVec 16)
  | eret
  | yield
  | released (age : Nat)
  | cbar (arrived : Bool)
  | done (step : Nat)
  | spawn (p : Word) (cl : Nat)
  | spawned (key : Nat) (p : Word) (cl : Nat) (w1 w2 : Word)
  | phase (kind : PhaseKind) (scope : Scope)
  | fence (a : Word) (scope : Scope) (sent : Bool)
  | stamp (p e : Word) (acq armed : Bool)
  | any (mask : BitVec 8) (acq clr armed : Bool)
  | rewalk (va : Word)
  | fetch (va : Word)
  deriving DecidableEq, Repr

/-- Whether a core has a task, and whether that task is frozen by pre-emption (R33, R144). A draining core
has taken a request and waits for its engines (R144, step 3); `f` is the cycle of the request. -/
inductive Run where
  | idle (since : Nat)
  | running
  | draining (f : Nat)
  | frozen (f : Nat)
  deriving DecidableEq, Repr

/-- One control core: the register-like state of R148, the queues and latches it owns, and the slots of the
issue in progress. -/
structure Core where
  run      : Run
  info     : TaskInfo
  start    : Dispatched
  /-- s0–s31, v0–v63 and p0–p15 by physical number; p0 is not held -/
  s        : Store Word
  v        : Store VReg
  p        : Store Word
  /-- special registers by index (R149), those of R151 that are not derived -/
  spr      : Store Word
  pc       : Word
  nextIssue : Nat
  /-- the cycle up to which the STALL of the last issue lasts (R75, R433) -/
  stallTo  : Nat
  /-- repetitions of the bundle at pc still to issue; none before its first issue (R75) -/
  rep      : Option Nat
  /-- issue count, for skew (R83), and the issue number of each held slot -/
  issues   : Nat
  lastIssue : Nat
  db       : Store Nat
  cb       : Store Cb
  rot      : BitVec 3
  qtab     : Store Word
  streams  : Store Stream
  sm       : Store Word
  tiles    : Store Word
  /-- the tiles that the present cycle began READY (R203) -/
  tready   : BitVec 32
  acc      : Store VReg
  planes   : Store VReg
  active   : Bool
  land     : List Landing
  /-- the landings that the save area of the frozen task holds, one register write each (R146, log entry 24), and the
  restart events that meet the task at its resume: pointer, bundle and number of the access (R140, R144) -/
  kept     : List Landing
  thaw     : List (Word × Word × Nat)
  gate     : List GateEntry
  gateClosed : Bool
  marked   : Bool
  shadow   : Option Snapshot
  sticky   : List Sticky
  held     : List (Nat × SlotOp)
  pend     : List Pend
  jobs     : List TJob
  copies   : List CopyEntry
  /-- the copy queue served last (R337) -/
  lastq    : BitVec 2
  scarab   : Scarab
  cache    : Store CLine
  /-- dirty bytes whose write-back a release has started and does not wait for, by line (R303) -/
  backing  : Store (BitVec 128)
  tlb      : List TlbEntry
  mantisSeq : BitVec 32
  wait     : Option Wait
  waitOp   : SlotOp
  /-- the same for slot ms -/
  mwait    : Option Wait
  mwaitOp  : SlotOp
  pm       : Store Word
  /-- what has been counted in the present cycle: bit k PMCk, bit 4 + k a wrap of it (R6, R431, R434) -/
  counted  : BitVec 8
  /-- the number of the next pending operation, job or copy -/
  nextId   : Nat
  /-- the slot operation that is performing, those of the issue still to perform, faults raised, the restart
  event met, and where the bundle goes next -/
  cur      : SlotOp
  todo     : List SlotOp
  raised   : List Raised
  restart  : Option Word
  next     : Word
  transfer : Bool
  /-- values a q operand of the slot popped (R319), by q -/
  popped   : Store Word
  /-- barrier decrements of the present cycle, which an MRS of DBSTAT does not see (R430) -/
  dbNow    : List (Nat × Nat)
  /-- faults of variable-latency operations that wait for a bundle boundary (R136) -/
  late     : List Raised
  /-- STATUS as a mark bundle found it, while its slots run (R165) -/
  marking  : Option Word
  /-- how many runs the core has dispatched -/
  runs     : Nat
  deriving DecidableEq, Repr

/-! ## A cluster -/

/-- A record as its cluster's scheduler knows it: address, PRIO, CREW, TASK and STAMPADDR as it was entered (R314), and
the cycle from which its age runs (R45, R326). -/
structure Waiter where
  rec_  : Nat
  prio  : Nat
  crew  : Nat
  task  : BitVec 20
  stamp : Nat
  age   : Nat
  deriving DecidableEq, Repr

/-- A node of the scheduler's pool (R313) with the task's PRIO and the cycle of its last raise (R47). -/
structure PoolNode where
  rec_  : Nat
  waiting : Bool
  list  : Nat
  prio  : Nat
  enq   : Nat
  since : Nat
  crew  : Nat
  task  : BitVec 20
  stamp : Nat
  /-- WAITCNT as the scheduler counts it (R315); a waiting record of count 0 waits for the write that makes it
  ready (R46) -/
  cnt   : Nat
  deriving DecidableEq, Repr

/-- An entry of the crew table (R316), with the records that wait in the current round. -/
structure Crew where
  live  : Nat
  arr   : Nat
  cpol  : BitVec 2
  /-- the entry has been made since the launch -/
  made  : Bool
  waiters : List Waiter
  deriving DecidableEq, Repr

/-- A job card in the cluster's queue (R335): its 64 bytes, who issued it (`op.room` is its place among the issuing
core's work), the core whose engine runs it, the next entry of a tensor list, and whether a fault has ended it. -/
structure Card where
  id    : Nat
  /-- the cycle in which its JOBQ performed (R335) -/
  at_   : Nat
  words : List Word
  core  : Nat
  op    : SlotOp
  own   : Owner
  engine : Option Nat
  pos   : Nat
  failed : Bool
  deriving DecidableEq, Repr

/-- The state the 16 cores of a cluster share. -/
structure Cluster where
  clshare : Word
  pool    : Store (Option PoolNode)
  crews   : Store Crew
  stageq  : Store (List QEntry)
  reserved : Store Nat
  cards   : List Card
  nextCard : Nat
  /-- records made READY that wait for a pool node (R314, R326) -/
  ready   : List Waiter
  deriving DecidableEq, Repr

/-! ## A die -/

/-- A write of the device to a record, or a post, that no running task waits for (R479): LASTF alone (R137); the KILLED
record, in memory or whole, with the address of the post that follows (R51); the WAITCNT of the waiting record in a node
of a cluster, with its crew and task; the STATE of a released record of a cluster (R326); a post (R315). -/
inductive RecWrite where
  | lastf (code : Nat)
  | killed (code : Nat) (retries : Option Nat) (stamp : Nat)
  | killedWhole (words : List Word) (stamp : Nat)
  | count (n k i crew : Nat) (task : BitVec 20)
  | ready (k : Nat) (w : Waiter)
  | post
  deriving DecidableEq, Repr

/-- A fault charged to a task that no core runs (R137, R479): cluster, crew, task, the core that issued its operation if
one did, the record whose LASTF it reaches, if any, and the code. -/
structure Orphan where
  k    : Nat
  crew : Nat
  task : BitVec 20
  core : Option Nat
  cont : Option Nat
  code : FCode
  hard : Bool
  deriving DecidableEq, Repr

/-- Such a write that waits for a migratable page: its address and what it writes (R140, R479). -/
structure Owed where
  va   : Nat
  what : RecWrite
  deriving DecidableEq, Repr

/-- The five registers of a format window (R127). -/
structure FmtWin where
  src  : Word
  scl  : Word
  view : Word
  len  : Word
  ctl  : Word
  deriving DecidableEq, Repr

/-- An open speculative window (R414). -/
structure SpecWin where
  core   : Nat
  task   : BitVec 20
  base   : BitVec 16
  ndraft : Nat
  regions : List (Word × Nat × Nat)
  allocs : List (Nat × Nat)
  writes : List (Nat × Nat × Nat)
  deriving DecidableEq, Repr

/-- An entry of the prefix table (R418). -/
structure PfxEntry where
  w0 : Word
  w1 : Word
  deriving DecidableEq, Repr

/-- A Mantis unit's state for one source (R280): the highest number received and, per number kept, the
reply once performed. -/
structure MantisSrc where
  h      : BitVec 32
  lost   : Bool
  replies : List (BitVec 32 × Option (List Word × Option FCode))
  deriving DecidableEq, Repr

/-- A running collective (R352 to R361): record, plan and error words as the walker read them (the words by element, kept up
as transfers are encoded), its number among the calls of its record, the next transfer to emit, transfers sent and not
acknowledged with their target, transfers applied; and how it has ended, while its status word waits for a page: KIND,
LOST and the fault (R140, R360). -/
structure Coll where
  id      : Nat
  core    : Nat
  copyId  : Nat
  rec_    : List Word
  plan    : List Word
  efb     : Store (BitVec 32)
  num     : Nat
  emitted : Nat
  unacked : List (Nat × Nat)
  applied : List Nat
  ended   : Option (Nat × Nat × Option (FCode × Word))
  deriving DecidableEq, Repr

/-- A transfer that has arrived at a node: the record and number of its collective, its walk index, its source
node, and the elements of a reduce transfer (R354, R356). -/
structure Arrival where
  rec_  : List Word
  num   : Nat
  t     : Nat
  src   : Nat
  bytes : List Byte
  deriving DecidableEq, Repr

/-- A running RESHARD (R381, R386): the two maps, its number for its key, the cycle of its first piece, which pieces are
written and which are in flight (R382, R387), what nodes of other packages have sent it (source node, element, value), and the
plan. -/
structure Resh where
  id      : Nat
  core    : Nat
  copyId  : Nat
  src     : List Word
  dst     : List Word
  num     : Nat
  due     : Nat
  pieces  : List Nat
  flying  : List Nat
  staged  : List (Nat × Nat × Nat)
  steps   : List (Nat × Nat × Nat)
  deriving DecidableEq, Repr

/-- What a member of this package that has completed a RESHARD leaves with those that have not (R381): the key and the number,
its node, and the values it has sent and passed on (source node, element, value). -/
structure Staged where
  key  : List Word
  num  : Nat
  node : Nat
  vals : List (Nat × Nat × Nat)
  deriving DecidableEq, Repr

/-- A cached plan (R380): the key and the steps, as (vocabulary order, axis, dimension). -/
structure Plan where
  key   : List Word
  steps : List (Nat × Nat × Nat)
  deriving DecidableEq, Repr

/-- The state of one compute die. -/
structure Die where
  schedcfg : Word
  kvcfg    : Word
  npages   : Word
  kvFree   : Nat
  windows  : Store (Option SpecWin)
  prefixes : Store PfxEntry
  l2lock   : Word
  fmtwin   : Store FmtWin
  plans    : List Plan
  colls    : List Coll
  reshards : List Resh
  /-- how many RESHARDs of each key have issued, and which numbers of it each node has announced (R381) -/
  reshNums : List (List Word × Nat)
  announced : List (Nat × List Word × Nat)
  /-- how many collectives of each record the walker has taken, and the transfers that have arrived -/
  collNums : List (List Word × Nat)
  inbox    : List Arrival
  errcnt   : Store (BitVec 32)
  secnt    : Store (BitVec 32)
  /-- words of the ERR block that have moved in the present cycle (R6, R431) -/
  counted  : List Nat
  mantis   : Store MantisSrc
  walk     : Store WalkEntry
  /-- device writes that wait for a migratable page (R479) -/
  owed     : List Owed
  /-- faults charged to tasks that no core runs (R137, R479) -/
  orphans  : List Orphan
  nextId   : Nat
  deriving DecidableEq, Repr

/-! ## The package -/

/-- The running grid (R37, R48): its start vector, the cycle it started in, the next root of each core, tasks
alive, and the first fault if it ends by one. -/
structure Grid where
  vec     : StartVector
  started : Nat
  /-- rounds of the deal already dispatched, by core -/
  dealt   : Store Nat
  live    : Nat
  fault   : Option FaultNotice
  /-- a fault with no task, node or core (R43) -/
  bare    : Bool
  /-- the cycle in which a fault has stopped the grid's last core here (R48) -/
  ended   : Nat
  /-- crews ended by containment, by cluster, whose undealt roots never start (R50) -/
  killed  : List (Nat × Nat)
  deriving DecidableEq, Repr

/-- A carrier band (R394). -/
inductive Band where
  | on | parking | parked | waking (since : Nat)
  deriving DecidableEq, Repr

/-- A send-queue descriptor (R349): target node, where its bytes go and the bytes left, with the copy or
transfer it belongs to. -/
structure Desc where
  node  : Nat
  dest  : Word
  rq    : Bool
  bytes : List Byte
  core  : Nat
  copyId : Nat
  /-- for a transfer of a collective, its die, its number and its walk index; whether it is a reduce transfer, and
  the bytes a copy transfer leaves at its target (R354, R357) -/
  coll  : Option (Nat × Nat × Nat)
  red   : Bool
  data  : List Byte
  deriving DecidableEq, Repr

/-- A packet in flight (R388, R393, R399): its number, its IV and what its header, payload and tag are on the wire, when it
started and ended, its width, its bands and the channel they are tuned to, and the payload. -/
structure Flight where
  seq   : Nat
  iv    : BitVec 96
  wire  : List Byte
  start : Nat
  stop  : Nat
  width : Nat
  bands : BitVec 8
  chan  : BitVec 6
  desc  : Desc
  deriving DecidableEq, Repr

/-- A per-destination send queue (R349, R393, R399). -/
structure SendQ where
  descs  : List Desc
  flight : List Flight
  iv     : Word
  seq    : Nat
  /-- the end of the packet being sent; for the slot that began at `slotAt`, the payload sent in it and whether nothing more is
  sent in it (R393) -/
  busy   : Nat
  sent   : Nat
  shut   : Bool
  slotAt : Nat
  deriving DecidableEq, Repr

/-- A stored response or notice of the command protocol (R444): its number, the opcode echoed, status and payload. -/
structure Msg where
  seq     : BitVec 32
  opcode  : Nat
  notice  : Bool
  host    : BitVec 32
  status  : Nat
  payload : List Word
  deriving DecidableEq, Repr

/-- What the port sent last (R441 to R445): nothing, a message of the command protocol with its header, payload and tag, the
acknowledgement of an RDMA WRITE, the data of an RDMA READ, or a NAK. -/
inductive PortReply where
  | none
  | message (header : List Word) (payload : List Word) (tag : BitVec 128)
  | ack
  | data (bytes : List Byte)
  | nak
  deriving DecidableEq, Repr

/-- A PREEMPT that executes (R144): its header, the core, the cycle f of the request, the place of every 128th byte of
the save area as translated then, and DBSTAT as it stood. -/
structure Freeze where
  h     : HostHdr
  core  : Nat
  at_   : Nat
  heads : List Nat
  db    : Word
  deriving DecidableEq, Repr

/-- A SLOTSEL, PARK or WAKE that has reached the fabric controller (R396). -/
structure FabricOp where
  node  : Nat
  core  : Nat
  pend  : Nat
  reach : Nat
  deriving DecidableEq, Repr

/-- The partition the package belongs to (R20, R365). -/
structure Partition where
  id      : BitVec 16
  pkg     : BitVec 6
  mesh    : Word
  others  : List Member
  deriving DecidableEq, Repr

/-- A host write of one counter word, made at the end of its cycle unless the counter moves in it (R6, R431): block, instance,
word and the value written. -/
structure CtrWrite where
  block : Nat
  inst  : Nat
  word  : Nat
  new_  : Word
  deriving DecidableEq, Repr

/-- The state of the package's I/O die and its host link. -/
structure Package where
  booted   : Bool
  shutdown : Bool
  launchq  : List StartVector
  grid     : Option Grid
  part     : Option Partition
  /-- package index and MESH of the last partition formed since reset (R149, R364) -/
  lastPart : Option (BitVec 6 × Word)
  /-- T0 and C0 of the time base, from the last formation of a partition until package reset (R427) -/
  anchor   : Option (Nat × Nat)
  nexp     : BitVec 32
  dlast    : BitVec 32
  msgs     : List Msg
  discards : Nat
  session  : Option (BitVec 256)
  port     : PortReply
  /-- the PREEMPT that executes (R144), or that waits for a fault or a trap to be taken (R147) -/
  busy     : Option (HostHdr × Nat)
  freeze   : Option Freeze
  /-- commands that have come while a command executes, in order (R444) -/
  later    : List Instr
  /-- the firmware that runs (R449), and the queue pairs that the port knows (R441) -/
  firmware : List Byte
  qps      : List Nat
  addr6    : BitVec 128
  addr4    : BitVec 32
  slots    : Store (Word × Word)
  slotcfg  : Word
  epoch    : Word
  pepoch   : Word
  /-- the cycle in which the hardware last switched the rotation (R6, R391, R392) -/
  switched : Option Nat
  /-- the entry in progress: its index, the time base at its start, its two words as read then (R390) -/
  slot     : Option (Nat × Nat × Word × Word)
  bands    : Store Band
  armed    : BitVec 8
  thr      : BitVec 32
  up       : BitVec 32
  /-- fibres each other package has been told not to use towards us, and we towards it -/
  avoid    : List (Nat × Nat)
  keys     : Store (Option (BitVec 16 × BitVec 256))
  sendq    : Store SendQ
  recvq    : Store (List QEntry)
  /-- packets that wait at a port, the next number expected from each package (R350, R393), the number of the packet last
  acknowledged to each, counted from 1 (R393), and the channel that each port (fibre × 8 + band) accepted in the present slot
  (R388) -/
  waiting  : List (BitVec 8 × Packet)
  gotSeq   : Store Nat
  acks     : Store Nat
  accept   : List (Nat × Nat)
  fabops   : List FabricOp
  fab      : Store Word
  occ      : Store Word
  occAt    : Nat
  engy     : Store Word
  engyAt   : Nat
  /-- the latest ticks of the energy counters with the microjoules that each added, newest first (R450) -/
  engyLog  : List (Nat × Nat)
  pwrlim   : BitVec 16
  withhold : Nat
  hot      : Bool
  flash    : List Byte
  /-- requests of other packages that wait at a node of this one, with the cycle of their next try (R256, R280) -/
  foreign  : List (Nat × Instr)
  /-- counter writes of the present cycle (R431) -/
  ctrw     : List CtrWrite
  /-- words of the FAB and ENERGY blocks that have moved in the present cycle: block, instance, word (R6, R431) -/
  moved    : List (Nat × Nat × Nat)
  /-- what completed members of RESHARDs have left (R381) -/
  staged   : List Staged
  deriving DecidableEq, Repr

/-! ## The whole -/

/-- The fuses (R22 to R25): not state that anything changes, but data that tells one part from another. -/
structure Fuses where
  stepping : BitVec 8
  clmask   : List (BitVec 9)
  stkmask  : List (BitVec 2)
  fibres   : BitVec 32
  bands    : BitVec 8
  deriving DecidableEq, Repr

/-- An armed stamp monitor (R342): the core, which monitor (0–7 cbN, 8 WAITS), the word and the value. -/
structure Monitor where
  core : Nat
  mon  : Nat
  key  : Nat
  exp  : Word
  deriving DecidableEq, Repr

/-- A write that an armed monitor saw, in the order of the location (R342, R343). -/
structure Seen where
  core  : Nat
  mon   : Nat
  cls   : Nat
  val   : Word
  hit   : Bool
  deriving DecidableEq, Repr

/-- The machine. `me` is the core whose turn it is and `pass` the part of the cycle: 0 landings, 1 engines
and tables, 2 issue, 3 held slots, 4 forced boundaries and packets. `agenda` holds what comes from outside, each with its cycle,
`mail` the messages that RESYNC and HOST_MESSAGE_DISCARD take whole, `oracle` the choices the manual leaves open, and `free`
counts the free values drawn. These six are the model's own. -/
structure State where
  cores    : Store Core
  clusters : Store Cluster
  dies     : Store Die
  pkg      : Package
  mem      : List Host.Cell
  fuses    : Fuses
  cycle    : Nat
  monitors : List Monitor
  seen     : List Seen
  me       : Nat
  pass     : Nat
  agenda   : List (Nat × Instr)
  mail     : List (HostHdr × List Byte)
  oracle   : List Nat
  free     : Nat
  deriving DecidableEq, Repr

/-! ## Reset (R5, R148 to R151, R241, R425) -/

/-- No task. -/
def TaskInfo.none : TaskInfo :=
  { kind := 0, prio := 0, waitcnt := 0, stamp := 0, argp := 0, retries := 0, lastf := 0, saved := false }

/-- No dispatch yet. -/
def Dispatched.none : Dispatched :=
  { pc := 0, s0 := 0, s1 := 0, s2 := 0, s3 := 0, info := TaskInfo.none, tpol := 0 }

/-- A core right after package reset: idle, every register zero (log entry 3). -/
def Core.reset : Core :=
  { run := .idle 0, info := TaskInfo.none, start := Dispatched.none, s := [], v := [], p := [], spr := [], pc := 0,
    nextIssue := 0, stallTo := 0, rep := none, issues := 0, lastIssue := 0, db := [], cb := [], rot := 0, qtab := [],
    streams := [], sm := [], tiles := [], tready := 0, acc := [], planes := [], active := false, land := [], kept := [], thaw := [], gate := [],
    gateClosed := false, marked := false, shadow := none, sticky := [], held := [], pend := [], jobs := [],
    copies := [], lastq := 3, scarab := Scarab.clear, cache := [], backing := [], tlb := [], mantisSeq := 0, wait := none,
    waitOp := SlotOp.none, mwait := none, mwaitOp := SlotOp.none, pm := [], counted := 0, nextId := 0, cur := SlotOp.none, todo := [], raised := [], restart := none,
    next := 0, transfer := false, popped := [], dbNow := [], late := [], marking := none, runs := 0 }

/-- No crew entry. -/
def Crew.none : Crew := { live := 0, arr := 0, cpol := 0, made := false, waiters := [] }

/-- A cluster right after package reset. -/
def Cluster.reset : Cluster :=
  { clshare := 0, pool := [], crews := [], stageq := [], reserved := [], cards := [], nextCard := 0, ready := [] }

/-- A closed format window. -/
def FmtWin.none : FmtWin := { src := 0, scl := 0, view := 0, len := 0, ctl := 0 }
/-- An invalid prefix entry. -/
def PfxEntry.none : PfxEntry := { w0 := 0, w1 := 0 }
/-- A source the Mantis unit holds nothing about; its state counts as lost by the die's reset (R280). -/
def MantisSrc.none : MantisSrc := { h := 0, lost := true, replies := [] }
/-- A stream with nothing in it. -/
def Stream.none : Stream := { ready := [], owed := [] }
/-- A cleared completion barrier. -/
def Cb.none : Cb := { addr := 0, exp := 0 }
/-- An empty send queue. -/
def SendQ.none : SendQ := { descs := [], flight := [], iv := 0, seq := 0, busy := 0, sent := 0, shut := false, slotAt := 0 }

/-- A die right after package reset: SCHEDCFG.BASE is 31 (R312), every other register zero. -/
def Die.reset : Die :=
  { schedcfg := 31, kvcfg := 0, npages := 0, kvFree := 0, windows := [], prefixes := [], l2lock := 0, fmtwin := [],
    plans := [], colls := [], reshards := [], reshNums := [], announced := [], collNums := [], inbox := [], errcnt := [], secnt := [], counted := [], mantis := [], walk := [],
    owed := [], orphans := [], nextId := 0 }

/-- The package right after reset: nothing booted, no partition, every band ON (R394), PWRLIM at 2400 W
(R450). -/
def Package.reset : Package :=
  { booted := false, shutdown := false, launchq := [], grid := none, part := none, lastPart := none, anchor := none, nexp := 0, dlast := 0, msgs := [],
    discards := 0, session := none, port := .none, busy := none, freeze := none, later := [], firmware := [], qps := [], addr6 := 0, addr4 := 0, slots := [], slotcfg := 0, epoch := 0,
    pepoch := 0, switched := none, slot := none, bands := [], armed := 0, thr := 0, up := 0, avoid := [], keys := [], sendq := [],
    recvq := [], waiting := [], gotSeq := [], acks := [], accept := [], fabops := [], fab := [], occ := [], occAt := 0, engy := [], engyAt := 0, engyLog := [],
    pwrlim := 2400, withhold := 0, hot := false, flash := [], foreign := [], ctrw := [], moved := [], staged := [] }

/-- A full part (R12, R23 to R25; log entry 5). -/
def Fuses.full : Fuses :=
  { stepping := 1, clmask := [0x1FF, 0x1FF, 0x1FF, 0x1FF], stkmask := [3, 3, 3, 3], fibres := 0xFFFFFFFF,
    bands := 0xFF }

/-- The machine right after package reset. -/
def State.reset : State :=
  { cores := [], clusters := [], dies := [], pkg := Package.reset, mem := [], fuses := Fuses.full, cycle := 0,
    monitors := [], seen := [], me := 0, pass := 0, agenda := [], mail := [], oracle := [], free := 0 }

end Sys2Proof.Machine
end

