-- ==== Sys2Proof/Machine/Regs.lean ====
section
/-! DEFINITION. Reading and writing the parts of the state: whose turn it is, registers through their
rotating bases, special registers, and the queues behind q registers. -/

namespace Sys2Proof.Machine

/-- What exec and step answer. -/
abbrev Out := Host.Outcome State Fault Refusal

/-! ## Whose turn it is -/

/-- The core with number `e` = die × 144 + CORE. -/
def State.coreAt (s : State) (e : Nat) : Core := Store.get Core.reset s.cores e
/-- Core `e` becomes `c`. -/
def State.setCoreAt (s : State) (e : Nat) (c : Core) : State :=
  { s with cores := Store.set Core.reset s.cores e c }
/-- Core `e` changed by `f`. -/
def State.modCoreAt (s : State) (e : Nat) (f : Core → Core) : State := s.setCoreAt e (f (s.coreAt e))
/-- The core whose turn it is. -/
def State.core (s : State) : Core := s.coreAt s.me
/-- The core whose turn it is becomes `c`. -/
def State.setCore (s : State) (c : Core) : State := s.setCoreAt s.me c
/-- The core whose turn it is, changed by `f`. -/
def State.modCore (s : State) (f : Core → Core) : State := s.modCoreAt s.me f

/-- The die of core `e`. -/
def dieOf (e : Nat) : Nat := e / 144
/-- The CORE value of core `e` (R27). -/
def coreNo (e : Nat) : Nat := e % 144
/-- The cluster of core `e`, numbered die × 9 + cluster. -/
def clusterOf (e : Nat) : Nat := e / 144 * 9 + e % 144 / 16

/-- Cluster `k`. -/
def State.clusterAt (s : State) (k : Nat) : Cluster := Store.get Cluster.reset s.clusters k
/-- Cluster `k` changed by `f`. -/
def State.modCluster (s : State) (k : Nat) (f : Cluster → Cluster) : State :=
  { s with clusters := Store.set Cluster.reset s.clusters k (f (s.clusterAt k)) }
/-- Die `d`. -/
def State.dieAt (s : State) (d : Nat) : Die := Store.get Die.reset s.dies d
/-- Die `d` changed by `f`. -/
def State.modDie (s : State) (d : Nat) (f : Die → Die) : State :=
  { s with dies := Store.set Die.reset s.dies d (f (s.dieAt d)) }
/-- The package changed by `f`. -/
def State.modPkg (s : State) (f : Package → Package) : State := { s with pkg := f s.pkg }

/-- The package index (R20); 0 before a partition is formed. -/
def State.pkgIndex (s : State) : Nat :=
  match s.pkg.part with
  | some p => p.pkg.toNat
  | none => 0

/-- Where the memory of node `n` is kept: the dies of this package stand first, whatever its index (R16), so package 0
and this package change places. -/
def State.slotOf (s : State) (n : Nat) : Nat :=
  if n / 4 = s.pkgIndex then n % 4 else if n < 4 then s.pkgIndex * 4 + n else n

/-- The node id of die `d` (R20). -/
def State.nodeOf (s : State) (d : Nat) : Nat := s.pkgIndex * 4 + d
/-- The node id of the core whose turn it is. -/
def State.node (s : State) : Nat := s.nodeOf (dieOf s.me)
/-- Whether a node belongs to this package. -/
def State.ownNode (s : State) (n : Nat) : Bool := n / 4 == s.pkgIndex

/-- The enabled clusters of die `d` (R24). -/
def State.clmask (s : State) (d : Nat) : BitVec 9 := s.fuses.clmask.getD d 0
/-- Whether core `e` of this package is enabled (R24). -/
def State.enabled (s : State) (e : Nat) : Bool := e < 576 && (s.clmask (dieOf e)).getLsbD (coreNo e / 16)
/-- The other packages of the partition. -/
def State.others (s : State) : List Member :=
  match s.pkg.part with
  | some p => p.others
  | none => []

/-- Whether node `n` is a member of the partition (R21); a package in no partition is its own. -/
def State.member (s : State) (n : Nat) : Bool :=
  s.ownNode n || (n < 256 && s.others.any fun m => m.pkg.toNat == n / 4)

/-- Whether the CORE value `c` of node `n` names an enabled core (R24). -/
def State.enabledAt (s : State) (n c : Nat) : Bool :=
  if s.ownNode n then c < 144 && s.enabled (n % 4 * 144 + c)
  else s.others.any fun m => m.pkg.toNat == n / 4 && c < 144 && (m.clmask.getD (n % 4) 0).getLsbD (c / 16)

/-- One choice the manual leaves open: the next value of the oracle, 0 when it holds none (log entry 1). -/
def State.draw (s : State) : Nat × State := (s.oracle.headD 0, { s with oracle := s.oracle.tail })

/-- One free value (log entry 2). -/
def State.drawFree (s : State) : Word × State := (Config.freeWord s.free, { s with free := s.free + 1 })

/-! ## The rotating files (R58, R167) -/

/-- The physical vector register of index `n` under base `vrb`. -/
def vPhys (vrb : Nat) (n : Nat) : Nat := if n < 16 then n else 16 + (n - 16 + vrb) % 48
/-- The physical predicate register of index `n` under base `prb`. -/
def pPhys (prb : Nat) (n : Nat) : Nat := if n < 8 then n else 8 + (n - 8 + prb) % 8

/-- Sixty-four ones. -/
def ones : Word := BitVec.allOnes 64
/-- A word of all ones or of zeros (R153). -/
def boolWord (b : Bool) : Word := if b then ones else 0

/-- Special register `i` as held (R149). -/
def Core.special (c : Core) (i : Nat) : Word := Store.get 0 c.spr i
/-- Special register `i` set. -/
def Core.setSpecial (c : Core) (i : Nat) (x : Word) : Core := { c with spr := Store.set 0 c.spr i x }
/-- Scalar register `n`. -/
def Core.sreg (c : Core) (n : BitVec 5) : Word := Store.get 0 c.s n.toNat
/-- Physical vector register `k`. -/
def Core.vphys (c : Core) (k : Nat) : VReg := Store.get 0 c.v k
/-- Physical predicate register `k`; p0 is all ones (R58). -/
def Core.pphys (c : Core) (k : Nat) : Word := if k = 0 then ones else Store.get 0 c.p k
/-- Vector register v`n` through VRB. -/
def Core.vreg (c : Core) (n : VOp) : VReg := c.vphys (vPhys (c.special 8).toNat n.toNat)
/-- Predicate p`n` through PRB. -/
def Core.preg (c : Core) (n : POp) : Word := c.pphys (pPhys (c.special 9).toNat n.toNat)
/-- MODE.SUP (R151). -/
def Core.sup (c : Core) : Bool := (c.special 31).getLsbD 0
/-- Whether the core has a task that is not frozen. -/
def Core.running (c : Core) : Bool :=
  match c.run with
  | .running | .draining _ => true
  | .idle _ | .frozen _ => false
/-- Whether the core owns a task, frozen or not (R33). -/
def Core.owned (c : Core) : Bool :=
  match c.run with
  | .idle _ => false
  | .running | .draining _ | .frozen _ => true
/-- Whether the core's task is frozen. -/
def Core.frozen (c : Core) : Bool :=
  match c.run with
  | .frozen _ => true
  | .idle _ | .running | .draining _ => false

/-- Whether a pre-emption has been taken and has not been resumed (R144). -/
def Core.freezing (c : Core) : Bool :=
  match c.run with
  | .draining _ | .frozen _ => true
  | .idle _ | .running => false

/-- The 32-bit lane `j` of a vector image (R182). -/
def lane (x : VReg) (j : Nat) : Lane := x.extractLsb' (32 * j) 32
/-- A vector image of 64 lanes. -/
def ofLanes (f : Nat → Lane) : VReg :=
  (List.range 64).foldr (fun j (acc : VReg) => acc <<< 32 ||| (f j).setWidth 2048) 0
/-- The bits of a vector image that lie in lanes of a mask. -/
def laneMask (m : Word) : VReg := ofLanes fun j => if m.getLsbD j then BitVec.allOnes 32 else 0
/-- `old` with the lanes of mask `m` taken from `new`. -/
def mergeLanes (m : Word) (old new : VReg) : VReg :=
  if m = ones then new else (old &&& ~~~laneMask m) ||| (new &&& laneMask m)

/-! ## Partition-wide values -/

/-- MESH of the last partition formed since reset (R149, R364, R365). -/
def State.mesh (s : State) : Word :=
  match s.pkg.lastPart with
  | some p => p.2
  | none => 0

/-- NODEID of a core of die `d`: zero until a partition is formed, which alone changes it (R149, R151). -/
def State.nodeId (s : State) (d : Nat) : Nat :=
  match s.pkg.lastPart with
  | some p => p.1.toNat * 4 + d
  | none => 0

/-- The partition time base at the present cycle; it runs from the formation of a partition until the next one or package reset
(R427). -/
def State.timeBase (s : State) : Option Nat :=
  match s.pkg.anchor with
  | some (t0, c0) => some (t0 + (s.cycle - c0) * 20 / 21)
  | none => none

/-- The grid's start vector, zero when no grid runs. -/
def State.vector (s : State) : StartVector :=
  match s.pkg.grid with
  | some g => g.vec
  | none => { w0 := 0, w1 := 0, w2 := 0, w3 := 0, w4 := 0, w5 := 0, w6 := 0, w7 := 0 }

/-- CONTAIN of the launch (R39). -/
def State.contain (s : State) : Bool := s.vector.w6.getLsbD 7
/-- GPOL of the launch (R39). -/
def State.gpol (s : State) : BitVec 2 := s.vector.w6.extractLsb' 2 2
/-- The L5 table's physical address (R39, R255). -/
def State.troot (s : State) : Nat := 32768 * (s.vector.w5.extractLsb' 15 37).toNat

/-- The crew of a core's task (R36). -/
def Core.crewId (c : Core) : Nat := (c.special 2).toNat % 4096
/-- The crew-table entry of the task of core `e` (R316). -/
def State.crewOf (s : State) (e : Nat) : Crew :=
  Store.get Crew.none (s.clusterAt (clusterOf e)).crews (s.coreAt e).crewId
/-- Crew `k` of cluster `cl` changed by `f`. -/
def State.modCrew (s : State) (cl k : Nat) (f : Crew → Crew) : State :=
  s.modCluster cl fun c => { c with crews := Store.set Crew.none c.crews k (f (Store.get Crew.none c.crews k)) }

/-- The share that CLSHARE gives each member of cluster `k`, in bytes (R151). -/
def State.share (s : State) (k : Nat) : Nat := 65536 * ((s.clusterAt k).clshare.toNat % 4)

/-- DBSTAT in cycle `now`: the barriers before the completions of that cycle (R430). -/
def Core.dbstat (c : Core) (now : Nat) : Word :=
  (List.range 8).foldr (fun j (acc : Word) =>
    acc <<< 8 ||| BitVec.ofNat 64 ((Store.get 0 c.db j + (c.dbNow.filter (· == (j, now))).length) % 64)) 0

/-- STATUS (R151). -/
def State.status (s : State) (c : Core) : Word :=
  BitVec.ofNat 64 c.gate.length <<< 4 ||| (BitVec.ofBool c.gateClosed).setWidth 64 <<< 3
    ||| (BitVec.ofBool c.marked).setWidth 64 <<< 2 ||| (BitVec.ofBool s.contain).setWidth 64 <<< 1
    ||| (BitVec.ofBool c.sup).setWidth 64

/-- The value MRS reads from special register `i` of core `e` (R149, R165). -/
def State.readSpecial (s : State) (e : Nat) (i : Nat) : Word :=
  let c := s.coreAt e
  match i with
  | 0 => c.marking.getD (s.status c)
  | 3 => BitVec.ofNat 64 (s.nodeId (dieOf e))
  | 5 => BitVec.ofNat 64 (coreNo e)
  | 12 => BitVec.ofNat 64 s.cycle
  | 15 => s.mesh
  | 25 => (s.clusterAt (clusterOf e)).clshare
  | 28 => c.dbstat s.cycle
  | 30 => (s.gpol.setWidth 64 <<< 4) ||| ((s.crewOf e).cpol.setWidth 64 <<< 2) ||| (c.special 30 &&& 3)
  | i => if i < 32 then c.special i else 0

/-- Special register `i` of core `e` takes `x`, as an MSR or a LOOP lands it: RO registers and fields are
left alone, the crew policy and CLSHARE reach the crew and the cluster, a write of SEED restarts RCTR
(R49, R166, R228, R247). -/
def State.writeSpecial (s : State) (e : Nat) (i : Nat) (x : Word) : State :=
  match i with
  | 0 | 1 | 2 | 3 | 4 | 5 | 12 | 14 | 15 | 27 | 28 => s
  | 21 => s.modCoreAt e fun c => { c.setSpecial 21 x with scarab := { c.scarab with rctr := 0 } }
  | 25 => s.modCluster (clusterOf e) fun k => { k with clshare := x }
  | 30 =>
    (s.modCrew (clusterOf e) (s.coreAt e).crewId fun k => { k with cpol := x.extractLsb' 2 2 }).modCoreAt e
      fun c => c.setSpecial 30 (x &&& 3)
  | i => s.modCoreAt e fun c => c.setSpecial i x

/-- Whether an MSR of `x` to special register `i` names a reserved field or a value out of range (R109,
R134, R151, R166, R228, R343, R429). The reserved fields of registers whose other fields are HW are judged like those of an
RW register (DEDUCED from R7, log entry 85). -/
def specialRefuses (i : Nat) (x : Word) : Bool :=
  match i with
  | 6 | 22 | 23 => x.extractLsb' 32 32 != 0
  | 7 => x.extractLsb' 6 58 != 0
  | 8 => 48 ≤ x.toNat
  | 9 => 8 ≤ x.toNat
  | 10 => x.extractLsb' 4 60 != 0 || 5 ≤ (x.extractLsb' 0 3).toNat
  | 11 | 31 => x.extractLsb' 1 63 != 0
  | 13 => x.extractLsb' 16 48 != 0
  | 16 => x.extractLsb' 12 52 != 0
  | 19 => x.extractLsb' 0 3 != 0
  | 20 => x.extractLsb' 1 2 != 0
  | 24 => x.extractLsb' 24 40 != 0
  | 25 => x.extractLsb' 2 62 != 0
  | 26 => x.extractLsb' 0 12 != 0
  | 29 => x.extractLsb' 12 52 != 0 || x.extractLsb' 4 4 != 0
  | 30 => x.extractLsb' 6 58 != 0
  | _ => false

/-- The registers whose MSR is privileged (R149, R166). -/
def specialPriv (i : Nat) : Bool := i == 11 || i == 20 || i == 26 || i == 30 || i == 31

/-! ## q registers (R317 to R322) -/

/-- KIND of a queue-table entry (R317). -/
def qKind (d : Word) : Nat := (d.extractLsb' 60 4).toNat
/-- The stage queue that a stage binding reaches from stage `st` (R318). -/
def stageQueue (d : Word) (st : Nat) : Nat :=
  if qKind d = 2 then 4 * (st - 1) + (d.extractLsb' 0 2).toNat else 4 * st + (d.extractLsb' 0 2).toNat

/-- Whether a pop of q`n` is mapped (R318). -/
def Core.popOk (c : Core) (n : Nat) : Bool :=
  let k := qKind (Store.get 0 c.qtab n)
  k == 1 || k == 2 || k == 4
/-- Whether a push to q`n` is mapped (R318). -/
def Core.pushOk (c : Core) (n : Nat) : Bool := qKind (Store.get 0 c.qtab n) == 3
/-- The stage queue that q`n` of core `c` reaches now. -/
def Core.stageOf (c : Core) (n : Nat) : Nat := stageQueue (Store.get 0 c.qtab n) (c.special 4).toNat

/-- The entries of q`n` of core `e` that an issue of this cycle may pop (R319). -/
def State.qEntries (s : State) (e : Nat) (n : Nat) : List QEntry :=
  let c := s.coreAt e
  let d := Store.get 0 c.qtab n
  let all := match qKind d with
    | 1 => (Store.get Stream.none c.streams n).ready
    | 2 => Store.get [] (s.clusterAt (clusterOf e)).stageq (c.stageOf n)
    | 4 => Store.get [] s.pkg.recvq (dieOf e * 64 + (d.extractLsb' 0 6).toNat)
    | _ => []
  all.filter fun x => x.at_ < s.cycle

/-- One pop of q`n` by core `e`: the oldest entry leaves its queue. -/
def State.popQ (s : State) (e : Nat) (n : Nat) : Word × State :=
  let c := s.coreAt e
  let d := Store.get 0 c.qtab n
  let x := match s.qEntries e n with
    | y :: _ => y.val
    | [] => 0
  let s' := match qKind d with
    | 1 => s.setCoreAt e { c with
        streams := Store.set Stream.none c.streams n
          { Store.get Stream.none c.streams n with ready := (Store.get Stream.none c.streams n).ready.tail } }
    | 2 => s.modCluster (clusterOf e) fun k => { k with
        stageq := Store.set [] k.stageq (c.stageOf n) (Store.get [] k.stageq (c.stageOf n)).tail }
    | 4 =>
      let q := dieOf e * 64 + (d.extractLsb' 0 6).toNat
      s.modPkg fun p => { p with recvq := Store.set [] p.recvq q (Store.get [] p.recvq q).tail }
    | _ => s
  (x, s')

/-- Room in the stage queue that a push of q`n` reaches: 64 entries less those held and reserved (R319). -/
def State.qRoom (s : State) (e : Nat) (n : Nat) : Nat :=
  let k := s.clusterAt (clusterOf e)
  let q := (s.coreAt e).stageOf n
  64 - (Store.get [] k.stageq q).length - Store.get 0 k.reserved q

/-- Room reserved in stage queue `q` of core `e`'s cluster (R319). -/
def State.reserveQ (s : State) (e : Nat) (q : Nat) : State :=
  s.modCluster (clusterOf e) fun k => { k with reserved := Store.set 0 k.reserved q (Store.get 0 k.reserved q + 1) }

/-- Room reserved in stage queue `q` of core `e`'s cluster is given back. -/
def State.unreserveQ (s : State) (e : Nat) (q : Nat) : State :=
  s.modCluster (clusterOf e) fun k => { k with reserved := Store.set 0 k.reserved q (Store.get 0 k.reserved q - 1) }

/-- An entry put into a queue: behind every entry of earlier cycles, and among those of its own cycle by core, then by
slot (R320). -/
def enterQ (x : QEntry) : List QEntry → List QEntry
  | [] => [x]
  | y :: ys => if y.at_ = x.at_ && x.src < y.src then x :: y :: ys else y :: enterQ x ys

/-- A reserved push of slot `k` lands in stage queue `q` (R319, R320). -/
def State.pushQ (s : State) (e k : Nat) (q : Nat) (x : Word) : State :=
  (s.unreserveQ e q).modCluster (clusterOf e) fun c => { c with
    stageq := Store.set [] c.stageq q (enterQ { val := x, at_ := s.cycle, src := 8 * e + k } (Store.get [] c.stageq q)) }

/-! ## Barriers (R73, R74) -/

/-- One more operation counted by a barrier. -/
def Core.barUp (c : Core) (b : Option (BitVec 3)) : Core :=
  match b with
  | some j => { c with db := Store.set 0 c.db j.toNat (Store.get 0 c.db j.toNat + 1) }
  | none => c
/-- One operation of a barrier completed in cycle `now`. -/
def Core.barDown (c : Core) (now : Nat) (b : Option (BitVec 3)) : Core :=
  match b with
  | some j => { c with
      db := Store.set 0 c.db j.toNat (Store.get 0 c.db j.toNat - 1),
      dbNow := (j.toNat, now) :: c.dbNow.filter (·.2 == now) }
  | none => c

/-! ## Landing (R71, R167) -/

/-- One register write of slot `slot` takes effect on core `e`. -/
def State.write (s : State) (e slot : Nat) (w : Wr) : State :=
  match w.kind with
  | .scalar => s.modCoreAt e fun c => { c with s := Store.set 0 c.s w.idx (w.val.setWidth 64) }
  | .vector => s.modCoreAt e fun c => { c with v := Store.set 0 c.v w.idx (mergeLanes w.mask (c.vphys w.idx) w.val) }
  | .pred =>
    if w.idx = 0 then s
    else s.modCoreAt e fun c => { c with
      p := Store.set 0 c.p w.idx ((c.pphys w.idx &&& ~~~w.mask) ||| (w.val.setWidth 64 &&& w.mask)) }
  | .special => s.writeSpecial e w.idx (w.val.setWidth 64)
  | .push => s.pushQ e slot w.room (w.val.setWidth 64)
  | .bind => s.modCoreAt e fun c => { c with
      qtab := Store.set 0 c.qtab w.idx (w.val.setWidth 64),
      streams := if qKind (Store.get 0 c.qtab w.idx) = 1 then
          Store.set Stream.none c.streams w.idx Stream.none else c.streams }
  | .p8 => s.modCoreAt e fun c =>
      let c' := (List.range 8).foldl (fun (c : Core) k => { c with p := Store.set 0 c.p (8 + k) 0 }) c
      { c' with p := Store.set 0 c'.p (pPhys (c.special 9).toNat 8) ones }

/-- A scalar written whole. -/
def Wr.scalar (n : BitVec 5) (x : Word) : Wr :=
  { kind := .scalar, idx := n.toNat, mask := ones, val := x.setWidth 2048, room := 0 }
/-- A special register written. -/
def Wr.special (i : Nat) (x : Word) : Wr :=
  { kind := .special, idx := i, mask := ones, val := x.setWidth 2048, room := 0 }

end Sys2Proof.Machine
end

