-- ==== Sys2Proof/Machine/Memory.lean ====
section
/-! DEFINITION. Memory: one sparse list of bytes for every space, what reads of it return, the phase cache
and store gate of a core, stamp monitors, and translation. -/

namespace Sys2Proof.Machine

/-! ## Bytes. One number for every byte of the package and its partition (log entry 4) -/

/-- The byte at physical address `pa` of the memory kept in place `n` (R16, State.slotOf). -/
def nodeKey (n pa : Nat) : Nat := 2 ^ 52 * n + pa
/-- The byte at physical address `pa` of node `n` (R16). -/
def State.nk (s : State) (n pa : Nat) : Nat := nodeKey (s.slotOf n) pa
/-- Byte `o` of core `e`'s scratchpad (R245). -/
def spadKey (e o : Nat) : Nat := 2 ^ 60 + 2 ^ 20 * e + o
/-- Byte `o` of core `e`'s lane slices as the flat space of R244. -/
def sliceKey (e o : Nat) : Nat := 2 ^ 61 + 2 ^ 20 * e + o
/-- Byte `o` of die `d`'s chip scratchpad (R248). -/
def chipKey (d o : Nat) : Nat := 2 ^ 62 + 2 ^ 25 * d + o
/-- Whether a key lies in some node's physical map. -/
def isGlobal (k : Nat) : Bool := k < 2 ^ 60
/-- The first byte of the capability frame in a node's map (R16). -/
def capFrame : Nat := 0xFFFFFFFFFF000

/-- The canonical form of memory: addresses strictly rising, no entry equal to what an unlisted address
reads as. -/
def Memory.wf (m : List Host.Cell) : Bool := Store.wf (0 : Byte) m
/-- The byte that memory holds at a key. -/
def Memory.get (m : List Host.Cell) (k : Nat) : Byte := Store.get 0 m k
/-- Memory with one byte written. -/
def Memory.set (m : List Host.Cell) (k : Nat) (b : Byte) : List Host.Cell := Store.set 0 m k b

/-- The `n` low bytes of a number, least significant first (R1). -/
def bytesOf : Nat → Nat → List Byte
  | 0, _ => []
  | n + 1, x => BitVec.ofNat 8 x :: bytesOf n (x / 256)
/-- The number that bytes stand for, least significant first (R1). -/
def natOf : List Byte → Nat
  | [] => 0
  | b :: bs => b.toNat + 256 * natOf bs

/-- The number of bits set. -/
def popcount {w : Nat} (x : BitVec w) : Nat := ((List.range w).filter (x.getLsbD ·)).length

/-! ## What a byte reads as -/

/-- Word `i` of the capability frame (R22 to R25). -/
def State.capWord (s : State) (i : Nat) : Word :=
  match i with
  | 0 => (0x4820#16 : BitVec 16) ++ s.fuses.stepping ++ (0x04#8 : BitVec 8) ++ (0#32 : BitVec 32)
  | 1 | 2 | 3 | 4 =>
    (0#30 : BitVec 30) ++ s.fuses.stkmask.getD (i - 1) 0 ++ (0#7 : BitVec 7) ++ s.clmask (i - 1)
      ++ BitVec.ofNat 8 (popcount (s.clmask (i - 1))) ++ (0x10#8 : BitVec 8)
  | 5 => (0#24 : BitVec 24) ++ s.fuses.bands ++ s.fuses.fibres
  | _ => 0

/-- Word `i` of the capability frame of another package's node: what its member entry or log entry 7 gives, and free
values for the fuses that no rule tells this package (log entry 76). -/
def State.peerCapWord (s : State) (n i : Nat) : Word :=
  match i with
  | 0 => (0x4820#16 : BitVec 16) ++ (Config.peerFuses (n / 4) 0).extractLsb' 0 8 ++ (0x04#8 : BitVec 8) ++ (0#32 : BitVec 32)
  | 1 | 2 | 3 | 4 =>
    let m : BitVec 9 := (((s.others.find? fun x => x.pkg.toNat == n / 4).map (·.clmask)).getD []).getD (i - 1) 0
    (0#30 : BitVec 30) ++ (3#2 : BitVec 2) ++ (0#7 : BitVec 7) ++ m ++ BitVec.ofNat 8 (popcount m) ++ (0x10#8 : BitVec 8)
  | 5 => (0#24 : BitVec 24) ++ (Config.peerFuses (n / 4) 5).extractLsb' 0 40
  | _ => 0

/-- Byte `k` of a word. -/
def byteOf (w : Word) (k : Nat) : Byte := w.extractLsb' (8 * k) 8

/-- The pool nodes of a cluster that hold a record, with their numbers. -/
def Cluster.nodes (c : Cluster) : List (Nat × PoolNode) :=
  c.pool.filterMap fun x => x.2.map fun n => (x.1, n)

/-- The node that follows node `i` in its priority list, oldest first (R313). -/
def Cluster.nextNode (c : Cluster) (i : Nat) (n : PoolNode) : Nat :=
  let later := c.nodes.filter fun x =>
    !x.2.waiting && !n.waiting && x.2.list == n.list && (n.enq < x.2.enq || (n.enq == x.2.enq && i < x.1))
  later.foldl (fun best x =>
    match c.nodes.find? (·.1 == best) with
    | some b => if x.2.enq < b.2.enq || (x.2.enq == b.2.enq && x.1 < best) then x.1 else best
    | none => x.1) 0x1000

/-- Word `w` of pool node `i` (R313). -/
def Cluster.poolWord (c : Cluster) (i w : Nat) : Word :=
  match Store.get none c.pool i with
  | none => 0
  | some n =>
    if w = 0 then BitVec.ofNat 64 (n.rec_ / 64 * 64 + (if n.waiting then 32 else 0) + n.list % 8)
    else BitVec.ofNat 64 (2 ^ 51 * c.nextNode i n + n.enq % 2 ^ 51)

/-- The cards of a cluster's queue: those that no engine has started (R311, R335). -/
def Cluster.waitingCards (c : Cluster) : List Card := c.cards.filter (·.engine.isNone)

/-- Whether offset `o` of die `d`'s chip scratchpad lies in the scheduler region (R312). -/
def State.inSched (s : State) (d o : Nat) : Bool := o / 2 ^ 20 == (s.dieAt d).schedcfg.toNat % 32

/-- The byte that the scheduler region shows at offset `r` of its MiB (R312, R313, R334). -/
def State.schedByte (s : State) (d r : Nat) : Byte :=
  if r < 9 * 65536 then
    byteOf ((s.clusterAt (d * 9 + r / 65536)).poolWord (r % 65536 / 16) (r % 16 / 8)) (r % 8)
  else if r < 9 * 65536 + 9 * 4096 then
    let q := r % (9 * 65536)
    match (s.clusterAt (d * 9 + q / 4096)).waitingCards[q % 4096 / 64]? with
    | some card => byteOf (card.words.getD (q % 64 / 8) 0) (r % 8)
    | none => 0
  else 0

/-- The byte at a key as its home holds it: memory, the capability frame (R22) or the scheduler region. -/
def State.byteAt (s : State) (k : Nat) : Byte :=
  if k < 2 ^ 60 then
    if capFrame ≤ k % 2 ^ 52 then
      byteOf (if k < 2 ^ 54 then s.capWord (k % 4096 / 8) else s.peerCapWord (s.slotOf (k / 2 ^ 52)) (k % 4096 / 8)) (k % 8)
    else Memory.get s.mem k
  else if k / 2 ^ 62 = 1 && s.inSched (k % 2 ^ 62 / 2 ^ 25) (k % 2 ^ 25) then
    s.schedByte (k % 2 ^ 62 / 2 ^ 25) (k % 2 ^ 20)
  else Memory.get s.mem k

/-- Whether a write to a key is dropped: the capability frame (R22), the scheduler region (R312). -/
def State.ignoresWrite (s : State) (k : Nat) : Bool :=
  (k < 2 ^ 60 && capFrame ≤ k % 2 ^ 52)
    || (k / 2 ^ 62 = 1 && s.inSched (k % 2 ^ 62 / 2 ^ 25) (k % 2 ^ 25))

/-- The `n` bytes at a key as a number (R1). -/
def State.natAt (s : State) (k n : Nat) : Nat := natOf ((List.range n).map fun j => s.byteAt (k + j))
/-- The 8-byte word at a key. -/
def State.wordAt (s : State) (k : Nat) : Word := BitVec.ofNat 64 (s.natAt k 8)

/-! ## Performed writes and stamp monitors (R291, R342) -/

/-- One byte performed at its home. -/
def State.pokeByte (s : State) (k : Nat) (b : Byte) : State :=
  if s.ignoresWrite k then s else { s with mem := Memory.set s.mem k b }

/-- Bytes performed at their home from a key upwards. -/
def State.pokeBytes (s : State) (k : Nat) : List Byte → State
  | [] => s
  | b :: bs => (s.pokeByte k b).pokeBytes (k + 1) bs

/-- The armed monitors that a write of `n` bytes at `k` reaches evaluate the word `rd` gives and record it
(R342, R343). `by_` is the core that wrote, and an ordinary store of the monitor's own core is class 4. -/
def State.observe (s : State) (by_ : Option Nat) (cls k n : Nat) (rd : Nat → Word) : State :=
  { s with seen := s.seen ++ (s.monitors.filter fun m => m.key < k + n && k < m.key + 8).map fun m =>
      { core := m.core, mon := m.mon, cls := if cls == 1 && by_ == some m.core then 4 else cls,
        val := rd m.key, hit := m.exp.toNat ≤ (rd m.key).toNat } }

/-- Bytes performed at their home, and seen by the monitors there. Class 1 is an ordinary store, 2 an
atomic or post, 3 an engine stamp (R343). -/
def State.perform (s : State) (by_ : Option Nat) (cls k : Nat) (bs : List Byte) : State :=
  let t := s.pokeBytes k bs
  t.observe by_ cls k bs.length t.wordAt

/-- Bytes of one aligned word performed together by a core's write-back: the core's own monitors saw them at their
issue (R290, R342). -/
def State.performBack (s : State) (e k : Nat) (bs : List (Nat × Byte)) : State :=
  if bs.isEmpty then s
  else
    let t := bs.foldl (fun t x => t.pokeByte x.1 x.2) s
    { t with seen := t.seen ++ ((t.observe (some e) 1 k 8 t.wordAt).seen.drop t.seen.length).filter (·.cls != 4) }

/-! ## A core's view: gate, then phase cache, then home (R138, R266, R295) -/

/-- The byte that a gate entry writes at a key, the highest lane first. -/
def GateEntry.byte (g : GateEntry) (k : Nat) : Option Byte :=
  match g.lanes.reverse.find? fun l => l.key ≤ k && k < l.key + g.bytes with
  | some l => some (byteOf l.val (k - l.key))
  | none => none

/-- The byte of the youngest gated write to a key (R138). -/
def gateByte (gs : List GateEntry) (k : Nat) : Option Byte := gs.reverse.findSome? (·.byte k)

/-- A core's phase-cache line of a key. -/
def Core.line (c : Core) (k : Nat) : CLine := Store.get CLine.none c.cache (k / 128)
/-- Whether the phase cache holds a byte, and which. -/
def Core.cached (c : Core) (k : Nat) : Option Byte :=
  if isGlobal k && (c.line k).have_.getLsbD (k % 128) then some ((c.line k).data.extractLsb' (8 * (k % 128)) 8)
  else none

/-- The byte that a read of core `e` returns; a store to read-only bytes is ignored from its issue on (R22, R312). -/
def State.view (s : State) (e k : Nat) : Byte :=
  if s.ignoresWrite k then s.byteAt k
  else
  match gateByte (s.coreAt e).gate k with
  | some b => b
  | none =>
    match (s.coreAt e).cached k with
    | some b => b
    | none => s.byteAt k

/-- The word at a key that a read of core `e` returns. -/
def State.viewWord (s : State) (e k : Nat) : Word :=
  BitVec.ofNat 64 (natOf ((List.range 8).map fun j => s.view e (k + j)))

/-- A line with one byte put in. -/
def CLine.put (l : CLine) (i : Nat) (b : Byte) (dirty : Bool) : CLine :=
  { data := (l.data &&& ~~~((255 : BitVec 1024) <<< (8 * i))) ||| b.setWidth 1024 <<< (8 * i),
    have_ := l.have_ ||| (1 : BitVec 128) <<< i,
    dirty := if dirty then l.dirty ||| (1 : BitVec 128) <<< i else l.dirty,
    glue := l.glue,
    cur := true }

/-- The `n` bytes from byte `i` of a line are one store's (R290). -/
def CLine.join (l : CLine) (i n : Nat) : CLine := { l with glue := l.glue ||| BitVec.ofNat 128 (2 ^ n - 2) <<< i }

/-- Some bytes of a line with all the bytes that stores wrote together with them. -/
def CLine.whole (l : CLine) (m : BitVec 128) : BitVec 128 :=
  (List.range 7).foldl (fun m _ => m ||| (m <<< 1 &&& l.glue) ||| ((m &&& l.glue) >>> 1)) m

/-- Some dirty bytes of a line are performed: they stay, clean, and no longer belong to an unperformed store. -/
def CLine.clean (l : CLine) (m : BitVec 128) : CLine :=
  { l with dirty := l.dirty &&& ~~~m, glue := l.glue &&& (l.dirty &&& ~~~m) &&& (l.dirty &&& ~~~m) <<< 1 }

/-- One byte put into core `e`'s phase cache. -/
def State.cachePut (s : State) (e k : Nat) (b : Byte) (dirty : Bool) : State :=
  s.modCoreAt e fun c => { c with
    cache := Store.set CLine.none c.cache (k / 128) ((c.line k).put (k % 128) b dirty) }

/-- The bytes of an aligned word that the phase cache does not hold come from the home together (R290, R295). -/
def State.fetchCache (s : State) (e w : Nat) : State :=
  (List.range 8).foldl (fun t j =>
    if ((t.coreAt e).cached (8 * w + j)).isNone then t.cachePut e (8 * w + j) (t.byteAt (8 * w + j)) false else t) s

/-- A read of a global byte keeps its word for the phase (R295). -/
def State.touch (s : State) (e : Nat) : List Nat → State
  | [] => s
  | k :: ks =>
    (if !isGlobal k then s
     else if ((s.coreAt e).cached k).isNone then s.fetchCache e (k / 8)
     else if ((s.coreAt e).line k).cur then s
     else s.modCoreAt e fun c => { c with cache := Store.set CLine.none c.cache (k / 128) { c.line k with cur := true } }).touch e ks

/-- The `n` bytes at a key that core `e` reads, and the state after the read. -/
def State.coreRead (s : State) (e k n : Nat) : Word × State :=
  (BitVec.ofNat 64 (natOf ((List.range n).map fun j => s.view e (k + j))), s.touch e ((List.range n).map (k + ·)))

/-- The dirty bytes of a mask of line `ln` of core `e` are written back, word by word, and stay, clean (R291). -/
def State.writeBack (s : State) (e ln : Nat) (m : BitVec 128) : State :=
  let l := Store.get CLine.none (s.coreAt e).cache ln
  let t := (List.range 16).foldl (fun t w => t.performBack e (ln * 128 + 8 * w)
    ((List.range 8).filterMap fun j =>
      if (l.dirty &&& m).getLsbD (8 * w + j) then some (ln * 128 + 8 * w + j, l.data.extractLsb' (8 * (8 * w + j)) 8)
      else none)) s
  t.modCoreAt e fun c => { c with
    cache := Store.set CLine.none c.cache ln (l.clean m),
    backing := Store.set 0 c.backing ln (Store.get 0 c.backing ln &&& ~~~m) }

/-- A write-back under way of bytes that a newer store is about to replace is made first (R303; log entry 77). -/
def State.backFirst (s : State) (e k n : Nat) : State :=
  let b := Store.get 0 (s.coreAt e).backing (k / 128)
  if b &&& (BitVec.ofNat 128 (2 ^ n - 1)) <<< (k % 128) = 0 then s else s.writeBack e (k / 128) b

/-- An ordinary ungated store of core `e`: dirty in the phase cache for a global byte, else performed
(R291). The core's own monitors see it at once (R342). -/
def State.coreStore (s : State) (e k : Nat) (bs : List Byte) : State :=
  if isGlobal k then
    if s.ignoresWrite k then s
    else
      let t := (List.range bs.length).foldl (fun t j => t.cachePut e (k + j) (bs.getD j 0) true) (s.backFirst e k bs.length)
      let t := t.modCoreAt e fun c => { c with
        cache := Store.set CLine.none c.cache (k / 128) ((c.line k).join (k % 128) bs.length) }
      let own := (t.observe (some e) 1 k bs.length (t.viewWord e)).seen.drop t.seen.length
      { t with seen := t.seen ++ own.filter (·.core == e) }
  else s.perform (some e) 1 k bs

/-- The entries of a gate performed in order, each lane in ascending order (R139, R273). -/
def State.performGate (s : State) (e : Nat) : List GateEntry → State
  | [] => s
  | g :: gs =>
    (g.lanes.foldl (fun t l => t.coreStore e l.key (bytesOf g.bytes l.val.toNat)) s).performGate e gs

/-- Commit: the gate's entries are performed and the gate is empty; whether it is closed stays (R139). -/
def State.commitGate (s : State) (e : Nat) : State :=
  (s.performGate e (s.coreAt e).gate).modCoreAt e fun c => { c with gate := [] }

/-! ## Boundaries (R292, R302, R303) -/

/-- Whether a release of core `e` at a scope waits for dirty bytes kept in place `n`, the own dies standing first
(R303). -/
def scopeWaits (e : Nat) (sc : Scope) (n : Nat) : Bool :=
  match sc with
  | .core => false
  | .crew | .die => n == dieOf e
  | .pkg => n < 4
  | .part => true

/-- The write-backs a release of core `e` at a scope waits for, made at once; of crew scope or wider it starts
the others, which follow by themselves (R303). -/
def State.releaseLines (s : State) (e : Nat) (sc : Scope) : State :=
  ((s.coreAt e).cache.map (·.1)).foldl
    (fun t ln =>
      if scopeWaits e sc (ln * 128 / 2 ^ 52) then t.writeBack e ln (BitVec.allOnes 128)
      else if sc == .core then t
      else t.modCoreAt e fun c => { c with
        backing := Store.set 0 c.backing ln (Store.get CLine.none c.cache ln).dirty }) s

/-- A release of core `e`: the gate is committed and the scope's dirty bytes are performed (R302, R303). -/
def State.release (s : State) (e : Nat) (sc : Scope) : State := (s.commitGate e).releaseLines e sc

/-- Whether a release at a scope still waits for an acknowledgement (R303). -/
def Core.unacked (c : Core) (sc : Scope) : Bool := sc == .part && c.pend.any fun p => p.peer && !p.acked

/-- An acquire of core `e`: clean bytes of its phase cache go (R302). -/
def State.acquire (s : State) (e : Nat) : State :=
  s.modCoreAt e fun c => { c with
    cache := c.cache.filterMap fun x => if x.2.dirty = 0 then none else some (x.1, { x.2 with have_ := x.2.dirty, cur := false }) }

/-- The bytes of a line that some keys name. -/
def keyMask (ks : List Nat) (ln : Nat) : BitVec 128 :=
  ks.foldl (fun m k => if k / 128 = ln then m ||| (1 : BitVec 128) <<< (k % 128) else m) 0

/-- The stores that wrote dirty bytes among some keys are performed, each whole, and no others (R290, R296, R298). -/
def State.performKeys (s : State) (e : Nat) : List Nat → State
  | [] => s
  | k :: ks =>
    (if isGlobal k && ((s.coreAt e).line k).dirty.getLsbD (k % 128) then
      s.writeBack e (k / 128) (((s.coreAt e).line k).whole (keyMask (k :: ks) (k / 128)))
     else s).performKeys e ks

/-- The clean bytes among some keys leave core `e`'s phase cache. -/
def State.dropKeys (s : State) (e : Nat) : List Nat → State
  | [] => s
  | k :: ks =>
    (if ((s.coreAt e).cached k).isSome && !((s.coreAt e).line k).dirty.getLsbD (k % 128) then
      s.modCoreAt e fun c => { c with
        cache := Store.set CLine.none c.cache (k / 128)
          { c.line k with have_ := (c.line k).have_ &&& ~~~((1 : BitVec 128) <<< (k % 128)),
                          data := (c.line k).data &&& ~~~((255 : BitVec 1024) <<< (8 * (k % 128))) } }
     else s).dropKeys e ks

/-- Bytes that something else is about to write at the home: the core's own dirty ones are performed and all leave its
phase cache (R296, R298). -/
def State.flushKeys (s : State) (e : Nat) (ks : List Nat) : State := (s.performKeys e ks).dropKeys e ks

/-- The 128 bytes of the line of a key. -/
def lineKeys (k : Nat) : List Nat := (List.range 128).map (k / 128 * 128 + ·)

/-- The bytes of a gate entry. -/
def GateEntry.keys (g : GateEntry) : List Nat := g.lanes.flatMap fun l => (List.range g.bytes).map (l.key + ·)

/-- Gate entries, youngest first, parted into those that reach some keys, with the older ones that these overlap, and
the rest; both oldest first. -/
def splitGate (ks : List Nat) : List GateEntry → List GateEntry × List GateEntry
  | [] => ([], [])
  | g :: gs =>
    if ks.any fun k => (g.byte k).isSome then ((splitGate (ks ++ g.keys) gs).1 ++ [g], (splitGate (ks ++ g.keys) gs).2)
    else ((splitGate ks gs).1, (splitGate ks gs).2 ++ [g])

/-- The gated writes of core `e` that reach some of the keys are performed and leave the gate, in entry order with the
older writes to their bytes (R290, R298). -/
def State.flushGate (s : State) (e : Nat) (ks : List Nat) : State :=
  let x := splitGate ks (s.coreAt e).gate.reverse
  if x.1.isEmpty then s else (s.performGate e x.1).modCoreAt e fun c => { c with gate := x.2 }

/-- Bytes that an engine job of core `e` reads: the core's own earlier writes to them are performed first
(R298). -/
def State.engineRead (s : State) (e : Nat) (ks : List Nat) : List Byte × State :=
  let t := (s.flushGate e ks).performKeys e ks
  (ks.map t.byteAt, t)

/-- Bytes that an engine job of core `e` writes: the core's older writes to them come first, and its phase
cache drops what it held of them (R298). -/
def State.engineWrite (s : State) (e k : Nat) (bs : List Byte) (cls : Nat) : State :=
  let ks := (List.range bs.length).map (k + ·)
  ((s.flushGate e ks).flushKeys e ks).perform none cls k bs

/-! ## Translation (R251 to R257) -/

/-- The kinds of access (R255). -/
inductive AccKind where
  | read | write | rw | exec
  deriving DecidableEq, Repr

/-- What an access meets: a place, a fault, or a migratable page that is not present. -/
inductive Reach where
  | at_ (l : Loc)
  | fail (c : FCode)
  | absent
  deriving DecidableEq, Repr

/-- One level of the tables (R251): shift and width of the index, bytes of the table below it, page size of a
leaf. -/
structure Level where
  shift : Nat
  bits  : Nat
  below : Nat
  page  : Option Nat

/-- The six levels, L5 first (R251). -/
def levels : List Level :=
  [ { shift := 48, bits := 12, below := 4096, page := none },
    { shift := 39, bits := 9, below := 4096, page := none },
    { shift := 30, bits := 9, below := 4096, page := some (2 ^ 30) },
    { shift := 21, bits := 9, below := 256, page := some (2 ^ 21) },
    { shift := 16, bits := 5, below := 128, page := some (2 ^ 16) },
    { shift := 12, bits := 4, below := 0, page := some 4096 } ]

/-- What a walk finds: a leaf with its page size, or the fault, or an absent migratable page; and the table
entries it read on the way. -/
inductive Walk where
  | leaf (e : Word) (size : Nat)
  | fail (c : FCode)
  | absent
  deriving DecidableEq, Repr

/-- The enabled HBM stacks of node `n` (R24); a node of another package counts as full (log entry 7). -/
def State.stacks (s : State) (n : Nat) : Nat :=
  if s.ownNode n then popcount (s.fuses.stkmask.getD (n % 4) 0) else 2
/-- The bytes of node `n`'s HBM range (R16). -/
def State.hbm (s : State) (n : Nat) : Nat := 48 * 2 ^ 30 * s.stacks n
/-- Whether `n` bytes at `pa` lie in the HBM range. -/
def State.inHbm (s : State) (node pa n : Nat) : Bool := pa + n ≤ s.hbm node
/-- Whether `n` bytes at `pa` lie in the T2 share (R16). -/
def inT2 (pa n : Nat) : Bool := 0x1000000000000 ≤ pa && pa + n ≤ 0x1004000000000
/-- Whether `n` bytes lie in a populated range of a node (R16). -/
def State.populated (s : State) (node pa n : Nat) : Bool := s.inHbm node pa n || inT2 pa n

/-- The walk of R255 from a table of a level downwards; `rd` reads an entry and says whether its address is
populated. -/
def walkFrom (rd : Nat → Option Word) (va : Nat) : List Level → Nat → Walk
  | [], _ => .fail .reservedField
  | l :: ls, tbl =>
    match rd (tbl + 8 * (va / 2 ^ l.shift % 2 ^ l.bits)) with
    | none => .fail .pageNotPresent
    | some e =>
      if !e.getLsbD 0 then (if e.getLsbD 2 then .absent else .fail .pageNotPresent)
      else if e.getLsbD 1 then
        match l.page with
        | none => .fail .reservedField
        | some size =>
          if e.extractLsb' 62 2 != 0 || e.extractLsb' 52 3 != 0 || e.extractLsb' 7 5 != 0 || e.getLsbD 3
              || ((e.extractLsb' 58 2).toNat < 2 && e.extractLsb' 60 2 != 0)
              || 4096 * ((e.extractLsb' 0 52).toNat / 4096) % size != 0 then .fail .reservedField
          else .leaf e size
      else if l.below = 0 || e.extractLsb' 52 12 != 0 || e.extractLsb' 2 5 != 0
          || (e.extractLsb' 0 52).toNat / 128 * 128 % l.below != 0 then .fail .reservedField
      else walkFrom rd va ls ((e.extractLsb' 0 52).toNat / 128 * 128)

/-- A byte of a table as the walker reads it: at its home, but for the walking core's own stores (R258; log entry
78). -/
def State.tableByte (s : State) (e : Option Nat) (k : Nat) : Byte :=
  match e with
  | some c => if ((s.coreAt c).line k).dirty.getLsbD (k % 128) then ((s.coreAt c).cached k).getD 0 else s.byteAt k
  | none => s.byteAt k

/-- An entry that the walk cache of node `n`'s die holds and core `e`, if any, may use (R258). -/
def State.cachedEntry (s : State) (e : Option Nat) (n pa : Nat) : Option Word :=
  ((if s.ownNode n then (s.dieAt (n % 4)).walk else []).find? fun x =>
    x.1 == s.nk n pa && s.cycle ≤ x.2.till && e.all fun c => !x.2.shut.contains c).map (·.2.word)

/-- The table entry at `pa` of node `n` as a walker for core `e` reads it: an entry of the die's walk cache, or the entry
at its home, with the core's own dirty bytes over it (R258; log entry 78). -/
def State.readEntry (s : State) (e : Option Nat) (n pa : Nat) : Option Word :=
  if !s.populated n pa 8 then none
  else
    match s.cachedEntry e n pa with
    | some x => some x
    | none => some (BitVec.ofNat 64 (natOf ((List.range 8).map fun j => s.tableByte e (s.nk n pa + j))))

/-- The walk of a virtual offset in node `n`'s tables (R251, R255). -/
def State.walkNode (s : State) (e : Option Nat) (n va : Nat) : Walk := walkFrom (s.readEntry e n) va levels s.troot

/-- The checks of R254 and R255 on a leaf, and where it leads. For a leaf of a node of another package, the L2-locked region
that judges class 1 is that of this package's die of the same number, since no rule tells this package the other's L2LOCK
(DESIGN CHOICE, log entry 89). -/
def State.leafReach (s : State) (n : Nat) (tag va : Nat) (kind : AccKind) (e : Word) (size : Nat) : Reach :=
  let home := (e.extractLsb' 58 2).toNat
  let pdie := (e.extractLsb' 60 2).toNat
  let cls := (e.extractLsb' 56 2).toNat
  let frame := 4096 * ((e.extractLsb' 0 52).toNat / 4096)
  let hn := if home = 2 then n / 4 * 4 + pdie else n
  let cap := home == 0 && size == 4096 && frame == capFrame
  let hbm := s.inHbm hn frame size
  let lock := (s.dieAt (n % 4)).l2lock
  let lbase := 2 ^ 21 * (lock.extractLsb' 21 31).toNat
  let locked := lbase ≤ frame && frame + size ≤ lbase + 2 ^ 21 * (lock.extractLsb' 0 5).toNat
  if home = 3 || (home = 2 && pdie == n % 4) then .fail .reservedField
  else if !(cap || (home != 1 && hbm) || (home != 0 && inT2 frame size)) then .fail .pageNotPresent
  else if !(cls == 0 || (home == 0 && !cap && (cls == 2 || (cls == 1 && locked))) || (home == 2 && hbm && cls == 3)) then
    .fail .reservedField
  else if ((kind == .read || kind == .rw) && !e.getLsbD 4) || ((kind == .write || kind == .rw) && !e.getLsbD 5)
      || (kind == .exec && (!e.getLsbD 6 || tag != 0 || cap)) || (tag == 2 && (!e.getLsbD 55 || cap)) then
    .fail .pagePermission
  else
    .at_ { tag := tag, key := if tag = 2 then frame + va % size else s.nk hn (frame + va % size), node := hn,
           cls := cls, leaf := some (va / size, size, e) }

/-- A cached leaf of core `e` for a virtual offset (R258). -/
def State.cachedLeaf (s : State) (e va : Nat) : Option TlbEntry :=
  (s.coreAt e).tlb.find? fun x => va / x.size == x.page && s.cycle ≤ x.till

/-- Translation of a global pointer's offset in node `n`'s tables, through core `e`'s cache where it is
given (R255, R258). -/
def State.translate (s : State) (e : Option Nat) (n tag va : Nat) (kind : AccKind) : Reach :=
  match e.bind (s.cachedLeaf · va) with
  | some x => s.leafReach n tag va kind x.leaf x.size
  | none =>
    match s.walkNode e n va with
    | .leaf l size => s.leafReach n tag va kind l size
    | .fail c => .fail c
    | .absent => .absent

/-- The size of a local space as core `e` sees it (R242, R244); the slices' lane size is checked by the
caller for a vector access. -/
def State.localSize (s : State) (e tag : Nat) (vector : Bool) : Nat :=
  match tag with
  | 4 => 16 * s.share (clusterOf e)
  | 5 => 393216 - s.share (clusterOf e)
  | 6 => if vector then 2048 else 131072
  | _ => 33554432

/-- The key of offset `o` of a local space for lane `j` of core `e` (R244 to R248). -/
def State.localKey (s : State) (e tag o j : Nat) (vector : Bool) : Nat :=
  match tag with
  | 4 =>
    let member := o / 128 % 16
    let moff := o / 2048 * 128 + o % 128
    spadKey (e / 16 * 16 + member) (393216 - s.share (clusterOf e) + moff)
  | 5 => spadKey e o
  | 6 => sliceKey e (if vector then 2048 * j + o else o)
  | _ => chipKey (dieOf e) o

/-- The tag of a pointer (R242). -/
def tagOf (p : Word) : Nat := (p.extractLsb' 60 4).toNat
/-- The offset of a pointer (R242). -/
def offOf (p : Word) : Nat := (p.extractLsb' 0 60).toNat

/-- Whether node `n` can be reached from this package at all (R21): a member, and for another package a
fibre that is enabled and up. -/
def State.reachable (s : State) (n : Nat) : Bool :=
  s.member n && (s.ownNode n || (s.fuses.bands != 0 && s.fuses.fibres &&& s.pkg.up != 0))

/-- Access(p, kind, n, lane) of R263 for core `e`: tag, view writes, alignment, then Translate (R255). A
peer pointer is checked for membership only; its target translates it (R256). -/
def State.access (s : State) (e : Nat) (p : Word) (kind : AccKind) (n : Nat) (lane : Nat) (vector : Bool) : Reach :=
  let tag := tagOf p
  let o := offOf p
  if 8 ≤ tag then .fail .spaceTag
  else if (kind == .write || kind == .rw) && tag == 2 then .fail .decodedViewWrite
  else if o % n != 0 then .fail .align
  else if 4 ≤ tag then
    if s.localSize e tag vector < o + n then .fail .range
    else .at_ { tag := tag, key := s.localKey e tag o lane vector, node := s.nodeOf (dieOf e), cls := 0, leaf := none }
  else if tag = 3 then
    if s.reachable (o / 2 ^ 52) then
      .at_ { tag := 3, key := o % 2 ^ 52, node := o / 2 ^ 52, cls := 0, leaf := none }
    else .fail .remoteUnreachable
  else s.translate (some e) (s.nodeOf (dieOf e)) tag o kind

/-- Translation at the target of a peer access, as a tag-0x0 access of the same kind (R256). -/
def State.peerAccess (s : State) (node off : Nat) (kind : AccKind) : Reach := s.translate none node 0 off kind

/-- The places of the non-leaf entries that a walk for core `e` reads (R251, R258). -/
def State.walkPath (s : State) (e n va : Nat) : List Level → Nat → List Nat
  | [], _ => []
  | l :: ls, tbl =>
    let pa := tbl + 8 * (va / 2 ^ l.shift % 2 ^ l.bits)
    match s.readEntry (some e) n pa with
    | none => []
    | some x =>
      if x.getLsbD 0 && !x.getLsbD 1 then pa :: s.walkPath e n va ls ((x.extractLsb' 0 52).toNat / 128 * 128) else []

/-- Whether core `c` has stored to the table entry at a key and the store is not performed. -/
def Core.stored (c : Core) (k : Nat) : Bool := (List.range 8).any fun j => (c.line (k + j)).dirty.getLsbD ((k + j) % 128)

/-- A non-leaf entry at `pa` of node `n` that a walk of core `e` has read at its home goes into the die's walk cache, unless
it stands there or the core's own store to it is not performed; for the cores with such a store it does not stand (R258;
log entry 78). -/
def State.keepEntry (s : State) (e n till pa : Nat) : State :=
  let k := s.nk n pa
  if (s.coreAt e).stored k || ((s.dieAt (dieOf e)).walk.any fun x => x.1 == k && s.cycle ≤ x.2.till) then s
  else s.modDie (dieOf e) fun d => { d with
    walk := (Store.set WalkEntry.none d.walk k
      { word := s.wordAt k, till := till,
        shut := (List.range 144).map (dieOf e * 144 + ·) |>.filter fun c => (s.coreAt c).stored k }).take 4096 }

/-- A walk may be kept in core `e`'s translation cache, and its path in the die's walk cache, for as long as
the oracle says, and no more than fit: 64 + 2048 translations a core, 4096 entries a die (R240, R258, log entry 9). -/
def State.keepLeaf (s : State) (e : Nat) (l : Loc) : State :=
  match l.leaf with
  | none => s
  | some (page, size, leaf) =>
    let (n, t) := s.draw
    if n = 0 then t
    else
      let node := t.nodeOf (dieOf e)
      (t.walkPath e node (page * size) levels t.troot).foldl (fun (u : State) pa => u.keepEntry e node (s.cycle + n) pa)
        (t.modCoreAt e fun c => { c with
          tlb := ({ page := page, size := size, leaf := leaf, till := s.cycle + n } ::
            c.tlb.filter fun x => x.page != page || x.size != size).take 2112 })

end Sys2Proof.Machine
end

