-- ==== Sys2Proof/Machine/Kinds.lean ====
section
/-! DEFINITION. What kind of operation an instruction is, for the rules that treat kinds alike: the queue it pushes
(R154, R319), whether its latency is fixed (R73, R172), whether it stores (R138). -/

namespace Sys2Proof.Machine

/-- The kind-I destination of an operation (R154). -/
def dest (i : Instr) : Option IOp :=
  match i with
  | .add _ d .. | .sub _ d .. | .addi _ d .. | .mul _ d .. | .mulh _ d .. | .mulhu _ d .. | .madd _ d .. | .div _ d ..
  | .divu _ d .. | .rem _ d .. | .remu _ d .. | .and _ d .. | .or _ d .. | .xor _ d .. | .andn _ d .. | .andi _ d ..
  | .ori _ d .. | .xori _ d .. | .shl _ d .. | .shr _ d .. | .sra _ d .. | .shli _ d .. | .shri _ d .. | .srai _ d ..
  | .rotr _ d .. | .clz _ d .. | .ctz _ d .. | .popc _ d .. | .min _ d .. | .max _ d .. | .minu _ d .. | .maxu _ d ..
  | .abs _ d .. | .sel _ d .. | .li _ d _ | .lih _ d .. | .ext _ d .. | .ins _ d .. | .lea _ d .. | .ptag _ d ..
  | .mrs _ d _ | .waits _ d .. | .waitany _ d .. | .ld _ d .. | .atom _ d .. | .cas _ d .. | .ropMcas _ d ..
  | .ropEnq _ d .. | .ropChase _ d .. | .tld _ d .. | .kalloc _ d .. | .pfxh _ d .. | .pfxl _ d .. | .pfxi _ d ..
  | .pfxp _ d .. | .specb _ d .. | .vextr _ d .. | .tstat _ d .. | .linkst _ d _ => some d
  | .mov _ (.i d) _ => some d
  | _ => none

/-- The q register that it pushes. -/
def pushes (i : Instr) : List Nat :=
  match dest i with
  | some (.q n) => [n.toNat]
  | _ => []


/-- Whether an operation is a variable-latency operation (R73); a store is one only through tag 0x3 (R267). -/
def variableLatency (i : Instr) : Bool :=
  match i with
  | .ldq .. | .ldvq .. | .atom .. | .cas .. | .ropMcas .. | .ropEnq .. | .ropChase .. | .tld .. | .shmld .. | .tlbi ..
  | .kvst .. | .kalloc .. | .kfree .. | .pfxh .. | .pfxl .. | .pfxi .. | .pfxp .. | .specb .. | .specc .. | .speca ..
  | .tbind .. | .tbindUnb .. | .tfetch .. | .trel .. | .tzero .. | .wload .. | .wswap .. | .mma .. | .mmas .. | .tdrain ..
  | .normk .. | .aliasTab .. | .seed .. | .smm .. | .smmv .. | .cpy .. | .cpyt .. | .cpyl .. | .kvld .. | .send ..
  | .sendRq .. | .jobq .. | .coll .. | .reshard .. | .slotsel .. | .park .. | .wake .. | .wakeThr .. | .linkst .. => true
  | _ => false

/-- Whether an operation is a store of R138. -/
def isStore (i : Instr) : Bool :=
  match i with
  | .st .. | .stv .. | .stvs .. | .stvx .. | .tst .. => true
  | _ => false

/-- Whether an operation's result waits in the landing structures (R172, R173, R220, R331). -/
def fixedLatency (i : Instr) : Bool :=
  match i with
  | .tstat .. | .ldqBind .. | .ld .. | .ldv .. | .ldvs .. | .ldvg .. | .brl .. | .loop .. | .rotset .. => true
  | .brr _ _ lnk => lnk
  | i => match i.opClass with
    | some .scalar | some .vector => true
    | _ => false

end Sys2Proof.Machine
end

