-- ==== Sys2Proof/Machine/Ops.lean ====
section
/-! DEFINITION. The operations that several meanings share: raising and resolving faults, entering and
leaving the trap handler, rollback, writing records, posts, ending tasks, crews and grids. -/

namespace Sys2Proof.Machine

/-! ## Fault codes (R132) -/

/-- The code of a fault (R132). -/
def FCode.num : FCode → Nat
  | .illegalOpcode => 0x01 | .illegalSlot => 0x02 | .reservedField => 0x03 | .stallUndersize => 0x04
  | .stickyInvalid => 0x05 | .gateOverflow => 0x06 | .priv => 0x07 | .spaceTag => 0x08 | .range => 0x09
  | .align => 0x0A | .pageNotPresent => 0x0B | .pagePermission => 0x0C | .latencyClass => 0x0D
  | .decodedViewWrite => 0x0E | .tileUnbound => 0x0F | .tileShape => 0x10 | .partialSumRead => 0x11
  | .mapInvalid => 0x12 | .reshardUnplannable => 0x13 | .remoteIndeterminate => 0x14
  | .remoteUnreachable => 0x15 | .memberLost => 0x16 | .positionRange => 0x17 | .specWindow => 0x18
  | .kvPoolEmpty => 0x19 | .prefixTableFull => 0x1A | .queueUnmapped => 0x1B | .format => 0x1C
  | .integrity => 0x1D | .softErrorUncorrectable => 0x1E | .watchdog => 0x1F | .trap => 0x20
  | .sampleTable => 0x21

/-- The fault of a decoding failure (R68). -/
def ofDecode : DecodeFault → FCode
  | .illegalOpcode => .illegalOpcode
  | .illegalSlot => .illegalSlot
  | .reservedField => .reservedField
  | .stickyInvalid => .stickyInvalid

/-- Whether policy 1 may retry a fault (R50, R132). -/
def FCode.restartable : FCode → Bool
  | .gateOverflow | .integrity | .memberLost | .remoteIndeterminate => false
  | _ => true

/-- Whether policy 0 may absorb a fault (R50, R132). -/
def FCode.ignorable : FCode → Bool
  | .gateOverflow | .softErrorUncorrectable | .watchdog | .integrity => false
  | _ => true

/-- ERRCNT of a die counts one more fault, saturating (R435). -/
def State.countError (s : State) (d : Nat) (c : FCode) : State :=
  s.modDie d fun x => { x with
    counted := (c.num - 1) :: x.counted,
    errcnt := Store.set 0 x.errcnt c.num
      (if Store.get 0 x.errcnt c.num = BitVec.allOnes 32 then BitVec.allOnes 32
       else Store.get 0 x.errcnt c.num + 1) }

/-- A fault counted at the die of its core; INTEGRITY and MEMBER_LOST are counted where they are noticed (State.countAll;
R435). -/
def State.countFault (s : State) (d : Nat) (c : FCode) : State :=
  if c = .integrity ∨ c = .memberLost then s else s.countError d c

/-- A fault counted once at every die (R435). -/
def State.countAll (s : State) (c : FCode) : State := (List.range 4).foldl (fun t d => t.countError d c) s

/-- A core's performance counters count `n` more of event `sel` (R432 to R434). -/
def Core.count (c : Core) (sel n : Nat) : Core :=
  let ctl := Store.get 0 c.pm 0
  let on := !ctl.getLsbD 0 && (12 ≤ sel || (if c.sup then ctl.getLsbD 2 else ctl.getLsbD 1)) && n != 0
  if !on then c
  else
    (List.range 4).foldl (fun (c : Core) k =>
      if ((Store.get 0 c.pm 1).extractLsb' (8 * k) 8).toNat ≠ sel then c
      else
        let x := (Store.get 0 c.pm (2 + k)).toNat + n
        let ctl' := if x < 2 ^ 48 then Store.get 0 c.pm 0 else Store.get 0 c.pm 0 ||| (1 : Word) <<< (4 + k)
        { c with
          counted := c.counted ||| (if x < 2 ^ 48 then 1 else 17) <<< k,
          pm := Store.set 0 (Store.set 0 c.pm (2 + k) (BitVec.ofNat 64 (x % 2 ^ 48))) 0 ctl' }) c

/-- Core `e` counts `n` more of event `sel`. -/
def State.countAt (s : State) (e sel n : Nat) : State := s.modCoreAt e fun c => c.count sel n

/-- A fault of the slot that performs: it waits in the core until its bundle's faults are resolved (R135). -/
def State.raise (s : State) (c : FCode) (addr : Word) : State :=
  s.modCore fun k => { k with
    raised := k.raised ++ [{ code := c, addr := addr, slot := k.cur.slot, bundle := k.cur.bundle, hard := false }] }

/-- The slot that performs ends with a fault (R85, Fault). -/
def State.fail (s : State) (c : FCode) (addr : Word) : Out := .next (s.raise c addr)

/-- The slot that performs meets a restart event at `va` (R140, R141). -/
def State.restartAt (s : State) (va : Word) : Out := .next (s.modCore fun k => { k with restart := some va })

/-! ## Records (R31, R34, R479) -/

/-- The states of a record (R31). -/
inductive RecState where
  | ready | waiting | running | barrier | done | killed
  deriving DecidableEq, Repr

/-- The code of STATE (R31). -/
def RecState.num : RecState → Nat
  | .ready => 0
  | .waiting => 1
  | .running => 2
  | .barrier => 3
  | .done => 4
  | .killed => 5

/-- w1 of a task's record (R31). -/
def Core.recWord1 (c : Core) (st : RecState) : Word :=
  c.info.kind ++ c.info.prio ++ (c.special 4).extractLsb' 0 4 ++ (c.special 2).extractLsb' 0 12 ++ (0#1 : BitVec 1)
    ++ (c.special 1).extractLsb' 0 20 ++ (c.special 30).extractLsb' 0 2 ++ (0#2 : BitVec 2) ++ BitVec.ofNat 4 st.num
    ++ c.info.retries ++ c.info.lastf

/-- The eight words of a task's record (R31, R34). -/
def Core.record (c : Core) (resume : Word) (st : RecState) : List Word :=
  [resume, c.recWord1 st, c.info.waitcnt ++ c.info.stamp, c.info.argp, c.sreg 0, c.sreg 1, c.sreg 2, c.sreg 3]

/-- The bytes of some words (R1). -/
def wordsBytes (ws : List Word) : List Byte := ws.flatMap fun w => bytesOf 8 w.toNat

/-- A word of virtual memory of die `d`'s node as the device reads it. -/
def State.deviceRead (s : State) (d : Nat) (va n : Nat) : Option Nat :=
  match s.translate none (s.nodeOf d) 0 va .read with
  | .at_ l => some (s.natAt l.key n)
  | .fail _ | .absent => none

/-! ## The scheduler (R45, R313 to R316) -/

/-- The lowest free node of the `n` nodes from node `i` upwards. -/
def Cluster.freeFrom (c : Cluster) : Nat → Nat → Option Nat
  | 0, _ => none
  | n + 1, i => if (Store.get none c.pool i).isNone then some i else c.freeFrom n (i + 1)

/-- The lowest free node of a pool of 4096 (R314). -/
def Cluster.freeNode (c : Cluster) : Option Nat := c.freeFrom 4096 0

/-- A record enters node `i` of cluster `k`: into the waiting set while its count is above zero, else into list PRIO
(R314), with its age (R45, R326). -/
def State.enterNode (s : State) (k i : Nat) (w : Waiter) (cnt : Nat) : State :=
  s.modCluster k fun c => { c with
    pool := Store.set none c.pool i (some
      { rec_ := w.rec_, waiting := cnt != 0, list := if cnt = 0 then w.prio else 0, prio := w.prio, enq := w.age,
        since := w.age, crew := w.crew, task := w.task, stamp := w.stamp, cnt := cnt }) }

/-- A record enters cluster `k` if a node is free (R314). -/
def State.enterRecord (s : State) (k : Nat) (w : Waiter) (cnt : Nat) : State :=
  match (s.clusterAt k).freeNode with
  | none => s
  | some i => s.enterNode k i w cnt

/-- Ready records of cluster `k` that waited for a node enter, in order, as far as nodes are free (R314). -/
def State.enterReady (s : State) (k : Nat) : State :=
  (s.clusterAt k).ready.foldl (fun t w =>
    match (t.clusterAt k).freeNode with
    | none => t
    | some i => (t.modCluster k fun c => { c with ready := c.ready.tail }).enterNode k i w 0) s

/-- What the scheduler does once a write of it has been performed, or could not be made: a record whose count reached
zero is ready, and a released record enters (R46, R315, R326). -/
def State.afterWrite (s : State) (o : Owed) : State :=
  match o.what with
  | .count 0 k i _ _ => s.modCluster k fun c => { c with
      pool := match Store.get none c.pool i with
        | some n =>
          if n.waiting && n.rec_ + 22 == o.va then
            Store.set none c.pool i (some { n with waiting := false, list := n.prio, enq := s.cycle, since := s.cycle, cnt := 0 })
          else c.pool
        | none => c.pool }
  | .ready k w => (s.modCluster k fun c => { c with ready := c.ready ++ [w] }).enterReady k
  | _ => s

/-- STATE of the record whose byte 9 stands at a key (R31). -/
def State.putState (s : State) (key : Nat) (st : RecState) : State :=
  s.perform none 1 key [BitVec.ofNat 8 (st.num * 16 + (s.byteAt key).toNat % 16)]

/-- A device write made at the key of its address (R479). -/
def State.makeWrite (s : State) (o : Owed) (key : Nat) : State :=
  match o.what with
  | .lastf code => s.perform none 1 key [BitVec.ofNat 8 code]
  | .killed code retries _ =>
    s.perform none 1 key [BitVec.ofNat 8 code, BitVec.ofNat 8 (0x50 + retries.getD ((s.byteAt (key + 1)).toNat % 16))]
  | .killedWhole ws _ => s.perform none 1 key (wordsBytes ws)
  | .count n .. => let t := s.perform none 1 key (bytesOf 2 n)
    if n = 0 then t.putState (key - 13) .ready else t
  | .ready .. => s.putState (key + 1) .ready
  | .post => s.perform none 2 key (bytesOf 8 (s.natAt key 8 + 1))

/-- What became of a device write: performed, refused by a fault, or kept until its page is present. -/
inductive Wrote where
  | done
  | fault (c : FCode)
  | kept
  deriving DecidableEq, Repr

/-- A write of the device on die `d`, translated as a tag-0x0 access in the tables of its node (R479); one for a
migratable page that is not present waits, and later ones to its page behind it (R140). -/
def State.deviceWrite (s : State) (d : Nat) (o : Owed) : Wrote × State :=
  let keep := s.modDie d fun x => { x with owed := x.owed ++ [o] }
  if (s.dieAt d).owed.any fun x => x.va / 4096 == o.va / 4096 then (.kept, keep)
  else
    match s.translate none (s.nodeOf d) 0 o.va (if o.what = .post then .rw else .write) with
    | .at_ l => (.done, (s.makeWrite o l.key).afterWrite o)
    | .fail c => (.fault c, s)
    | .absent => (.kept, keep)

/-- A fault of such a write is counted, and what follows the write follows (R479). For the STATE of a record that a round
releases, which R479 does not name, this is the model's choice (DESIGN CHOICE, log entry 88). -/
def State.wroteOrCounted (d : Nat) (o : Owed) (x : Wrote × State) : State :=
  match x.1 with
  | .fault c => (x.2.countError d c).afterWrite o
  | .done | .kept => x.2

/-- The cores of cluster `k`. -/
def clusterCores (k : Nat) : List Nat := (List.range 16).map fun j => k / 9 * 144 + k % 9 * 16 + j

/-- The round of a crew completes: its waiters become ready, their age running from now (R326). A task that arrived and is
still on its way into suspension becomes ready once it has suspended. A fault of the write of a waiter's STATE is counted,
and the record is ready all the same (DESIGN CHOICE, log entry 88). -/
def State.completeRound (s : State) (k crew : Nat) : State :=
  let ws := (Store.get Crew.none (s.clusterAt k).crews crew).waiters
  let t := s.modCrew k crew fun c => { c with arr := 0, waiters := [] }
  let t := ((clusterCores k).filter fun e =>
    (t.coreAt e).crewId == crew && (t.coreAt e).wait == some (.cbar true)).foldl
      (fun t e => t.modCoreAt e fun c => { c with wait := some (.released s.cycle) }) t
  (ws.map fun w => { w with age := s.cycle }).foldl (fun t w => State.wroteOrCounted (k / 9) { va := w.rec_ + 8, what := .ready k w }
    (t.deviceWrite (k / 9) { va := w.rec_ + 8, what := .ready k w })) t

/-- Whether the end of a task of a crew, or `more` = 1 its arrival, would complete a round whose waiters find no free nodes
in the pool: the instruction waits (R314). -/
def State.roundBlocked (s : State) (k crew more : Nat) : Bool :=
  let c := Store.get Crew.none (s.clusterAt k).crews crew
  c.arr + more != 0 && c.arr + 1 == c.live
    && 4096 - (s.clusterAt k).nodes.length < c.waiters.length + (s.clusterAt k).ready.length

/-- One task of a crew has ended (R316). -/
def State.crewLess (s : State) (k crew : Nat) : State :=
  let t := s.modCrew k crew fun c => { c with live := c.live - 1 }
  let c := Store.get Crew.none (t.clusterAt k).crews crew
  if c.arr != 0 && c.arr == c.live then t.completeRound k crew else t

/-- One task of the grid has ended on this package. -/
def State.taskLess (s : State) : State :=
  s.modPkg fun p => { p with grid := p.grid.map fun g => { g with live := g.live - 1 } }

/-- The waiting record at an address in some cluster of die `d` (R315). -/
def State.waitingAt (s : State) (d x : Nat) : Option (Nat × Nat × PoolNode) :=
  (List.range 9).findSome? fun c =>
    match (s.clusterAt (d * 9 + c)).nodes.find? fun n => n.2.waiting && n.2.rec_ == x with
    | some n => some (d * 9 + c, n.1, n.2)
    | none => none

/-- What became of a post: made, refused by a fault, counted while the record's update waits for its page, or waiting for a
migratable page (R140, R315). -/
inductive Posted where
  | done
  | kept
  | fault (c : FCode)
  | absent
  deriving DecidableEq, Repr

/-- A post of die `d` to address `x` (R315): a waiting record counts down, else the word there gains 1. A fault of the
record's update is charged to the record's task, whose LASTF it reaches, and the count is applied as if it had been made
(R137, R479). -/
def State.post (s : State) (d x : Nat) : Posted × State :=
  match s.waitingAt d x with
  | some (k, i, n) =>
    let w : Nat := n.cnt - 1
    let t := s.modCluster k fun c => { c with pool := Store.set none c.pool i (some { n with cnt := w }) }
    let o : Owed := { va := x + 22, what := .count w k i n.crew n.task }
    match t.deviceWrite d o with
    | (.fault c, u) => (.done, (u.modDie d fun y => { y with
        orphans := y.orphans ++ [{ k := k, crew := n.crew, task := n.task, core := none, cont := some n.rec_, code := c, hard := true }] }).afterWrite o)
    | (.done, u) => (.done, u)
    | (.kept, u) => (.kept, u)
  | none =>
    if x % 8 ≠ 0 then (.fault .align, s)
    else
    match s.translate none (s.nodeOf d) 0 x .rw with
    | .at_ l => (.done, s.makeWrite { va := x, what := .post } l.key)
    | .fail c => (.fault c, s)
    | .absent => (.absent, s)

/-- The post that follows a kill (R51): for an absent page it waits (R140). A fault of it is counted and consults no policy,
a case that R51 and R479 do not settle (DESIGN CHOICE, log entry 88). -/
def State.killPost (s : State) (d x : Nat) : State :=
  if x = 0 then s
  else
    match s.post d x with
    | (.done, t) | (.kept, t) => t
    | (.fault c, t) => t.countError d c
    | (.absent, t) => t.modDie d fun y => { y with owed := y.owed ++ [{ va := x, what := .post }] }

/-- The address that a kill's write posts to. -/
def RecWrite.stamp : RecWrite → Nat
  | .killed _ _ x | .killedWhole _ x => x
  | .lastf _ | .count .. | .ready .. | .post => 0

/-- A device write that waited is tried again (R140, R479). -/
def State.retryWrite (s : State) (d : Nat) (o : Owed) : State :=
  if o.what = .post then s.killPost d o.va
  else
    match s.deviceWrite d o with
    | (.kept, t) => t
    | (.done, t) => t.killPost d o.what.stamp
    | (.fault c, t) =>
      match o.what with
      | .count _ k _ crew task => (t.modDie d fun y => { y with
          orphans := y.orphans ++ [{ k := k, crew := crew, task := task, core := none, cont := some (o.va - 22), code := c, hard := true }] }).afterWrite o
      | _ => ((t.countError d c).afterWrite o).killPost d o.what.stamp

/-- The device writes of die `d` that waited for a page are tried again, in order (R140). -/
def State.retryOwed (s : State) (d : Nat) : State :=
  (s.dieAt d).owed.foldl (fun t o => t.retryWrite d o) (s.modDie d fun y => { y with owed := [] })

/-! ## Counters that the host writes (R6, R431) -/

/-- Whether word `w` of instance `i` of a counter block has moved in the present cycle. -/
def State.ctrMoved (s : State) (b i w : Nat) : Bool :=
  match b with
  | 0 => (s.coreAt i).counted.getLsbD (w - 2)
  | 1 => (s.dieAt i).counted.contains w
  | _ => s.pkg.moved.contains (b, i, w)

/-- Word `w` of instance `i` of a counter block set. -/
def State.putCtr (s : State) (b i w : Nat) (x : Word) : State :=
  match b with
  | 0 => s.modCoreAt i fun c => { c with pm := Store.set 0 c.pm w x }
  | 1 => s.modDie i fun d =>
    if w < 33 then { d with errcnt := Store.set 0 d.errcnt (w + 1) (x.setWidth 32) }
    else { d with secnt := Store.set 0 d.secnt (w - 33) (x.setWidth 32) }
  | 2 => s.modPkg fun p => { p with fab := Store.set 0 p.fab (6 * i + w) x }
  | _ => s.modPkg fun p => { p with engy := Store.set 0 p.engy w x }

/-- What has moved in a cycle is forgotten at its end. -/
def State.forgetMoved (s : State) : State :=
  { s with
    cores := s.cores.map fun x => if x.2.counted = 0 then x else (x.1, { x.2 with counted := 0 }),
    dies := s.dies.map fun x => if x.2.counted.isEmpty then x else (x.1, { x.2 with counted := [] }),
    pkg := { s.pkg with ctrw := [], moved := [] } }

/-- The host's counter writes of the cycle that ends: one is lost where the counter has moved in that cycle (R6, R431). -/
def State.settleCtrs (s : State) : State :=
  (s.pkg.ctrw.foldl (fun t x => if s.ctrMoved x.block x.inst x.word then t else t.putCtr x.block x.inst x.word x.new_) s).forgetMoved

/-! ## The power limit (R450) -/

/-- The microjoules of the last millisecond's ticks, and whether their mean is above WATTS: 977 ticks of 1024 ns (R450; log entry
98). -/
def State.overLimit (s : State) : Bool :=
  let p := s.pkg
  let uj := ((p.engyLog.filter fun x => p.engyAt < x.1 + 977).map (·.2)).sum
  977 ≤ p.engyAt && p.pwrlim.toNat * 977 * 1024 < uj * 1000

/-! ## Windows (R414, R417) -/

/-- BASE of die `d`'s pool (R403). -/
def State.kvBase (s : State) (d : Nat) : Nat := 4096 * (((s.dieAt d).kvcfg.extractLsb' 0 52).toNat / 4096)
/-- Row bytes of the pool (R403). -/
def State.rowB (s : State) (d : Nat) : Nat := 64 * (((s.dieAt d).kvcfg.extractLsb' 1 2).toNat + 1)
/-- Pages of the pool; none while it is not enabled (R403). -/
def State.kvPages (s : State) (d : Nat) : Nat :=
  if (s.dieAt d).kvcfg.getLsbD 0 then (s.dieAt d).npages.toNat % 2 ^ 21 else 0
/-- The key of the first byte of page `id` (R403, R404). -/
def State.pageKey (s : State) (d id : Nat) : Nat := s.nk (s.nodeOf d) (s.kvBase d + id * (128 + 32 * s.rowB d))
/-- The key of the sideband word of token slot `k` (R404). -/
def State.sideKey (s : State) (d id k : Nat) : Nat := s.pageKey d id + 8 * k
/-- The key of entry `i` of the free stack (R403). -/
def State.stackKey (s : State) (d i : Nat) : Nat := s.pageKey d (s.kvPages d) + 4 * i
/-- The key of the bitmap byte of page `id` (R403). -/
def State.bitKey (s : State) (d id : Nat) : Nat := s.pageKey d (s.kvPages d) + 4 * s.kvPages d + id / 8

/-- Whether page `id` is allocated: its bitmap bit is 1 (R405, log entry 22). -/
def State.allocated (s : State) (d id : Nat) : Bool := (s.byteAt (s.bitKey d id)).getLsbD (id % 8)
/-- The bitmap bit of a page set or cleared. -/
def State.setAllocated (s : State) (d id : Nat) (x : Bool) : State :=
  let b := s.byteAt (s.bitKey d id)
  let m : Byte := (1 : Byte) <<< (id % 8)
  s.perform none 1 (s.bitKey d id) [if x then b ||| m else b &&& ~~~m]
/-- A page freed: pushed onto the stack and marked free (R405). -/
def State.freePage (s : State) (d id : Nat) : State :=
  ((s.perform none 1 (s.stackKey d (s.dieAt d).kvFree) (bytesOf 4 id)).setAllocated d id false).modDie d fun x =>
    { x with kvFree := x.kvFree + 1 }

/-- The end of a window (R416): with `keep` = some (n, step) the first n drafts are committed, with none all
are discarded. `copies` makes the region copies, which stand between the sideband words and the pages. -/
def State.closeWindow (s : State) (d w : Nat) (keep : Option (Nat × Nat)) (copies : State → State) : State :=
  match Store.get none (s.dieAt d).windows w with
  | none => s
  | some win =>
    let s1 := win.writes.foldl (fun t x =>
      let k := t.sideKey d x.1 x.2.1
      match keep with
      | some (n, step) =>
        if x.2.2 < n then
          let sb := t.wordAt k
          t.perform none 1 k (bytesOf 8 ((sb &&& ~~~(0x800000FFFF : Word)).toNat + step % 65536))
        else t.perform none 1 k (bytesOf 8 0)
      | none => t.perform none 1 k (bytesOf 8 0)) s
    let s2 := win.allocs.foldl (fun t x =>
      if keep.all (fun k => k.1 ≤ x.2) then t.freePage d x.1 else t) (copies s1)
    s2.modDie d fun x => { x with windows := Store.set none x.windows w none }

/-- Whether a window is that of a task on core `e` (R414). -/
def SpecWin.ownedBy (x : SpecWin) (e : Nat) (task : BitVec 20) : Bool := x.core == coreNo e && x.task == task

/-- The windows a core's task owns are discarded as SPECA would (R417). -/
def State.dropWindow (s : State) (e : Nat) : State :=
  ((s.dieAt (dieOf e)).windows.foldl (fun (t : State) w =>
    if w.2.any fun x => x.ownedBy e (((s.coreAt e).special 1).extractLsb' 0 20) then t.closeWindow (dieOf e) w.1 none id else t)
    s).modCoreAt e fun c => c.setSpecial 14 0

/-! ## The deal (R27, R42) -/

/-- The enabled cores of a node (R24); none for a node outside the partition. -/
def State.coresOn (s : State) (n : Nat) : Nat :=
  if s.ownNode n then 16 * popcount (s.clmask (n % 4))
  else
    match s.others.find? fun m => m.pkg.toNat == n / 4 with
    | some m => 16 * popcount (m.clmask.getD (n % 4) 0)
    | none => 0
/-- C, the enabled cores of the partition. -/
def State.coresAll (s : State) : Nat := ((List.range 256).map s.coresOn).sum
/-- The place of core `e` in the enumeration of R27. -/
def State.coreIndex (s : State) (e : Nat) : Nat :=
  ((List.range (s.nodeOf (dieOf e))).map s.coresOn).sum
    + 16 * ((List.range (coreNo e / 16)).filter fun k => (s.clmask (dieOf e)).getLsbD k).length + e % 16
/-- Whether round `r` of a deal of `n` roots gives core `e` one. -/
def State.dealtTo (s : State) (n e r : Nat) : Bool := s.enabled e && s.coreIndex e + s.coresAll * r < n
/-- The roots that a round gives the cores of cluster `k`. -/
def State.rootsOf (s : State) (n k r : Nat) : List Nat :=
  ((List.range 16).map fun j => k / 9 * 144 + k % 9 * 16 + j).filter fun e => s.dealtTo n e r

/-! ## Ending runs -/

/-- The rooms of stage queues that core `e` has reserved for pushes that a rollback, a retry or a kill discards: those of
its landing queue, its held slots and its waiting instruction (R141, R319). -/
def Core.rooms (c : Core) : List Nat :=
  let dest := fun (o : SlotOp) => if (pushes o.instr).isEmpty then [] else [o.room]
  ((c.land ++ c.kept).flatMap fun l => (l.writes.filter fun w => w.kind == .push).map (·.room)) ++ c.held.flatMap (fun x => dest x.2)
    ++ match c.wait with
      | some (.stamp ..) | some (.any ..) => dest c.waitOp
      | _ => []

/-- Those rooms are given back, the barriers that its held slots had raised go down (log entry 79), and its stamp
monitors are disarmed (R362). -/
def State.discard (s : State) (e : Nat) : State :=
  let c := s.coreAt e
  let t : State := { s with
    monitors := s.monitors.filter fun m => m.core != e, seen := s.seen.filter fun m => m.core != e }
  let t := c.rooms.foldl (fun t q => t.unreserveQ e q) t
  t.modCoreAt e fun c => (c.held.filter fun x => variableLatency x.2.instr).foldl (fun (k : Core) x =>
    match x.2.bar with
    | some j => { k with db := Store.set 0 k.db j.toNat (Store.get 0 k.db j.toNat - 1) }
    | none => k) c

/-- A core left idle: what its run held is gone, what belongs to the core stays (R35, R148). Tensor jobs of a
task ended by containment end with its tiles (log entry 18); fault notices of its engines find no run and are
resolved as R137 states. -/
def Core.stop (c : Core) (now : Nat) : Core :=
  { c with run := .idle now, jobs := c.jobs.filter fun j => j.card.isSome, land := [], kept := [], thaw := [], stallTo := 0, gate := [], gateClosed := false, marked := false, shadow := none,
           sticky := [], held := [], wait := none, mwait := none, todo := [], raised := [], late := [], restart := none,
           rep := none, transfer := false, popped := [] }

/-- Every engine operation of a core dropped, with its barriers: the end of its grid (R48). The stamp of a copy that had
faulted is still written (R137, R341). -/
def Core.halt (c : Core) (now : Nat) : Core :=
  { c.stop now with
    pend := [], jobs := [], copies := c.copies.filter fun x => x.failed && x.sa != 0 && x.card.isNone, db := [], streams := [] }

/-- A fault as the package reports it (R43, R48). -/
def State.notice (s : State) (c : FCode) (e : Nat) (task : BitVec 20) : FaultNotice :=
  { code := BitVec.ofNat 8 c.num, node := BitVec.ofNat 8 (s.nodeOf (dieOf e)), core := BitVec.ofNat 8 (coreNo e),
    task := task, stamp := (s.timeBase).getD 0 }

/-- The earlier of two notices: stamp, then node, then CORE (R48). -/
def earlierNotice (a b : FaultNotice) : FaultNotice :=
  if a.stamp < b.stamp || (a.stamp == b.stamp && (a.node < b.node || (a.node == b.node && a.core ≤ b.core))) then a
  else b

/-- A send queue whose operations have ended: what is not yet on its way is dropped, packets in flight end by themselves
(R48, R136, R393). -/
def SendQ.cutOff (q : SendQ) (gone : Desc → Bool) : SendQ := { q with descs := q.descs.filter fun d => !gone d }

/-- The descriptors of some operations leave the send queues. -/
def Package.cutOff (p : Package) (gone : Desc → Bool) : Package :=
  { p with sendq := (p.sendq.map fun q => (q.1, q.2.cutOff gone)).filter fun q => q.2 ≠ SendQ.none }

/-- A die whose walker and Jig run nothing, and whose writes to discarded records are dropped with them (R48). -/
def Die.noUnits (d : Die) : Die :=
  { d with colls := [], reshards := [], reshNums := [], announced := [], collNums := [], inbox := [], owed := [], orphans := [] }

/-- The running grid ends on this package by a fault: its cores and engines stop, and records, queued tasks,
gates, undealt roots, windows and queues are discarded (R48, R417, R320, R350). Its cores stop in this cycle, so a fault
raised or received later is not the grid's (R48). A card that had faulted still writes its
stamp (R341). -/
def State.abortGrid (s : State) (f : FaultNotice) (bare : Bool) : State :=
  match s.pkg.grid with
  | none => s
  | some g =>
    let s1 := (s.cores.map (·.1)).foldl (fun t e => (t.dropWindow e).modCoreAt e fun c => c.halt s.cycle) s
    { s1 with
      clusters := (s1.clusters.map fun x => (x.1, { Cluster.reset with
          clshare := x.2.clshare, nextCard := x.2.nextCard,
          cards := x.2.cards.filter fun c => c.failed && c.words.getD 2 0 != 0 })).filter (·.2 ≠ Cluster.reset),
      dies := (s1.dies.map fun x => (x.1, x.2.noUnits)).filter
        (·.2 ≠ Die.reset),
      monitors := [], seen := [],
      pkg := { s1.pkg with
        recvq := [],
        sendq := (s1.pkg.cutOff fun _ => true).sendq, staged := [],
        grid := some { g with
          live := 0,
          ended := match g.fault with | some _ => g.ended | none => s.cycle,
          fault := some (match g.fault with | some h => if s.cycle ≤ g.ended then earlierNotice h f else h | none => f),
          bare := match g.fault with | some _ => g.bare | none => bare } } }

/-- Whether a task of the crew owns core `e`. -/
def State.inCrew (s : State) (e k crew : Nat) : Bool :=
  clusterOf e == k && (s.coreAt e).owned && (s.coreAt e).crewId == crew

/-- The KILLED record of a task and its post: a fault of the write is counted, and the post is made all the same (R51,
R479). -/
def State.killWrite (s : State) (d : Nat) (o : Owed) : State :=
  match s.deviceWrite d o with
  | (.kept, t) => t
  | (.done, t) => t.killPost d o.what.stamp
  | (.fault c, t) => (t.countError d c).killPost d o.what.stamp

/-- The KILLED record of the task on core `e` (R51): STATE, RETRIES and LASTF of a record that exists, the
whole record of a root that never suspended; then its post. A root whose record address has another tag than 0 meets
SPACE_TAG at this write, which is not made (R44, R479). -/
def State.writeKilled (s : State) (e : Nat) : State :=
  let c := s.coreAt e
  let a := offOf (c.special 27)
  if tagOf (c.special 27) ≠ 0 then (s.countError (dieOf e) .spaceTag).killPost (dieOf e) c.info.stamp.toNat
  else s.killWrite (dieOf e)
    (if c.info.saved then { va := a + 8, what := .killed c.info.lastf.toNat (some c.info.retries.toNat) c.info.stamp.toNat }
     else { va := a, what := .killedWhole (c.record c.pc .killed) c.info.stamp.toNat })

/-- The faults of operations in flight that core `e` has not resolved become those of a task that no core runs (R137). -/
def State.orphanLate (s : State) (e : Nat) (rs : List Raised) : State :=
  let c := s.coreAt e
  s.modDie (dieOf e) fun y => { y with
    orphans := y.orphans ++ rs.map fun r =>
      { k := clusterOf e, crew := c.crewId, task := (c.special 1).extractLsb' 0 20, core := some e,
        cont := some (offOf (c.special 27)), code := r.code, hard := r.hard } }

/-- The task on core `e` is ended by containment, with LASTF set to the fault (R50, R51); an arrival of it in a crew
barrier no longer counts (R316). -/
def State.killTask (s : State) (e : Nat) (code : FCode) : State :=
  let crew := (s.coreAt e).crewId
  let late := (s.coreAt e).late
  let arrived := (s.coreAt e).wait == some (.cbar true)
  let t := ((s.dropWindow e).modCoreAt e fun c => { c with info := { c.info with lastf := BitVec.ofNat 8 code.num } }).writeKilled e
  let t := ((t.discard e).orphanLate e late).modCoreAt e fun c => c.stop s.cycle
  let t := if arrived then t.modCrew (clusterOf e) crew fun c => { c with arr := c.arr - 1 } else t
  (t.crewLess (clusterOf e) crew).taskLess

/-- A record of a killed crew that no core runs: KILLED in memory, and posted (R51). -/
def State.killWaiter (s : State) (k : Nat) (w : Waiter) (code : FCode) : State :=
  let st := (s.deviceRead (k / 9) (w.rec_ + 16) 6).getD w.stamp
  ((s.killWrite (k / 9) { va := w.rec_ + 8, what := .killed code.num none st }).crewLess k w.crew).taskLess

/-- The record in a pool node as its scheduler knows it. -/
def PoolNode.waiter (n : PoolNode) : Waiter :=
  { rec_ := n.rec_, prio := n.prio, crew := n.crew, task := n.task, stamp := n.stamp, age := n.enq }

/-- A queued or waiting record of a killed crew: its node is freed too (R51). -/
def State.killRecord (s : State) (k : Nat) (i : Nat) (n : PoolNode) (code : FCode) : State :=
  (s.modCluster k fun c => { c with pool := Store.set none c.pool i none }).killWaiter k n.waiter code

/-- Released records of a crew that are not yet in the pool: those that wait for a node, and those whose page is absent. -/
def State.released (s : State) (k crew : Nat) : List Waiter :=
  ((s.clusterAt k).ready.filter (·.crew == crew)) ++ (s.dieAt (k / 9)).owed.filterMap fun o =>
    match o.what with
    | .ready j w => if j == k && w.crew == crew then some w else none
    | _ => none

/-- The grid with a crew's undealt roots taken out of the live count, once (R99, R51). -/
def State.gridLess (s : State) (k crew : Nat) (g : Grid) : Grid :=
  let gone := ((s.rootsOf (g.vec.w1.extractLsb' 0 32).toNat k crew).filter fun e => Store.get 0 g.dealt e ≤ crew).length
  bif g.killed.contains (k, crew) then g else { g with killed := (k, crew) :: g.killed, live := g.live - gone }

/-- Every task of a crew is ended, its undealt roots with them (R50, R51); a killed crew releases no other crew. -/
def State.killCrew (s : State) (k crew : Nat) (code : FCode) : State :=
  let ws := (Store.get Crew.none (s.clusterAt k).crews crew).waiters ++ s.released k crew
  let s1 := ((s.modCrew k crew fun c => { c with arr := 0, waiters := [] }).modCluster k fun c => { c with
    ready := c.ready.filter (·.crew != crew) }).modDie (k / 9) fun d => { d with
      owed := d.owed.filter fun o => match o.what with
        | .ready j w => !(j == k && w.crew == crew)
        | _ => true }
  let s2 := ws.foldl (fun t w => t.killWaiter k w code) s1
  let s3 := ((s2.clusterAt k).nodes.filter (·.2.crew == crew)).foldl (fun t n => t.killRecord k n.1 n.2 code) s2
  let s4 := ((clusterCores k).filter (s3.inCrew · k crew)).foldl
    (fun t e => t.killTask e code) s3
  s4.modPkg fun p => { p with grid := p.grid.map (s.gridLess k crew) }

/-! ## Rollback (R84, R141) and retry (R50) -/

/-- The registers of a dispatch (R35, R109, R150): task-scope state cleared, core-scope registers kept. -/
def Core.dispatchRegs (c : Core) : Core :=
  { c with s := [], v := [], p := [],
           spr := c.spr.filter (fun x => x.1 == 11 || x.1 == 20 || x.1 == 26 || x.1 == 1 || x.1 == 2 || x.1 == 4 || x.1 == 27),
           sticky := [], held := [], rep := none, qtab := [], streams := [], tiles := [], acc := [], planes := [],
           active := false, cb := [], rot := 0, sm := [], scarab := Scarab.clear, shadow := none, marked := false,
           gate := [], gateClosed := false, land := [], kept := [], thaw := [] }

/-- Steps 1 to 3 of R141: gate, landings and held slots are dropped and the mark's snapshot is restored. -/
def Core.rollback (c : Core) (n : Snapshot) : Core :=
  let k : Core := { c with
    gate := [], land := [], held := [], s := n.s, v := n.v, p := n.p, sticky := n.sticky, pc := n.pc,
    rep := none, stallTo := 0, wait := none, mwait := none, todo := [], raised := [], restart := none, transfer := false,
    popped := [] }
  ((((k.setSpecial 8 n.vrb).setSpecial 9 n.prb).setSpecial 6 n.lc).setSpecial 7 n.ec).setSpecial 10 n.fmode

/-- The special registers that a retry leaves as they stand: the fault's own (R51), the generator's and SMM's (R227), STEP
and SPECW (log entry 17), those of the core. -/
def retryKeeps (i : Nat) : Bool := [11, 13, 14, 16, 17, 18, 20, 21, 22, 23, 24, 26].contains i

/-- The task of core `e` starts again from its last mark, or from the state of its last dispatch (R50). That state is all that
R35 and R42 set at a dispatch, so that without a mark the tiles, accumulators, planes, maps, completion barriers, queue
bindings and CBSTAT go back to their dispatch values too, though the 'Changed by' rows of R148, R339 and R364 name a retry for
s, v and p alone; the tensor jobs of the task end with its tiles (DEDUCED, log entry 17). Draws that were made stay consumed,
and the Scarab's state stays (R227). -/
def State.retry (s : State) (e : Nat) : State :=
  (s.discard e).modCoreAt e fun c =>
    match c.shadow with
    | some n => { c.rollback n with info := { c.info with retries := c.info.retries + 1 }, nextIssue := s.cycle + 1 }
    | none =>
      let d := c.start
      let js := c.jobs.filter fun j => j.card.isNone
      let c := js.foldl (fun (k : Core) j => k.barDown s.cycle j.op.bar) { c with jobs := c.jobs.filter fun j => j.card.isSome }
      let k : Core := { c.dispatchRegs with
        stallTo := 0,
        scarab := c.scarab, spr := c.spr.filter fun x => retryKeeps x.1 || x.1 == 1 || x.1 == 2 || x.1 == 4 || x.1 == 27,
        pc := d.pc, info := { d.info with retries := c.info.retries + 1, lastf := c.info.lastf },
        wait := none, mwait := none, todo := [], raised := [], restart := none, transfer := false, popped := [],
        nextIssue := s.cycle + 1,
        s := Store.set 0 (Store.set 0 (Store.set 0 (Store.set 0 [] 0 d.s0) 1 d.s1) 2 d.s2) 3 d.s3 }
      k.setSpecial 30 (d.tpol.setWidth 64)

/-- A fault among others in slot order (R135). -/
def insertRaised (r : Raised) : List Raised → List Raised
  | [] => [r]
  | x :: xs => if r.slot < x.slot then r :: x :: xs else x :: insertRaised r xs

/-- A restart event at `va` of an access whose bundle is at `b` (R140, R141): rollback to the mark, whose bundle reissues
once the page is there, and faults of the same issue go with it (R147); without a mark since dispatch it is the fault
PAGE_NOT_PRESENT of slot ms, one of the bundle's faults. -/
def State.restartEvent (s : State) (e : Nat) (va b : Word) : State :=
  match (s.coreAt e).shadow with
  | some n => (s.discard e).modCoreAt e fun c =>
      { (c.count 9 1).rollback n with wait := some (.rewalk va), nextIssue := 4096 + s.cycle }
  | none => s.modCoreAt e fun c => { c.count 9 1 with
      restart := none,
      raised := insertRaised { code := .pageNotPresent, addr := va, slot := 3, bundle := b, hard := false } c.raised }

/-! ## Taking a fault (R50, R134, R135) -/

/-- FCODE, FADDR and FBUNDLE of a fault (R134). -/
def Core.faultRegs (c : Core) (r : Raised) : Core :=
  ((c.setSpecial 16 (BitVec.ofNat 64 (r.slot % 16 * 256 + r.code.num))).setSpecial 17 r.addr).setSpecial 18 r.bundle

/-- What one level of containment does with a fault (R50). -/
inductive Resolution where
  | pass | absorb | retry | own | parent
  deriving DecidableEq, Repr

/-- The row of R50 for a policy; `running` says that a core runs the task, so that policy 1 can restart it (R137). -/
def resolution (pol : BitVec 2) (r : Raised) (retries : BitVec 4) (running : Bool) : Resolution :=
  match pol.toNat with
  | 0 => if r.code.ignorable && !r.hard then .absorb else .pass
  | 1 => if running && r.code.restartable && !r.hard && retries.toNat < 3 then .retry else .pass
  | 2 => .own
  | _ => .parent

/-- The crew and grid levels of R50 for a fault charged to a task of crew `crew` in cluster `k`, which core `run` runs, if
any does. -/
def State.resolveAbove (s : State) (r : Raised) (k crew : Nat) (f : FaultNotice) (run : Option Nat) : State :=
  let n := (run.map fun e => (s.coreAt e).info.retries).getD 0
  let again := (run.map s.retry).getD s
  match resolution (Store.get Crew.none (s.clusterAt k).crews crew).cpol r n run.isSome with
  | .own => s.killCrew k crew r.code
  | .parent => s.abortGrid f false
  | .absorb => s
  | .retry => again
  | .pass =>
    match resolution s.gpol r n run.isSome with
    | .absorb => s
    | .retry => again
    | .pass | .own | .parent => s.abortGrid f false

/-- One fault of the task on core `e` is resolved (R48, R50, R135). -/
def State.resolveFault (s : State) (e : Nat) (r : Raised) : State :=
  let t := (s.countFault (dieOf e) r.code).modCoreAt e fun c =>
    { (c.count 10 1).faultRegs r with info := { c.info with lastf := BitVec.ofNat 8 r.code.num } }
  let c := t.coreAt e
  let f := t.notice r.code e ((c.special 1).extractLsb' 0 20)
  if !t.contain then t.abortGrid f false
  else
    match resolution ((c.special 30).extractLsb' 0 2) r c.info.retries true with
    | .absorb => t
    | .retry => t.retry e
    | .own => t.killTask e r.code
    | .parent => t.killCrew (clusterOf e) c.crewId r.code
    | .pass => t.resolveAbove r (clusterOf e) c.crewId f (some e)

/-- Faults of one bundle resolved one at a time; one that ends or restarts the task drops the rest (R135). -/
def State.resolveAll (s : State) (e : Nat) : List Raised → State
  | [] => s
  | r :: rs =>
    let n := (s.coreAt e).info.retries
    let t := s.resolveFault e r
    if (t.coreAt e).owned && (t.coreAt e).info.retries == n then t.resolveAll e rs else t

/-- Faults of operations in flight that meet one bundle boundary, in the order their steps were reached: all of them are
resolved (R136), those left when the task ends as R137 states. -/
def State.resolveLate (s : State) (e : Nat) : List Raised → State
  | [] => s
  | r :: rs =>
    let t := s.resolveFault e r
    if (t.coreAt e).owned then t.resolveLate e rs
    else if t.pkg.grid.all (·.fault.isSome) then t
    else t.orphanLate e rs

/-- Who runs on core `e` now (R137). -/
def Core.owner (c : Core) : Owner :=
  { task := (c.special 1).extractLsb' 0 20, crew := c.crewId, cont := offOf (c.special 27), run := c.runs }
/-- Whether the run that issued an operation is still the core's run. -/
def Core.owns (c : Core) (o : Owner) : Bool := c.owned && o.run == c.runs

/-- A fault charged to a task that no core runs (R137, R479): counted at the die of its cluster, written into LASTF of the
record it has one for, then the grid, or crew and grid. A fault of a WAITCNT write names the first core of the record's
cluster (log entry 80). -/
def State.resolveOrphan (s : State) (o : Orphan) : State :=
  let e := o.core.getD (o.k / 9 * 144 + o.k % 9 * 16)
  let r : Raised := { code := o.code, addr := 0, slot := 9, bundle := 0, hard := o.hard }
  let t := s.countFault (o.k / 9) o.code
  let t := match o.cont with
    | none => t
    | some a => State.wroteOrCounted (o.k / 9) { va := a + 8, what := .lastf o.code.num }
        (t.deviceWrite (o.k / 9) { va := a + 8, what := .lastf o.code.num })
  let f := t.notice o.code e o.task
  if !t.contain then t.abortGrid f false else t.resolveAbove r o.k o.crew f none

/-- A fault of an operation of core `e` that is no slot's own (R136, R137): it waits for the task's next bundle
boundary, or is resolved at once when the run that issued it is over, also where its task runs again (DEDUCED, log
entry 86). -/
def State.lateFault (s : State) (e : Nat) (o : Owner) (r : Raised) : State :=
  if (s.coreAt e).owns o then s.modCoreAt e fun c => { c with late := c.late ++ [r] }
  else s.resolveOrphan { k := clusterOf e, crew := o.crew, task := o.task, core := some e, cont := some o.cont, code := r.code, hard := r.hard }

/-- A fault of no task and no core (R43, R397): counted at every die, and only the grid policy is asked. -/
def State.bareFault (s : State) (c : FCode) : State :=
  match s.pkg.grid with
  | none => s
  | some _ =>
    let t := s.countAll c
    t.abortGrid { code := BitVec.ofNat 8 c.num, node := 0, core := 0, task := 0, stamp := (t.timeBase).getD 0 } true

/-- What a function of the core whose turn it is does to core `e`. -/
def State.asCore (s : State) (e : Nat) (f : State → State) : State := { f { s with me := e } with me := s.me }

/-! ## Traps (R142, R143) -/

/-- TRAP enters the handler: the gate is committed, EPC saves the next bundle, FCODE, FADDR and FBUNDLE name
the trap, sticky state ends, the mode is supervisor and the handler is next (R142). -/
def State.enterTrap (s : State) (e : Nat) (imm : BitVec 16) (bundle : Word) (len : Nat) : State :=
  (s.commitGate e).modCoreAt e fun c =>
    let k := ((((c.setSpecial 19 (bundle + BitVec.ofNat 64 len)).setSpecial 16 0x220).setSpecial 17
      (imm.setWidth 64)).setSpecial 18 bundle).setSpecial 31 1
    { k with sticky := [], pc := c.special 20 &&& ~~~7#64, next := c.special 20 &&& ~~~7#64, wait := none, mwait := none, rep := none,
             transfer := true }

/-- ERET returns: sticky state ends, the mode is user and the bundle at EPC is next (R143). -/
def State.returnTrap (s : State) (e : Nat) : State :=
  s.modCoreAt e fun c =>
    { c.setSpecial 31 0 with
      sticky := [], pc := c.special 19 &&& ~~~7#64, next := c.special 19 &&& ~~~7#64, wait := none, mwait := none, rep := none,
      transfer := true }

/-- A taken transfer of the cb slot: the next bundle, and whether sticky state ends with it (R80, R175). -/
def State.transferTo (s : State) (target : Word) (endsSticky : Bool) : State :=
  s.modCore fun c => { c with next := target, transfer := c.transfer || endsSticky }

end Sys2Proof.Machine
end

