-- ==== Sys2Proof/Machine/Operands.lean ====
section
/-! DEFINITION. How a slot reads its operands and places its results: guards (R57), operand kinds (R58,
R154), q pops (R319), landings (R71, R167), and what each operation reads and writes (R72, R81). -/

namespace Sys2Proof.Machine

/-- The operand positions of R59. -/
inductive Pos where
  | d | a | b | c
  deriving DecidableEq, Repr

/-- The latched value of a position. -/
def SlotOp.val (o : SlotOp) : Pos → Word
  | .d => o.d
  | .a => o.a
  | .b => o.b
  | .c => o.c
/-- The latched vector of a position. -/
def SlotOp.vec (o : SlotOp) : Pos → VReg
  | .a => o.va
  | .b => o.vb
  | .c | .d => o.vc

/-- The guard read now (R57). -/
def Core.guardNow (k : Core) (c : Ctl) : Word := if c.gneg then ~~~k.preg c.guard else k.preg c.guard
/-- The guard of the slot that performs: read now, or as it was read at its bundle's issue (R57, R82). -/
def State.guardMask (s : State) (c : Ctl) : Word :=
  if s.core.cur.latched then s.core.cur.guard else s.core.guardNow c

/-- A kind-I operand of the slot that performs (R154): the scalar, or the entry its slot popped. -/
def State.src (s : State) (p : Pos) (o : IOp) : Word :=
  if s.core.cur.latched then s.core.cur.val p
  else match o with
    | .s n => s.core.sreg n
    | .q n => Store.get 0 s.core.popped n.toNat
/-- A predicate operand of the slot that performs. -/
def State.srcP (s : State) (p : Pos) (n : POp) : Word :=
  if s.core.cur.latched then s.core.cur.val p else s.core.preg n
/-- A vector operand of the slot that performs. -/
def State.srcV (s : State) (p : Pos) (n : VOp) : VReg :=
  if s.core.cur.latched then s.core.cur.vec p else s.core.vreg n
/-- FMODE as the slot that performs reads it (R109). -/
def State.fmode (s : State) : Word := if s.core.cur.latched then s.core.cur.fmode else s.core.special 10
/-- VRB and PRB as the slot that performs maps its destinations (R167). -/
def State.bases (s : State) : Nat × Nat :=
  if s.core.cur.latched then (s.core.cur.vrb.toNat, s.core.cur.prb.toNat)
  else ((s.core.special 8).toNat, (s.core.special 9).toNat)

/-- Whether every pop and push of a slot is mapped (R318). -/
def Core.mapped (k : Core) (rd wr : List IOp) : Bool :=
  (rd.all fun
    | .s _ => true
    | .q n => k.popOk n.toNat) &&
  (wr.all fun
    | .s _ => true
    | .q n => k.pushOk n.toNat)

/-- The q registers among some operands, each once (R319). -/
def qsOf (rd : List IOp) : List Nat :=
  (rd.filterMap fun
    | .s _ => none
    | .q n => some n.toNat).dedup

/-- Each q operand of the slot pops once (R319). -/
def State.popAll (s : State) : List Nat → State
  | [] => s
  | n :: ns =>
    let (x, t) := s.popQ s.me n
    (t.modCore fun k => { k with popped := Store.set 0 k.popped n x }).popAll ns

/-- A slot's operands: unmapped queues fault before anything is popped (R318), then the pops. A slot that
latched its operands has done both. -/
def State.withOperands (s : State) (rd wr : List IOp) (k : State → Out) : Out :=
  if s.core.cur.latched then k s
  else if !s.core.mapped rd wr then s.fail .queueUnmapped 0
  else k (s.popAll (qsOf rd))

/-- A slot whose guard is bit 0 of its predicate: a false guard makes it a no-op (R57). -/
def State.scalarSlot (s : State) (c : Ctl) (rd wr : List IOp) (k : State → Out) : Out :=
  if (s.guardMask c).getLsbD 0 then s.withOperands rd wr k else .next s

/-- A vector slot: with no true lane it is a no-op; else `k` gets the lane mask (R57). -/
def State.vectorSlot (s : State) (c : Ctl) (rd wr : List IOp) (k : Word → State → Out) : Out :=
  if s.guardMask c = 0 then .next s else s.withOperands rd wr (k (s.guardMask c))

/-! ## Results (R71, R167, R173) -/

/-- A result is placed in the landing queue of the core whose turn it is. -/
def State.land (s : State) (lat : Nat) (ws : List Wr) : State :=
  s.modCore fun k => { k with
    land := k.land ++ [{ due := s.cycle + lat, placed := s.cycle, slot := k.cur.slot, num := k.cur.num, bundle := k.cur.bundle, llb := false, latch := false, writes := ws, vas := [] }] }
/-- The same for a timed global load, which holds a load-landing-buffer entry (R174). -/
def State.landLoad (s : State) (lat : Nat) (ws : List Wr) (vas : List (Word × Nat × Bool)) : State :=
  s.modCore fun k => { k with
    land := k.land ++ [{ due := s.cycle + lat, placed := s.cycle, slot := k.cur.slot, num := k.cur.num, bundle := k.cur.bundle, llb := true, latch := false, writes := ws, vas := vas }] }

/-- The write of a kind-I destination, room reserved for a push (R154, R319). -/
def State.wrI (s : State) (d : IOp) (x : Word) : Wr × State :=
  match d with
  | .s n => (Wr.scalar n x, s)
  | .q n =>
    let room := if s.core.cur.latched then s.core.cur.room else s.core.stageOf n.toNat
    ({ kind := .push, idx := n.toNat, mask := ones, val := x.setWidth 2048, room := room },
     if s.core.cur.latched then s else s.reserveQ s.me room)

/-- Room that a held operation reserved for a push it will not make is given back (R319). -/
def State.dropRoom (s : State) (d : IOp) : State :=
  match d with
  | .s _ => s
  | .q _ => if s.core.cur.latched then s.unreserveQ s.me s.core.cur.room else s

/-- A kind-I result. -/
def State.landI (s : State) (lat : Nat) (d : IOp) (x : Word) : State := (s.wrI d x).2.land lat [(s.wrI d x).1]

/-- The write of a predicate destination; p0 discards it (R58). -/
def State.wrP (s : State) (d : POp) (mask x : Word) : Wr :=
  { kind := .pred, idx := pPhys s.bases.2 d.toNat, mask := mask, val := x.setWidth 2048, room := 0 }
/-- A predicate result: the bits of `mask` take those of `x`. -/
def State.landP (s : State) (lat : Nat) (d : POp) (mask x : Word) : State := s.land lat [s.wrP d mask x]

/-- The write of a vector destination under a lane mask. -/
def State.wrV (s : State) (d : VOp) (mask : Word) (x : VReg) : Wr :=
  { kind := .vector, idx := vPhys s.bases.1 d.toNat, mask := mask, val := x, room := 0 }
/-- A vector result: the lanes of `mask` take those of `x`. -/
def State.landV (s : State) (lat : Nat) (d : VOp) (mask : Word) (x : VReg) : State := s.land lat [s.wrV d mask x]

end Sys2Proof.Machine
end

