-- ==== Sys2Proof/Machine/Views.lean ====
section
/-! DEFINITION. Decoded views through the format windows (R127 to R131), the checks of all lanes of an access
(R257, R263), and what a load reads (R266). -/

namespace Sys2Proof.Machine

/-! ## Format windows -/

/-- EN of a window (R127). -/
def FmtWin.on (f : FmtWin) : Bool := f.ctl.getLsbD 0
/-- SFMT. -/
def FmtWin.sfmt (f : FmtWin) : Nat := (f.ctl.extractLsb' 12 4).toNat
/-- Bytes of a decoded element (R128). -/
def FmtWin.size (f : FmtWin) : Nat := if f.ctl.extractLsb' 8 4 = 0 then 2 else 4
/-- VBASE × 4096. -/
def FmtWin.base (f : FmtWin) : Nat := 4096 * (f.view.extractLsb' 12 40).toNat
/-- SBASE × 256. -/
def FmtWin.source (f : FmtWin) : Nat := (f.src.extractLsb' 8 44).toNat * 256
/-- ELEMS. -/
def FmtWin.elems (f : FmtWin) : Nat := (f.len.extractLsb' 0 40).toNat
/-- SCLADDR. -/
def FmtWin.scale (f : FmtWin) : Nat := (f.scl.extractLsb' 0 52).toNat
/-- SCALED, which N4X ignores. -/
def FmtWin.scaled (f : FmtWin) : Bool := f.ctl.getLsbD 1 && f.sfmt != 3

/-- The lowest enabled window of die `d` that covers a view address (R128). -/
def State.windowAt (s : State) (d a : Nat) : Option FmtWin :=
  ((List.range 16).map fun w => Store.get FmtWin.none (s.dieAt d).fmtwin w).find? fun f =>
    f.on && f.base ≤ a && a < f.base + f.elems * f.size

/-- The source bytes of element `j` of a window, and its scale byte, as addresses of the die's map (R129). -/
def FmtWin.bytesFor (f : FmtWin) (j : Nat) : List Nat :=
  (match f.sfmt with
   | 0 | 1 | 5 => [f.source + j]
   | 3 => (List.range 18).map fun k => f.source + 18 * (j / 32) + k
   | _ => [f.source + j / 2]) ++ (if f.scaled then [f.scale + j / 32] else [])

/-- The value of element `j` from its source bytes (R129). -/
def FmtWin.value (f : FmtWin) (j : Nat) (b : List Byte) : Except N4xFault Ex :=
  let x := (b.getD 0 0).toNat
  let nib := if j % 2 = 0 then x % 16 else x / 16
  let sc := fun (v : Ex) => if f.scaled then v.e8m0 (b.getD 1 0).toNat else v
  match f.sfmt with
  | 0 => .ok (sc (decodeF .e4m3 false x))
  | 1 => .ok (sc (decodeF .e5m2 false x))
  | 2 => .ok (sc (decodeF .fp4 false nib))
  | 3 => (decodeN4x b).map fun l => l.getD (j % 32) .nan
  | 4 => .ok (sc (Ex.ofInt (BitVec.ofNat 4 nib).toInt))
  | _ => .ok (sc (Ex.ofInt (BitVec.ofNat 8 x).toInt))

/-- A decoded element stored in DFMT, RoundNE with subnormals kept (R129). -/
def FmtWin.stored (f : FmtWin) (x : Ex) : Nat :=
  roundF (if f.size = 2 then .bf16 else .fp32) .rne false false 0 x

/-- Byte of view address `a` on node `n`, source bytes read through `rd` (R128, R129); the fault of its block,
or none where no window covers it. -/
def State.viewByte (s : State) (rd : Nat → Byte) (n a : Nat) : Except FCode Byte :=
  match s.windowAt (n % 4) a with
  | none => .error .pageNotPresent
  | some f =>
    let j := (a - f.base) / f.size
    match f.value j ((f.bytesFor j).map fun pa => rd (s.nk n pa)) with
    | .ok x => .ok (BitVec.ofNat 8 (f.stored x / 256 ^ ((a - f.base) % f.size)))
    | .error .reserved => .error .reservedField
    | .error .format => .error .format

/-- The source keys that a view read of `n` bytes at `a` touches. -/
def State.viewKeys (s : State) (node a n : Nat) : List Nat :=
  (List.range n).flatMap fun k =>
    match s.windowAt (node % 4) (a + k) with
    | some f => (f.bytesFor ((a + k - f.base) / f.size)).map (s.nk node)
    | none => []

/-- `n` view bytes from `a` upwards; a decoding fault names the first byte it met, a missing window none. -/
def State.viewRead (s : State) (rd : Nat → Byte) (node a : Nat) : Nat → Except (FCode × Option Nat) (List Byte)
  | 0 => .ok []
  | n + 1 =>
    match s.viewRead rd node a n with
    | .error e => .error e
    | .ok l =>
      match s.viewByte rd node (a + n) with
      | .ok b => .ok (l ++ [b])
      | .error .pageNotPresent => .error (.pageNotPresent, none)
      | .error c => .error (c, some (a + n))

/-- The window and the block of 32 elements in which a view address lies (R128, R129). -/
def State.viewBlock (s : State) (node a : Nat) : Option (FmtWin × Nat) :=
  (s.windowAt (node % 4) a).map fun f => (f, (a - f.base) / f.size / 32)

/-- The address of a view read's fault: the lowest view address that the access, as runs of `n` view bytes by node,
touched in the faulting block (R129). -/
def State.viewLowest (s : State) (runs : List (Nat × Nat)) (n node a : Nat) : Nat :=
  (runs.flatMap fun x => if x.1 = node then (List.range n).map (x.2 + ·) else []).foldl
    (fun best b => if b < best && s.viewBlock node b == s.viewBlock node a then b else best) a

/-! ## Lanes (R257, R263, R264) -/

/-- EA of R263. -/
def ea (a : Word) (off : Int) : Word := addOffset a (BitVec.ofInt 64 off)

/-- What the checks of all lanes of an access answer (R257). -/
inductive Got where
  | ok (l : List (Nat × Word × Loc))
  | restart (p : Word)
  | fail (c : FCode) (p : Word)
  deriving DecidableEq, Repr

/-- The lanes' answers in ascending lane order: a restart event comes before any fault, then the fault of the
lowest lane (R257). -/
def gather (rs : List (Nat × Word × Reach)) : Got :=
  match rs.find? fun x => x.2.2 == Reach.absent with
  | some x => .restart x.2.1
  | none =>
    match rs.findSome? fun x => match x.2.2 with
      | .fail c => some (c, x.2.1)
      | .at_ _ | .absent => none with
    | some (c, p) => .fail c p
    | none => .ok (rs.filterMap fun x => match x.2.2 with
      | .at_ l => some (x.1, x.2.1, l)
      | .fail _ | .absent => none)

/-- The places of an access that are view addresses, by node (R128). -/
def viewRuns (ls : List (Nat × Word × Reach)) : List (Nat × Nat) :=
  ls.filterMap fun x => match x.2.2 with
    | .at_ l => if l.tag = 2 then some (l.node, l.key) else none
    | .fail _ | .absent => none

/-- A lane of a read whose place is a view address fails with its decoding (R128, R129); other lanes stay. -/
def State.viewLane (s : State) (e n : Nat) (runs : List (Nat × Nat)) (x : Nat × Word × Reach) : Nat × Word × Reach :=
  match x.2.2 with
  | .at_ l =>
    if l.tag ≠ 2 then x
    else match s.viewRead (s.view e) l.node l.key n with
      | .ok _ => x
      | .error (c, none) => (x.1, x.2.1, .fail c)
      | .error (c, some a) => (x.1, BitVec.ofNat 64 (s.viewLowest runs n l.node a), .fail c)
  | .fail _ | .absent => x

/-- Every lane of an access checked by Access (R263), by `chk` after it, and a decoded view by its decoding: the lowest
faulting lane decides (R257). -/
def State.lanesAt (s : State) (kind : AccKind) (n : Nat) (vector : Bool) (chk : Loc → Option FCode)
    (ptrs : List (Nat × Word)) : Got :=
  let rs := ptrs.map fun x => (x.1, x.2,
    match s.access s.me x.2 kind n x.1 vector with
    | .at_ l => match chk l with
      | some c => .fail c
      | none => .at_ l
    | r => r)
  gather (if (viewRuns rs).isEmpty then rs else rs.map (s.viewLane s.me n (viewRuns rs)))

/-- The translations an access used may be kept (R258). -/
def State.keepLeaves (s : State) (ls : List (Nat × Word × Loc)) : State :=
  ls.foldl (fun t x => t.keepLeaf s.me x.2.2) s

/-- The latency of R264; none is LATENCY_CLASS. -/
def timedLatency (cls : Nat) (vector : Bool) (l : Loc) : Option Nat :=
  match l.tag with
  | 3 => none
  | 4 => some 14
  | 5 => some (if vector then 5 else 4)
  | 6 => some 3
  | 7 => some 48
  | _ => if 1 ≤ l.cls && l.cls ≤ cls then some (if cls = 1 then 96 else if cls = 2 then 640 else 2048) else none

/-- The check of R264 that follows Translate. -/
def latencyCheck (cls : Nat) (vector : Bool) (l : Loc) : Option FCode :=
  if (timedLatency cls vector l).isNone then some .latencyClass else none

/-- The `n` bytes at a place as core `e` reads them (R266), or the fault of a decoded view with the view address it
met, if it names one. -/
def State.loadAt (s : State) (e : Nat) (l : Loc) (n : Nat) : Except (FCode × Option Nat) Word × State :=
  if l.tag = 2 then
    match s.viewRead (s.view e) l.node l.key n with
    | .ok bs => (.ok (BitVec.ofNat 64 (natOf bs)), s.touch e (s.viewKeys l.node l.key n))
    | .error f => (.error f, s)
  else (.ok (s.coreRead e l.key n).1, (s.coreRead e l.key n).2)

/-- Every lane's bytes, or the fault of the lowest lane; nothing is kept of a read that faults. `runs` are the view
addresses of the whole access. -/
def State.loadAll (s : State) (e n : Nat) (runs : List (Nat × Nat)) :
    List (Nat × Word × Loc) → Except (FCode × Word) (List (Nat × Word)) × State
  | [] => (.ok [], s)
  | x :: xs =>
    match s.loadAt e x.2.2 n with
    | (.error (c, none), _) => (.error (c, x.2.1), s)
    | (.error (c, some a), _) => (.error (c, BitVec.ofNat 64 (s.viewLowest runs n x.2.2.node a)), s)
    | (.ok v, t) =>
      match t.loadAll e n runs xs with
      | (.error f, _) => (.error f, s)
      | (.ok vs, u) => (.ok ((x.1, v) :: vs), u)

/-- The view addresses among some places, by node. -/
def locRuns (ls : List (Nat × Word × Loc)) : List (Nat × Nat) :=
  ls.filterMap fun x => if x.2.2.tag = 2 then some (x.2.2.node, x.2.2.key) else none

/-- The bytes whose order against the core's own accesses matters to a read of `n` bytes at a place: its own, or for a
decoded view the source bytes (R131). -/
def State.readKeys (s : State) (n : Nat) (l : Loc) : List Nat :=
  if l.tag = 2 then s.viewKeys l.node l.key n else (List.range n).map (l.key + ·)

/-- What R259 asks of a translation in use: the page size of the leaf, and its MIG. -/
def Loc.pageOf (l : Loc) : Nat × Bool :=
  match l.leaf with
  | some f => (f.2.1, f.2.2.getLsbD 2)
  | none => (4096, false)

/-- A timed load of `n` bytes a lane: checks, values at issue, then `k` with the latency, the values and the
global pointers (R264 to R266, R273). -/
def State.timedLoad (s : State) (cls n : Nat) (vector : Bool) (ptrs : List (Nat × Word))
    (k : Nat → List (Nat × Word) → List (Word × Nat × Bool) → State → Out) : Out :=
  match s.lanesAt .read n vector (latencyCheck cls vector) ptrs with
  | .restart p => s.restartAt p
  | .fail c p => s.fail c p
  | .ok ls =>
    match (s.keepLeaves ls).loadAll s.me n (locRuns ls) ls with
    | (.error (c, p), t) => t.fail c p
    | (.ok vs, t) =>
      k ((ls.map fun x => (timedLatency cls vector x.2.2).getD 0).foldl max 0) vs
        (ls.filterMap fun x => if x.2.2.tag ≤ 2 then
          some (x.2.1, x.2.2.pageOf) else none) t

/-- The result of a timed load lands, in the load landing buffer if it reached a global lane (R265). -/
def State.landTimed (s : State) (lat : Nat) (ws : List Wr) (vas : List (Word × Nat × Bool)) : State :=
  if vas.isEmpty then s.land lat ws else s.landLoad lat ws vas

/-- The value of a lane among some. -/
def laneVal (vs : List (Nat × Word)) (j : Nat) : Word :=
  match vs.find? fun x => x.1 == j with
  | some x => x.2
  | none => 0

/-- The low `n` bytes of a word, extended to 64 bits (R268). -/
def extendBytes (x : Word) (n : Nat) (sx : Bool) : Word := fieldOf x 0 (8 * n) sx

/-- The true lanes of a mask with their pointers. -/
def trueLanes (m : Word) (p : Nat → Word) : List (Nat × Word) :=
  ((List.range 64).filter fun j => m.getLsbD j).map fun j => (j, p j)

/-- The pointer of lane `j` of LDV and STV (R272). -/
def ptrV (a : Word) (imm : BitVec 16) (j : Nat) : Word :=
  if tagOf a = 6 then ea a imm.toInt else ea a (imm.toInt + 4 * j)
/-- The pointer of lane `j` of LDVS and STVS (R272). -/
def ptrS (a b c : Word) (g j : Nat) : Word := ea a (((j % 2 ^ g : Nat) : Int) * b.toInt + ((j / 2 ^ g : Nat) : Int) * c.toInt)
/-- The pointer of lane `j` of LDVG and STVX (R272). -/
def ptrX (a : Word) (b : VReg) (scale : BitVec 2) (j : Nat) : Word := ea a ((lane b j).toInt * 2 ^ scale.toNat)

end Sys2Proof.Machine
end

