-- ==== Sys2Proof/Machine/MemAccess.lean ====
section
/-! DEFINITION. Loads, stores, queued loads, atomics, remote operations and PREF (R262 to R284, R329 to R332),
and the events that perform and complete them. -/

namespace Sys2Proof.Machine

/-! ## Operations in flight (R73, R267) -/

/-- A variable-latency operation of the slot that performs, its operands latched. -/
def State.newPend (s : State) (d a b c : Word) : Pend :=
  { id := s.core.nextId, op := { s.core.cur with latched := true, d := d, a := a, b := b, c := c }, own := s.core.owner,
    due := s.cycle + 1 + s.draw.1, keys := [], vas := [], locs := [], peer := false, perf := false, acked := false,
    res := [], dest := [], fault := none, seq := 0, sent := 0, lastTx := 0, left := [], fenced := false, blk := [] }

/-- It starts: its barrier goes up and it takes its number; its latency is the oracle's (log entry 1). -/
def State.startPend (s : State) (p : Pend) : State :=
  (s.draw.2).modCore fun k => { k.barUp s.core.cur.bar with pend := k.pend ++ [p], nextId := k.nextId + 1 }

/-- The operation with a number. -/
def Core.pendOf (c : Core) (id : Nat) : Option Pend := c.pend.find? fun p => p.id == id
/-- An operation changed. -/
def State.setPend (s : State) (p : Pend) : State :=
  s.modCore fun k => { k with pend := k.pend.map fun q => if q.id = p.id then p else q }

/-- One register write of a completion on core `e`: a push goes where R319 reserved room, any other write only
to the run that asked for it; while that run is frozen, the write waits in the core for its resume (R144). -/
def State.completeWrite (s : State) (e slot : Nat) (o : Owner) (w : Wr) : State :=
  if w.kind = .push then s.write e slot w
  else if !(s.coreAt e).owns o then s
  else if (s.coreAt e).frozen then
    s.modCoreAt e fun c => { c with
      land := c.land ++ [{ due := s.cycle, placed := s.cycle, slot := slot, num := 0, bundle := 0, llb := false, latch := false,
                           writes := [w], vas := [] }] }
  else s.write e slot w

/-- The operation is over: it leaves the core and its barrier goes down. -/
def State.dropPend (s : State) (p : Pend) : State :=
  s.modCore fun k =>
    let k' : Core := { k with pend := k.pend.filter fun q => q.id != p.id }
    if k.owns p.own then k'.barDown s.cycle p.op.bar else k'

/-- It completes with its destination's values. -/
def State.finishPend (s : State) (p : Pend) (vals : List VReg) : State :=
  ((p.dest.zip vals).foldl (fun t x => t.completeWrite t.me p.op.slot p.own { x.1 with val := x.2 }) s).dropPend p

/-- It ends with a fault (R136): reserved room is given back, and its stream entry holds zero (R330). -/
def State.faultPend (s : State) (p : Pend) (c : FCode) (addr : Word) : State :=
  let t := p.dest.foldl (fun (t : State) w =>
    if w.kind = .push then t.unreserveQ t.me w.room else t) s
  (t.dropPend p).lateFault s.me p.own { code := c, addr := addr, slot := p.op.slot, bundle := p.op.bundle, hard := false }

/-- Whether an operation has bound (R305). -/
def Pend.bound (p : Pend) : Bool :=
  match p.op.instr with
  | .st .. | .stv .. | .stvs .. | .stvx .. | .tst .. => p.acked
  | _ => p.perf

/-- The byte that a read at the home returns to core `e`: its own unperformed write, else the home (R266,
R295); a store to read-only bytes is ignored (R22, R312). -/
def State.homeView (s : State) (e k : Nat) : Byte :=
  if s.ignoresWrite k then s.byteAt k
  else
  match gateByte (s.coreAt e).gate k with
  | some b => b
  | none =>
    if isGlobal k && ((s.coreAt e).line k).dirty.getLsbD (k % 128) then ((s.coreAt e).cached k).getD 0 else s.byteAt k
/-- `n` such bytes. -/
def State.homeNat (s : State) (e k n : Nat) : Nat := natOf ((List.range n).map fun j => s.homeView e (k + j))

/-- The places of some offsets of a target node, as reads find them now (R256). -/
def State.peerKeys (s : State) (n : Nat) (xs : List Nat) : List Nat :=
  xs.filterMap fun x =>
    match s.peerAccess n (x % 2 ^ 52) .read with
    | .at_ l => some l.key
    | .fail _ | .absent => none

/-- The words that a chase from element `x` will still reach, as memory stands (R282): the links and the last element;
`fuel` bounds its hops. -/
def State.chaseOffsets (s : State) (n f : Nat) : Nat → Nat → List Nat
  | 0, x => (List.range 6).map fun i => x + 8 * i
  | fuel + 1, x =>
    match s.peerKeys n [x + f] with
    | [] => [x + f]
    | k :: _ =>
      let y := s.homeNat s.me k 8
      (x + f) :: if y = 0 then (List.range 6).map fun i => x + 8 * i else s.chaseOffsets n f fuel y

/-- The offsets that a remote operation reaches at its target, as memory stands (R282). -/
def State.ropOffsets (s : State) (p : Pend) : List Nat :=
  let n := (p.op.a.extractLsb' 52 8).toNat
  let o := (p.op.a.extractLsb' 0 52).toNat
  match p.op.instr with
  | .ropMcas _ _ _ _ m _ => (List.range (m.toNat + 1)).map fun i => o + 8 * i
  | .ropEnq .. =>
    let y := match s.peerKeys n [o + 8] with
      | k :: _ => s.homeNat s.me k 8
      | [] => 0
    [o, o + 8, (p.blk.headD 0).toNat] ++ if y = 0 then [] else [y]
  | .ropChase _ _ _ _ h _ => s.chaseOffsets n (p.blk.headD 0).toNat (h.toNat + 1 - p.left.getD 1 0) (p.left.getD 0 o)
  | _ => []

/-- Where the bytes of an operation lie at their home: as translated at issue, through its peer pointers (R256), or where a
remote operation's words lead (R282). -/
def State.homeKeys (s : State) (p : Pend) : List Nat :=
  p.keys.map (·.2) ++ (match p.op.instr with
    | .pfxl .. => p.keys.map (·.2 + 8)
    | _ => []) ++
    if !p.peer then []
    else (p.vas.flatMap fun v => s.peerKeys (v.extractLsb' 52 8).toNat [(v.extractLsb' 0 52).toNat])
      ++ s.peerKeys (p.op.a.extractLsb' 52 8).toNat (s.ropOffsets p)

/-- Whether an operation is a remote operation, which may reach bytes that its pointer does not name (R282). -/
def Pend.rop (p : Pend) : Bool :=
  match p.op.instr with
  | .ropMcas .. | .ropEnq .. | .ropChase .. => true
  | _ => false

/-- Whether two operations through peer pointers may reach the same bytes of their targets. -/
def Pend.meets (p q : Pend) : Bool :=
  p.peer && q.peer && (p.rop || q.rop || p.vas.any fun x => q.vas.any fun y => x.toNat / 128 == y.toNat / 128)

/-- Whether an earlier operation holds this one at its home: a FENCEO between them (R306), or an earlier one on the same
bytes that is not performed (R266). -/
def State.heldAtHome (s : State) (p : Pend) : Bool :=
  s.core.pend.any fun q => q.id < p.id && ((q.fenced && !q.bound)
    || (!q.perf && (p.meets q || (s.homeKeys q).any fun x => (s.homeKeys p).any fun y => x < y + 8 && y < x + 8)))

/-- The order of an operation's atomic, and its scope (R274, R281). -/
def ordOf (i : Instr) : Ord × Scope :=
  match i with
  | .atom _ _ _ _ _ _ _ o sc | .cas _ _ _ _ _ _ o _ sc => (o, sc)
  | .ropMcas _ _ _ _ _ o | .ropEnq _ _ _ _ o | .ropChase _ _ _ _ _ o => (o, .part)
  | _ => (.relaxed, .core)
/-- Whether an order releases. -/
def Ord.rel : Ord → Bool
  | .rel | .ar => true
  | .relaxed | .acq => false
/-- Whether an order acquires. -/
def Ord.acquires : Ord → Bool
  | .acq | .ar => true
  | .relaxed | .rel => false

/-- A scope no wider than the widest that the space of a tag has (R277, R289). -/
def clipScope (tag : Nat) (sc : Scope) : Scope :=
  match tag, sc with
  | 5, _ | 6, _ => .core
  | 4, .die | 4, .pkg | 4, .part => .crew
  | 7, .pkg | 7, .part => .die
  | _, sc => sc

/-- Whether an operation in flight holds back a release: an earlier load that has not read its value, an earlier atomic of
the package that is not performed (R302). -/
def Pend.unsettled (p : Pend) : Bool :=
  match p.op.instr with
  | .ldq .. | .ldvq .. | .tld .. | .shmld .. => !p.perf
  | .atom .. | .cas .. => !p.peer && !p.perf
  | _ => false

/-- The scope of a TLBI's release (R261). -/
def tlbiScope (sc : TlbScope) : Scope :=
  match sc with
  | .core => .core
  | .die => .die
  | .pkg => .pkg
  | .part => .part

/-- The scope at which an operation in flight releases, if it does (R292, R297, R416). -/
def Pend.releases (p : Pend) : Option Scope :=
  match p.op.instr with
  | .tlbi _ _ _ sc => some (tlbiScope sc)
  | .specc .. | .speca .. => some .die
  | i => if Ord.rel (ordOf i).1 then some (clipScope (tagOf p.op.a) (ordOf i).2) else none

/-- Whether the release of the operation still waits: for earlier loads and atomics (R302), at partition scope for
acknowledgements (R297, R303). -/
def Core.relWaits (k : Core) (p : Pend) : Bool :=
  match p.releases with
  | none => false
  | some sc => k.pend.any fun q => q.id < p.id && (q.unsettled || (sc == .part && q.peer && !q.acked))

/-- Whether some release of the core has begun and still waits (R292, R293). -/
def Core.releasing (k : Core) : Bool := k.pend.any k.relWaits

/-! ## Scalar and vector loads (R268 to R273) -/

/-- LD (R269). -/
def execLd (c : Ctl) (d : IOp) (a : BitVec 5) (imm : BitVec 16) (cls : BitVec 2) (sx : Bool) (w : BitVec 2)
    (s : State) : Out :=
  s.scalarSlot c [] [d] fun t =>
    let n := 2 ^ w.toNat
    t.timedLoad cls.toNat n false [(0, ea (t.src .a (.s a)) imm.toInt)] fun lat vs vas u =>
      let (x, v) := u.wrI d (extendBytes (laneVal vs 0) n sx)
      .next (v.landTimed lat [x] vas)

/-- The lanes of a vector load land together (R273). -/
def State.vectorLoad (s : State) (m : Word) (d : VOp) (cls : BitVec 2) (p : Nat → Word) : Out :=
  s.timedLoad cls.toNat 4 true (trueLanes m p) fun lat vs vas u =>
    .next (u.landTimed lat [u.wrV d m (ofLanes fun j => (laneVal vs j).setWidth 32)] vas)

/-- LDV (R273). -/
def execLdv (c : Ctl) (d : VOp) (a : BitVec 5) (imm : BitVec 16) (cls : BitVec 2) (s : State) : Out :=
  s.vectorSlot c [] [] fun m t => t.vectorLoad m d cls (ptrV (t.src .a (.s a)) imm)

/-- LDVS (R273). -/
def execLdvs (c : Ctl) (d : VOp) (a b e : IOp) (gl : BitVec 3) (cls : BitVec 2) (s : State) : Out :=
  s.vectorSlot c [a, b, e] [] fun m t =>
    t.vectorLoad m d cls (ptrS (t.src .a a) (t.src .b b) (t.src .c e) gl.toNat)

/-- LDVG (R273). -/
def execLdvg (c : Ctl) (d : VOp) (a : IOp) (b : VOp) (scale cls : BitVec 2) (s : State) : Out :=
  s.vectorSlot c [a] [] fun m t => t.vectorLoad m d cls (ptrX (t.src .a a) (t.srcV .b b) scale)

/-! ## Stores (R138, R270, R273) -/

/-- A read of the core that is not yet made reads now, before a later store of its own reaches the same bytes
(R266). -/
def State.readPend (s : State) (p : Pend) (n : Nat) : State :=
  match s.loadAll s.me n (locRuns p.locs) p.locs with
  | (.error (c, a), t) => t.setPend { p with perf := true, fault := some (c, a) }
  | (.ok vs, t) => t.setPend { p with perf := true, res := (List.range 64).map (laneVal vs) }

/-- The bytes that a queued read of a core reads at each of its places. -/
def pendBytes (p : Pend) : Nat :=
  match p.op.instr with
  | .ldq _ _ _ _ _ w => 2 ^ w.toNat
  | .shmld .. => 8
  | _ => p.left.headD 4

/-- Whether an operation is a queued read that has not read (R305). -/
def Pend.unread (p : Pend) : Bool :=
  !p.perf && match p.op.instr with
    | .ldq .. | .ldvq .. | .tld .. | .shmld .. => true
    | _ => false

/-- The queued loads that a store to some bytes must not overtake read first; one that is held at its home, or reads through
a peer pointer, keeps the store from issuing (State.linesFree). -/
def State.bindReads (s : State) (ks : List (Nat × Nat)) : State :=
  (s.core.pend.filter fun p => p.unread && !p.peer && !s.heldAtHome p &&
    p.keys.any fun x => ks.any fun y => x.2 < y.1 + y.2 && y.1 < x.2 + 8).foldl
    (fun t p => t.readPend p (pendBytes p)) s

/-- A store of lanes of `n` bytes: all lanes are checked, then it enters the closed gate, is performed, or is
sent to its target (R138, R267, R270, R273); a lane to read-only bytes is ignored and raises nothing (R22, R312). -/
def State.storeLanes (s : State) (opc : BitVec 10) (n : Nat) (vector : Bool) (lanes : List (Nat × Word))
    (val : Nat → Word) : Out :=
  match s.lanesAt .write n vector (fun _ => none) lanes with
  | .restart p => s.restartAt p
  | .fail c p => s.fail c p
  | .ok ls =>
    let t := (s.keepLeaves ls).bindReads (ls.filterMap fun x => if x.2.2.tag = 3 then none else some (x.2.2.key, n))
    let gl := (ls.filter fun x => x.2.2.tag = 3 || !s.ignoresWrite x.2.2.key).map fun x =>
      ({ lane := x.1, tag := x.2.2.tag, key := x.2.2.key, val := val x.1 } : GateLane)
    if gl.isEmpty then .next t
    else if gl.any (·.tag == 3) then
      let u := t.commitGate t.me
      let p := u.newPend 0 0 0 0
      .next (u.startPend { p with
        peer := true, keys := [], vas := ls.map (·.2.1), blk := ls.map fun x => val x.1,
        left := [n] })
    else if t.core.gateClosed then
      if 64 ≤ t.core.gate.length then t.fail .gateOverflow (lanes.headD (0, 0)).2
      else .next (t.modCore fun k => { k with
        gate := k.gate ++ [{ opc := opc, bundle := k.cur.bundle, bytes := n, lanes := gl }] })
    else
      .next (gl.foldl (fun u l => u.coreStore u.me l.key (bytesOf n l.val.toNat)) (t.commitGate t.me))

/-- ST (R270). -/
def execSt (c : Ctl) (d : IOp) (a : BitVec 5) (imm : BitVec 16) (w : BitVec 2) (s : State) : Out :=
  s.scalarSlot c [d] [] fun t =>
    t.storeLanes 0x142 (2 ^ w.toNat) false [(0, ea (t.src .a (.s a)) imm.toInt)] fun _ => t.src .d d

/-- The data of lane `j` of a vector store. -/
def laneWord (x : VReg) (j : Nat) : Word := (lane x j).setWidth 64

/-- STV (R273). -/
def execStv (c : Ctl) (d : VOp) (a : BitVec 5) (imm : BitVec 16) (s : State) : Out :=
  s.vectorSlot c [] [] fun m t =>
    t.storeLanes 0x147 4 true (trueLanes m (ptrV (t.src .a (.s a)) imm)) (laneWord (t.srcV .d d))

/-- STVS (R273). -/
def execStvs (c : Ctl) (d : VOp) (a b e : IOp) (gl : BitVec 3) (s : State) : Out :=
  s.vectorSlot c [a, b, e] [] fun m t =>
    t.storeLanes 0x148 4 true (trueLanes m (ptrS (t.src .a a) (t.src .b b) (t.src .c e) gl.toNat))
      (laneWord (t.srcV .d d))

/-- STVX (R273). -/
def execStvx (c : Ctl) (d : VOp) (a : IOp) (b : VOp) (scale : BitVec 2) (s : State) : Out :=
  s.vectorSlot c [a] [] fun m t =>
    t.storeLanes 0x149 4 true (trueLanes m (ptrX (t.src .a a) (t.srcV .b b) scale)) (laneWord (t.srcV .d d))

/-! ## Queued loads (R329 to R332) -/

/-- A queued load in flight: what it reads is kept as places until it reads (R305), `left` the bytes at each. -/
def State.startRead (s : State) (n : Nat) (ls : List (Nat × Word × Loc)) (dest : List Wr) (left : List Nat) : State :=
  let t := s.keepLeaves ls
  let p := t.newPend 0 0 0 0
  t.startPend { p with
    peer := ls.any fun x => x.2.2.tag == 3,
    keys := ls.flatMap fun x =>
      if x.2.2.tag = 3 then [] else if x.2.2.tag = 2 then (t.readKeys n x.2.2).map (x.1, ·) else [(x.1, x.2.2.key)],
    vas := ls.map (·.2.1), locs := ls, dest := dest, left := left }

/-- LDQ (R330). -/
def execLdq (c : Ctl) (d : BitVec 3) (a : BitVec 5) (imm : BitVec 16) (_sx : Bool) (w : BitVec 2) (s : State) : Out :=
  s.scalarSlot c [] [] fun t =>
    if qKind (Store.get 0 t.core.qtab d.toNat) ≠ 1 then t.fail .queueUnmapped 0
    else
      match t.lanesAt .read (2 ^ w.toNat) false (fun _ => none) [(0, ea (t.src .a (.s a)) imm.toInt)] with
      | .restart p => t.restartAt p
      | .fail c p => t.fail c p
      | .ok ls =>
        let id := t.core.nextId
        .next ((t.startRead (2 ^ w.toNat) ls [] []).modCore fun k => { k with
          streams := Store.set Stream.none k.streams d.toNat
            { Store.get Stream.none k.streams d.toNat with
              owed := (Store.get Stream.none k.streams d.toNat).owed ++ [(id, none)] } })

/-- The fault of a queue-table descriptor (R317, R318), for a task of a stage. -/
def bindFault (x : Word) (stage : Nat) : Option FCode :=
  if 5 ≤ qKind x || x.extractLsb' 6 54 != 0 || (qKind x ≤ 1 && x.extractLsb' 0 6 != 0)
      || ((qKind x == 2 || qKind x == 3) && x.extractLsb' 2 4 != 0) then some .reservedField
  else if (qKind x == 2 && stage == 0) || (qKind x == 3 && stage == 15) then some .queueUnmapped
  else none

/-- LDQ.bind (R331). -/
def execLdqBind (c : Ctl) (d : BitVec 3) (a : BitVec 5) (imm : BitVec 16) (s : State) : Out :=
  s.scalarSlot c [] [] fun t =>
    let p := ea (t.src .a (.s a)) imm.toInt
    if tagOf p < 4 || 7 < tagOf p then t.fail .latencyClass p
    else t.timedLoad 0 8 false [(0, p)] fun lat vs _ u =>
      match bindFault (laneVal vs 0) (u.core.special 4).toNat with
      | some f => u.fail f p
      | none => .next (u.land lat
          [{ kind := .bind, idx := d.toNat, mask := ones, val := (laneVal vs 0).setWidth 2048, room := 0 }])

/-- LDVQ (R332). -/
def execLdvq (c : Ctl) (d : VOp) (a : BitVec 5) (imm : BitVec 16) (s : State) : Out :=
  s.vectorSlot c [] [] fun m t =>
    match t.lanesAt .read 4 true (fun _ => none) (trueLanes m (ptrV (t.src .a (.s a)) imm)) with
    | .restart p => t.restartAt p
    | .fail c p => t.fail c p
    | .ok ls => .next (t.startRead 4 ls [t.wrV d m 0] [])

/-! ## Atomics (R274 to R277) -/

/-- A number as a signed one of `8n` bits. -/
def signedN (n x : Nat) : Int := if x < 2 ^ (8 * n - 1) then x else (x : Int) - 2 ^ (8 * n)

/-- The new value of an atomic on `n` bytes (R275). -/
def atomNew (op : AtomOp) (n x v k : Nat) : Nat :=
  match op with
  | .add => (x + v) % 2 ^ (8 * n)
  | .and => x &&& v
  | .or => x ||| v
  | .xor => x ^^^ v
  | .min => if signedN n v < signedN n x then v else x
  | .max => if signedN n x < signedN n v then v else x
  | .minu => min x v
  | .maxu => max x v
  | .swap => v
  | .inc => if k ≤ x then 0 else x + 1
  | .dec => if x = 0 ∨ k < x then k else x - 1
  | .fadd => roundF .fp32 .rne false false 0 ((decodeF .fp32 false x).add false (decodeF .fp32 false v))

/-- What an atomic or CAS writes over old value `x`, none for a failed CAS. -/
def atomWrites (p : Pend) (x : Nat) : Option Nat :=
  match p.op.instr with
  | .atom _ _ _ _ _ op w64 _ _ =>
    let n := if w64 then 8 else 4
    some (atomNew op n x (p.op.b.toNat % 2 ^ (8 * n)) (p.op.c.toNat % 2 ^ (8 * n)))
  | .cas _ _ _ _ _ w64 _ _ _ =>
    let n := if w64 then 8 else 4
    if x = p.op.b.toNat % 2 ^ (8 * n) then some (p.op.c.toNat % 2 ^ (8 * n)) else none
  | _ => none

/-- The width in bytes of an atomic. -/
def atomBytes (i : Instr) : Nat :=
  match i with
  | .atom _ _ _ _ _ _ w64 _ _ | .cas _ _ _ _ _ w64 _ _ _ => if w64 then 8 else 4
  | _ => 8

/-- The atomic is performed at a key of its home (R276); the reply is the old value and whether it wrote. -/
def State.performAtom (s : State) (p : Pend) (key : Nat) : List Word × State :=
  let n := atomBytes p.op.instr
  let x := s.natAt key n
  match atomWrites p x with
  | some y => ([BitVec.ofNat 64 x, 1], s.perform (some s.me) 2 key (bytesOf n y))
  | none => ([BitVec.ofNat 64 x, 0], s)

/-- An atomic of the slot that performs: the gate is committed, the pointer checked, the release of its order
made, its own earlier stores to the location performed, and it is in flight (R276, R296, R297). -/
def State.startAtom (s : State) (d : IOp) (p b c : Word) (n : Nat) (ord : Ord) (scope : Scope) : Out :=
  let t := s.commitGate s.me
  match t.lanesAt .rw n false (fun _ => none) [(0, p)] with
  | .restart q => t.restartAt q
  | .fail f q => t.fail f q
  | .ok ls =>
    let t := t.keepLeaves ls
    let t := if Ord.rel ord then t.releaseLines t.me (clipScope (tagOf p) scope) else t
    let ks := ls.filterMap fun x => if x.2.2.tag = 3 then none else some (x.1, x.2.2.key)
    let t := t.performKeys t.me (ks.flatMap fun x => (List.range n).map (x.2 + ·))
    let (w, u) := t.wrI d 0
    let q := u.newPend 0 p b c
    .next ((u.startPend { q with
      peer := ls.any fun x => x.2.2.tag == 3, keys := ks, vas := [p], locs := ls, dest := [w], seq := u.core.mantisSeq + 1 }).modCore fun k =>
        if ls.any fun x => x.2.2.tag == 3 then { k with mantisSeq := k.mantisSeq + 1 } else k)

/-- ATOM (R276). -/
def execAtom (c : Ctl) (d a b e : IOp) (op : AtomOp) (w64 : Bool) (ord : Ord) (scope : Scope) (s : State) : Out :=
  s.scalarSlot c (if op = .inc ∨ op = .dec then [a, b, e] else [a, b]) [d] fun t =>
    t.startAtom d (t.src .a a) (t.src .b b) (if op = .inc ∨ op = .dec then t.src .c e else 0) (if w64 then 8 else 4)
      ord scope

/-- CAS (R276). -/
def execCas (c : Ctl) (d a b e : IOp) (w64 : Bool) (sord : Ord) (_facq : Bool) (scope : Scope) (s : State) : Out :=
  s.scalarSlot c [a, b, e] [d] fun t =>
    t.startAtom d (t.src .a a) (t.src .b b) (t.src .c e) (if w64 then 8 else 4) sord scope

/-- ATOMIC_PERFORM: an atomic on a location of this package is performed once nothing earlier holds it (R277). -/
def execAtomicPerform (id : Nat) (s : State) : Out :=
  match s.core.pendOf id with
  | none => .next s
  | some p =>
    match p.op.instr with
    | .atom .. | .cas .. =>
      if p.peer || p.perf || s.cycle < p.due || s.heldAtHome p || s.core.relWaits p then .next s
      else
        let key := (p.keys.headD (0, 0)).2
        let ks := (List.range (atomBytes p.op.instr)).map (key + ·)
        let (r, t) := (s.performKeys s.me ks).performAtom p key
        let u := if r.getD 1 0 = 1 then t.dropKeys t.me ks else t
        .next (u.draw.2.setPend { p with perf := true, res := r, due := s.cycle + u.draw.1 })
    | _ => .next s

/-! ## The Mantis unit (R278 to R283) -/

/-- Where a node's Mantis unit is kept: with its die, or under the node's number for another package. -/
def State.mantisDie (s : State) (n : Nat) : Nat := if s.ownNode n then n % 4 else 4 + n

/-- What a Mantis unit answers: words, a fault, a wait for a migratable page, or that it goes on after a hop of a chase. -/
inductive Reply where
  | words (r : List Word)
  | fault (c : FCode)
  | wait
  | hop (at_ : List Nat)
  deriving DecidableEq, Repr

/-- The place of target offset `x` for an access of a kind (R256, R282). -/
def State.targetKey (s : State) (n x : Nat) (kind : AccKind) : Except Reply Nat :=
  match s.peerAccess n (x % 2 ^ 52) kind with
  | .at_ l => .ok l.key
  | .fail c => .error (.fault c)
  | .absent => .error .wait

/-- The places of some target offsets, or the first answer that is none. -/
def State.targetKeys (s : State) (n : Nat) (kind : AccKind) : List Nat → Except Reply (List Nat)
  | [] => .ok []
  | x :: xs =>
    match s.targetKey n x kind with
    | .error r => .error r
    | .ok k =>
      match s.targetKeys n kind xs with
      | .error r => .error r
      | .ok ks => .ok (k :: ks)

/-- The earlier stores of the requesting core, where it is one of this package, to bytes that its operation reaches come
first (R266, R296). -/
def State.ownFirst (s : State) (e : Option Nat) (ks : List Nat) : State :=
  match e with
  | some c => s.performKeys c ks
  | none => s

/-- Its phase cache gives up the bytes that the operation has written, which count as its own writes (R295, R296). -/
def State.ownWrote (s : State) (e : Option Nat) (ks : List Nat) : State :=
  match e with
  | some c => s.dropKeys c ks
  | none => s

/-- The bytes of some words. -/
def wordKeys (ks : List Nat) : List Nat := ks.flatMap fun k => (List.range 8).map (k + ·)

/-- A word written at its home by a remote operation. -/
def State.pokeWord (s : State) (k : Nat) (x : Word) : State := s.perform none 2 k (bytesOf 8 x.toNat)

/-- ROP.mcas at the unit (R282). -/
def State.mcas (s : State) (e : Option Nat) (n o cnt : Nat) (blk : List Word) : Reply × State :=
  if o % 8 ≠ 0 ∨ (o + 8 * cnt - 1) / 64 ≠ o / 64 then (.fault .align, s)
  else
    match s.targetKeys n .rw ((List.range cnt).map fun i => o + 8 * i) with
    | .error r => (r, s)
    | .ok ks =>
      let s := s.ownFirst e (wordKeys ks)
      let old := ks.map s.wordAt
      if old = blk.take cnt then
        (.words (0 :: 0 :: old), ((ks.zip (blk.drop 4)).foldl (fun t x => t.pokeWord x.1 x.2) s).ownWrote e (wordKeys ks))
      else (.words (1 :: 0 :: old), s)

/-- ROP.enq at the unit (R282). -/
def State.enq (s : State) (e : Option Nat) (n o : Nat) (blk : List Word) : Reply × State :=
  let x := blk.headD 0
  if o % 16 ≠ 0 ∨ x.toNat % 8 ≠ 0 then (.fault .align, s)
  else
    match s.targetKeys n .rw [o, o + 8, x.toNat] with
    | .error r => (r, s)
    | .ok ks =>
      let head := ks.getD 0 0
      let tail := ks.getD 1 0
      let s := s.ownFirst e (wordKeys ks)
      let y := s.wordAt tail
      match if y = 0 then .ok head else s.targetKey n y.toNat .rw with
      | .error r => (r, s)
      | .ok link =>
        let s := s.ownFirst e (wordKeys [link])
        (.words [2, 0, y], (((s.pokeWord (ks.getD 2 0) 0).pokeWord link x).pokeWord tail x).ownWrote e
          (wordKeys [ks.getD 2 0, link, tail]))

/-- The end of ROP.chase at element `x` after `k` hops (R282): the 48 bytes may cross a page. -/
def State.chaseEnd (s : State) (e : Option Nat) (n x k : Nat) (full : Bool) : Reply × State :=
  match s.targetKeys n .read ((List.range 48).map fun i => x + i) with
  | .error r => (r, s)
  | .ok ks =>
    let s := s.ownFirst e ks
    (.words ((if full then 3 else 4) :: BitVec.ofNat 64 k :: BitVec.ofNat 64 x :: BitVec.ofNat 64 k ::
      ((List.range 6).map fun i => BitVec.ofNat 64 (natOf ((List.range 8).map fun j => s.byteAt (ks.getD (8 * i + j) 0))))), s)

/-- One hop of ROP.chase from element `x` after `k` hops of at most `cnt`: a read of its own (R278, R282). -/
def State.chase (s : State) (e : Option Nat) (n f cnt x k : Nat) : Reply × State :=
  if cnt ≤ k then s.chaseEnd e n x k true
  else if (x + f) % 8 ≠ 0 then (.fault .align, s)
  else
    match s.targetKey n (x + f) .read with
    | .error r => (r, s)
    | .ok key =>
      let s := s.ownFirst e (wordKeys [key])
      if s.wordAt key = 0 then s.chaseEnd e n x k false else (.hop [(s.wordAt key).toNat, k + 1], s)

/-- The unit of the target node performs a request, or the next hop of one (R280, R282); `e` is the requesting core of this
package. -/
def State.unitPerform (s : State) (e : Option Nat) (p : Pend) : Reply × State :=
  let n := (p.op.a.extractLsb' 52 8).toNat
  let o := (p.op.a.extractLsb' 0 52).toNat
  match p.op.instr with
  | .ropMcas _ _ _ _ m _ => s.mcas e n o (m.toNat + 1) p.blk
  | .ropEnq .. => s.enq e n o p.blk
  | .ropChase _ _ _ _ h _ => s.chase e n (p.blk.headD 0).toNat (h.toNat + 1) (p.left.getD 0 o) (p.left.getD 1 0)
  | i =>
    match s.peerAccess n o .rw with
    | .fail c => (.fault c, s)
    | .absent => (.wait, s)
    | .at_ l =>
      let ks := (List.range (atomBytes i)).map (l.key + ·)
      let (r, t) := (s.ownFirst e ks).performAtom p l.key
      (.words r, if r.getD 1 0 = 1 then t.ownWrote e ks else t)

/-- What a unit does with a request of a source (R280): the reply, none when it answers nothing now, and the
operation ends as expired where `expired` is set. -/
structure Handled where
  reply   : Option Reply
  expired : Bool
  st      : State

/-- The unit's kept answer of a sequence number. -/
def MantisSrc.kept (m : MantisSrc) (q : BitVec 32) : Option (Option (List Word × Option FCode)) :=
  (m.replies.find? fun x => x.1 == q).map (·.2)

/-- A source's state with the answer of a number kept, and numbers more than 63 below H dropped (R280). -/
def MantisSrc.keep (m : MantisSrc) (q : BitVec 32) (r : Option (List Word × Option FCode)) : MantisSrc :=
  let h := if m.lost || 0 < (q - m.h).toInt then q else m.h
  { h := h, lost := false,
    replies := ((q, r) :: (if m.lost then [] else m.replies.filter fun x => x.1 != q)).filter fun x => -63 ≤ (x.1 - h).toInt }

/-- The unit works on a request of source `src`, and keeps its answer, or that it is still being performed (R280). -/
def State.unitRun (s : State) (src : Nat) (e : Option Nat) (p : Pend) : Handled :=
  let d := s.mantisDie (p.op.a.extractLsb' 52 8).toNat
  let m := Store.get MantisSrc.none (s.dieAt d).mantis src
  let (r, t) := s.unitPerform e p
  let kept := match r with
    | .words ws => some (ws, none)
    | .fault c => some ([], some c)
    | .wait | .hop _ => none
  { reply := some r, expired := false,
    st := t.modDie d fun x => { x with mantis := Store.set MantisSrc.none x.mantis src (m.keep p.seq kept) } }

/-- A request with sequence number p.seq reaches the unit of its target (R280). -/
def State.unitReceive (s : State) (src : Nat) (e : Option Nat) (p : Pend) (retx : Bool) : Handled :=
  let m := Store.get MantisSrc.none (s.dieAt (s.mantisDie (p.op.a.extractLsb' 52 8).toNat)).mantis src
  if m.lost && retx then { reply := none, expired := true, st := s }
  else if !m.lost && (p.seq - m.h).toInt < -63 then { reply := none, expired := true, st := s }
  else
    match (if m.lost then none else m.kept p.seq) with
    | some (some (ws, f)) =>
      { reply := some (match f with | some c => .fault c | none => .words ws), expired := false, st := s }
    | some none => { reply := none, expired := false, st := s }
    | none => s.unitRun src e p

/-- A request that the unit is still performing goes on: its next hop, or its next try for a migratable page (R256,
R280). -/
def State.unitGoOn (s : State) (src : Nat) (e : Option Nat) (p : Pend) : Handled :=
  let m := Store.get MantisSrc.none (s.dieAt (s.mantisDie (p.op.a.extractLsb' 52 8).toNat)).mantis src
  if !m.lost && m.kept p.seq == some none then s.unitRun src e p else { reply := none, expired := false, st := s }

/-- What a unit's answer makes of the operation; the oracle says whether a reply is lost (R278 to R280). -/
def State.replied (h : Handled) (q : Pend) : State :=
  if h.expired then (h.st.setPend q).faultPend q .remoteIndeterminate q.op.a
  else
    match h.reply with
    | some (.words ws) =>
      let t := h.st.draw.2
      let q := { q with perf := true, keys := match q.op.instr with
        | .atom .. | .cas .. => (h.st.homeKeys q).map (0, ·)
        | _ => q.keys }
      if h.st.draw.1 % 2 = 1 then t.setPend q
      else t.setPend { q with acked := true, res := ws, due := t.cycle + 1 + h.st.draw.1 / 2 }
    | some (.fault c) => h.st.setPend { q with perf := true, acked := true, fault := some (c, q.op.a), due := h.st.cycle + 1 }
    | some .wait => h.st.setPend { q with due := 4096 + h.st.cycle }
    | some (.hop l) => h.st.setPend { q with left := l, due := h.st.cycle + 1 }
    | none => h.st.setPend q

/-- A transmission of a request of the core whose turn it is (R279). -/
def State.transmit (s : State) (p : Pend) (retx : Bool) : State :=
  State.replied (s.unitReceive s.me (some s.me) p retx) { p with sent := p.sent + 1, lastTx := s.cycle }

/-- Whether an operation is a Mantis request (R278). -/
def Pend.mantis (p : Pend) : Bool :=
  match p.op.instr with
  | .ropMcas .. | .ropEnq .. | .ropChase .. => true
  | .atom .. | .cas .. => p.peer
  | _ => false

/-- The fields of a slot word that a request of another package does not have. -/
def plainCtl : Ctl := { guard := 0, gneg := false, rtag := none, sticky := false, stepV := false, stepR := 0 }

/-- A request of a core of another package as a unit of this package takes it (R278). -/
def foreignPend (x : MantisExt) : Pend :=
  { id := 0,
    op := { SlotOp.none with a := x.p, b := x.b, c := x.c, latched := true, instr :=
      match x.op with
      | .atom op w64 => .atom plainCtl (.s 0) (.s 0) (.s 0) (.s 0) op w64 .relaxed .core
      | .cas w64 => .cas plainCtl (.s 0) (.s 0) (.s 0) (.s 0) w64 .relaxed false .core
      | .mcas m => .ropMcas plainCtl (.s 0) (.s 0) (.s 0) m .relaxed
      | .enq => .ropEnq plainCtl (.s 0) (.s 0) (.s 0) .relaxed
      | .chase h => .ropChase plainCtl (.s 0) (.s 0) (.s 0) h .relaxed },
    own := { task := 0, crew := 0, cont := 0, run := 0 }, due := 0, keys := [], vas := [x.p], locs := [], peer := true,
    perf := false, acked := false, res := [], dest := [], fault := none, seq := x.seq, sent := 1, lastTx := 0,
    left := x.hops, fenced := false, blk := x.blk }

/-- A request of another package's core at a unit of this package: it arrives, or the unit goes on with it (R280). Its
reply leaves the package. -/
def State.foreignMantis (s : State) (x : MantisExt) : State :=
  let p := foreignPend x
  let src := 1024 + 256 * x.node.toNat + x.core.toNat
  if tagOf x.p ≠ 3 || !s.ownNode (x.p.extractLsb' 52 8).toNat || s.ownNode x.node.toNat || !s.member x.node.toNat then s
  else
    let h := if x.going then s.unitGoOn src none p else s.unitReceive src none p x.retx
    let later := fun (n : Nat) (l : List Nat) => h.st.modPkg fun g => { g with
      foreign := g.foreign ++ [(h.st.cycle + n, .mantisRequest (.ext { x with going := true, hops := l }))] }
    match h.reply with
    | some .wait => later 4096 x.hops
    | some (.hop l) => later 1 l
    | some (.words _) | some (.fault _) | none => h.st

/-- MANTIS_REQUEST: the first transmission, or the unit's further work on a request; or a request of another package (R278
to R280). -/
def execMantisRequest (r : MantisReq) (s : State) : Out :=
  match r with
  | .ext x => .next (s.foreignMantis x)
  | .own id =>
    match s.core.pendOf id with
    | none => .next s
    | some p =>
      if !p.mantis || p.perf || s.cycle < p.due || s.heldAtHome p || s.core.relWaits p then .next s
      else if p.sent = 0 then .next (s.transmit p false)
      else .next (State.replied (s.unitGoOn s.me (some s.me) p) p)

/-- MANTIS_RETRANSMIT: no reply for 32,768 cycles; the eighth unanswered transmission ends the operation
(R279). -/
def execMantisRetransmit (id : Nat) (s : State) : Out :=
  match s.core.pendOf id with
  | none => .next s
  | some p =>
    if !p.mantis || p.acked || p.sent = 0 || s.cycle < 32768 + p.lastTx then .next s
    else if 8 ≤ p.sent then .next (s.faultPend p .remoteIndeterminate p.op.a)
    else .next (s.transmit p true)

/-- ROP: the checks of R282 at issue, the operand block read, and the request in flight. -/
def State.startRop (s : State) (d : IOp) (p q : Word) (ord : Ord) : Out :=
  if tagOf p ≠ 3 then s.fail .spaceTag p
  else if tagOf q ≠ 5 then s.fail .spaceTag q
  else if q.extractLsb' 0 6 ≠ 0 then s.fail .align q
  else
    match s.access s.me q .rw 64 0 false with
    | .fail c => s.fail c q
    | .absent => s.restartAt q
    | .at_ l =>
      let t := s.commitGate s.me
      if !t.reachable (p.extractLsb' 52 8).toNat then t.fail .remoteUnreachable p
      else
        let t := if Ord.rel ord then t.releaseLines t.me .part else t
        let blk := (List.range 8).map fun i => t.viewWord t.me (l.key + 8 * i)
        let (w, u) := t.wrI d 0
        let r := u.newPend 0 p q 0
        .next ((u.startPend { r with
          peer := true, keys := (List.range 8).map fun i => (i, l.key + 8 * i), vas := [p], dest := [w], seq := u.core.mantisSeq + 1, blk := blk }).modCore
          fun k => { k with mantisSeq := k.mantisSeq + 1 })

/-- ROP.mcas (R282). -/
def execRopMcas (c : Ctl) (d a b : IOp) (_nM1 : BitVec 2) (ord : Ord) (s : State) : Out :=
  s.scalarSlot c [a, b] [d] fun t => t.startRop d (t.src .a a) (t.src .b b) ord
/-- ROP.enq (R282). -/
def execRopEnq (c : Ctl) (d a b : IOp) (ord : Ord) (s : State) : Out :=
  s.scalarSlot c [a, b] [d] fun t => t.startRop d (t.src .a a) (t.src .b b) ord
/-- ROP.chase (R282). -/
def execRopChase (c : Ctl) (d a b : IOp) (_hM1 : BitVec 4) (ord : Ord) (s : State) : Out :=
  s.scalarSlot c [a, b] [d] fun t => t.startRop d (t.src .a a) (t.src .b b) ord

/-! ## Peer loads and stores (R256) -/

/-- A store of another package's core to a node of this package (R256); for an absent migratable page it waits. -/
def State.foreignStore (s : State) (x : PeerExt) : State :=
  if tagOf x.p ≠ 3 || !s.ownNode (x.p.extractLsb' 52 8).toNat || offOf x.p % 2 ^ x.w.toNat ≠ 0 then s
  else
    match s.peerAccess (x.p.extractLsb' 52 8).toNat (x.p.extractLsb' 0 52).toNat .write with
    | .at_ l => s.perform none 1 l.key (bytesOf (2 ^ x.w.toNat) x.val.toNat)
    | .fail _ => s
    | .absent => s.modPkg fun g => { g with foreign := g.foreign ++ [(s.cycle + 4096, .peerRequest (.ext x))] }

/-- PEER_REQUEST: a load or store through tag 0x3 reaches its target, which translates every lane, then performs
it or answers a fault (R256, R257); or a store of another package's core arrives. -/
def execPeerRequest (r : PeerReq) (s : State) : Out :=
  match r with
  | .ext x => .next (s.foreignStore x)
  | .own id =>
  match s.core.pendOf id with
  | none => .next s
  | some p =>
    if !p.peer || p.mantis || p.perf || s.cycle < p.due || s.heldAtHome p then .next s
    else
      let store := match p.op.instr with
        | .st .. | .stv .. | .stvs .. | .stvx .. | .tst .. => true
        | _ => false
      let rs := (p.vas.zip (List.range 64)).map fun x =>
        (x.2, x.1, s.peerAccess (x.1.extractLsb' 52 8).toNat (x.1.extractLsb' 0 52).toNat (if store then .write else .read))
      match gather rs with
      | .restart _ => .next (s.setPend { p with due := 4096 + s.cycle })
      | .fail c v => .next (s.setPend { p with perf := true, acked := true, fault := some (c, v), due := s.cycle + 1 })
      | .ok ls =>
        let n := pendBytes p
        let t := if store then
            ((ls.zip p.blk).foldl (fun u x =>
              (u.flushKeys u.me ((List.range n).map (x.1.2.2.key + ·))).perform (some u.me) 1 x.1.2.2.key (bytesOf n x.2.toNat)) s)
          else s
        let res := ls.map fun x => BitVec.ofNat 64 (s.homeNat s.me x.2.2.key n)
        .next (t.draw.2.setPend { p with perf := true, acked := !store, res := res, due := s.cycle + 1 + t.draw.1 })

/-- REMOTE_WRITE_ACK: the acknowledgement of a remote write completes it (R267). -/
def execRemoteWriteAck (id : Nat) (s : State) : Out :=
  match s.core.pendOf id with
  | none => .next s
  | some p =>
    match p.op.instr with
    | .st .. | .stv .. | .stvs .. | .stvx .. | .tst .. =>
      if !p.perf || s.cycle < p.due then .next s
      else
        match p.fault with
        | some (c, a) => .next (s.faultPend p c a)
        | none => .next (s.dropPend p)
    | _ => .next s

/-! ## Completion (R267) -/

/-- The values in ascending true lanes of a guard, as a vector. -/
def spreadLanes (m : Word) (vs : List Word) : VReg :=
  ofLanes fun j => (vs.getD ((List.range j).filter fun i => m.getLsbD i).length 0).setWidth 32

/-- The filled entries at the head of a stream enter it, in the order their LDQs issued (R330). -/
def drainStream (now : Nat) (q : Stream) : List (Nat × Option Word) → Stream
  | (id, none) :: l => { q with owed := (id, none) :: l }
  | (_, some x) :: l => drainStream now { q with ready := q.ready ++ [{ val := x, at_ := now, src := 0 }] } l
  | [] => { q with owed := [] }

/-- The value of a queued load fills its reserved entry. -/
def State.fillStream (s : State) (d : Nat) (id : Nat) (x : Word) : State :=
  s.modCore fun k =>
    let q := Store.get Stream.none k.streams d
    { k with
      streams := Store.set Stream.none k.streams d
        (drainStream s.cycle q (q.owed.map fun y => if y.1 = id then (id, some x) else y)) }

/-- An access ends with a fault (R136); a queued load's entry is filled with zero (R330). -/
def State.failAccess (s : State) (p : Pend) (c : FCode) (a : Word) : State :=
  (match p.op.instr with
    | .ldq _ d .. => s.fillStream d.toNat p.id 0
    | _ => s).faultPend p c a

/-- The reply words of a ROP go into its block, and its status word is made (R283). -/
def State.ropReply (s : State) (p : Pend) : Word × State :=
  let kind := p.res.getD 0 0
  let t := (p.res.drop 2).zip (List.range 8) |>.foldl (fun t x =>
    t.coreStore t.me (spadKey t.me (offOf p.op.b + 8 * x.2)) (bytesOf 8 x.1.toNat)) s
  (kind <<< 60 ||| p.res.getD 1 0, t)

/-- What the acquire order of a completed operation asks (R297). -/
def acquiresAtEnd (p : Pend) : Bool :=
  match p.op.instr with
  | .cas _ _ _ _ _ _ sord facq _ => if p.res.getD 1 0 = 1 then Ord.acquires sord else facq
  | i => Ord.acquires (ordOf i).1

/-- An access whose value has been read or whose reply has come writes its destination and its barrier goes down
(R267, R330, R332). -/
def State.completeAccess (s : State) (id : Nat) : Out :=
  match s.core.pendOf id with
  | none => .next s
  | some p =>
    if s.cycle < p.due then .next s
    else
      match p.op.instr with
      | .atom .. | .cas .. | .ropMcas .. | .ropEnq .. | .ropChase .. =>
        if !p.perf || (p.mantis && !p.acked) then .next s
        else
          match p.fault with
          | some (c, a) => .next (s.faultPend p c a)
          | none =>
            let t := if acquiresAtEnd p then s.acquire s.me else s
            let t := t.dropKeys t.me (p.keys.flatMap fun x => lineKeys x.2)
            match p.op.instr with
            | .atom .. | .cas .. => .next (t.finishPend p [(p.res.getD 0 0).setWidth 2048])
            | _ => .next ((t.ropReply p).2.finishPend p [(t.ropReply p).1.setWidth 2048])
      | .ldq _ d _ _ sx w =>
        if !p.perf then
          if p.peer || s.heldAtHome p then .next s
          else .next (s.readPend p (2 ^ w.toNat))
        else
          match p.fault with
          | some (c, a) => .next (s.failAccess p c a)
          | none =>
            let q := Store.get Stream.none s.core.streams d.toNat
            if q.owed.any fun y => y.1 < p.id && y.2.isNone then .next s
            else .next ((s.fillStream d.toNat p.id (extendBytes (p.res.getD 0 0) (2 ^ w.toNat) sx)).dropPend p)
      | .ldvq .. =>
        if !p.perf then
          if p.peer || s.heldAtHome p then .next s
          else .next (s.readPend p 4)
        else
          match p.fault with
          | some (c, a) => .next (s.faultPend p c a)
          | none =>
            .next (s.finishPend p (p.dest.map fun w =>
              if p.peer then spreadLanes w.mask p.res else ofLanes fun j => (p.res.getD j 0).setWidth 32))
      | .tld .. =>
        if !p.perf then
          if p.peer || s.heldAtHome p then .next s
          else .next (s.readPend p (p.left.headD 4))
        else
          match p.fault with
          | some (c, a) => .next (s.faultPend p c a)
          | none => .next (s.finishPend p [(p.res.getD 0 0).setWidth 2048])
      | _ => .next s

/-- PREF changes no value that any read returns (R284). -/
def execPref (c : Ctl) (_a : BitVec 5) (_imm : BitVec 16) (_l2only : Bool) (s : State) : Out :=
  s.scalarSlot c [] [] fun t => .next t

end Sys2Proof.Machine
end

