-- ==== Sys2Proof/Machine/Maps.lean ====
section
/-! DEFINITION. The mesh descriptor and sharding maps: validity, shards, storage and Resolve (R365 to R372). -/

namespace Sys2Proof.Machine

/-! ## The mesh (R365, R366) -/

/-- The length of axis `k`. -/
def axisLen (mesh : Word) (k : Nat) : Nat := (mesh.extractLsb' (16 * k) 8).toNat + 1
/-- The node stride of axis `k`. -/
def axisStride (mesh : Word) (k : Nat) : Nat := (mesh.extractLsb' (16 * k + 8) 8).toNat
/-- Whether axis `k` is used. -/
def axisUsed (mesh : Word) (k : Nat) : Bool := 1 < axisLen mesh k
/-- The four axes. -/
def axes : List Nat := [0, 1, 2, 3]

/-- The coordinates of a node (R366). -/
def coordsOf (mesh : Word) (node : Nat) : List Nat :=
  axes.map fun k => if axisUsed mesh k then node / axisStride mesh k % axisLen mesh k else 0
/-- The node at some coordinates (R366). -/
def nodeAt (mesh : Word) (c : List Nat) : Nat := (axes.map fun k => c.getD k 0 * axisStride mesh k).sum
/-- The nodes of a mesh. -/
def meshNodes (mesh : Word) : Nat := (axes.map (axisLen mesh)).prod

/-- The stride that R366 asks of axis `k`: the product of the lengths of the used axes before it when they are sorted by their
strides. -/
def strideDue (mesh : Word) (k : Nat) : Nat :=
  ((axes.filter fun j => axisUsed mesh j && (axisStride mesh j < axisStride mesh k
    || (axisStride mesh j == axisStride mesh k && j < k))).map (axisLen mesh)).prod
/-- Whether a MESH value is one that R366 allows for a partition of `n` nodes. -/
def meshOk (mesh : Word) (n : Nat) : Bool :=
  meshNodes mesh == n && n ≤ 256
    && (axes.all fun k => if axisUsed mesh k then axisStride mesh k == strideDue mesh k else axisStride mesh k == 0)

/-! ## The fields of a map (R367, R368) -/

/-- FMT. -/
def mFmt (m : List Word) : Nat := ((m.getD 0 0).extractLsb' 36 4).toNat
/-- RANK. -/
def mRank (m : List Word) : Nat := ((m.getD 0 0).extractLsb' 33 3).toNat
/-- The code of axis `k`. -/
def mCode (m : List Word) (k : Nat) : Nat := ((m.getD 0 0).extractLsb' (16 + 4 * k) 4).toNat
/-- Word of dimension `d`. -/
def mDim (m : List Word) (d : Nat) : Word := m.getD (1 + d) 0
/-- EXT. -/
def mExt (m : List Word) (d : Nat) : Nat := ((mDim m d).extractLsb' 32 32).toNat
/-- MODE: whether BALANCED. -/
def mMode (m : List Word) (d : Nat) : Bool := (mDim m d).getLsbD 31
/-- HLO. -/
def mLo (m : List Word) (d : Nat) : Nat := ((mDim m d).extractLsb' 16 8).toNat
/-- HHI. -/
def mHi (m : List Word) (d : Nat) : Nat := ((mDim m d).extractLsb' 8 8).toNat
/-- PADM. -/
def mPad (m : List Word) (d : Nat) : Nat := ((mDim m d).extractLsb' 0 8).toNat
/-- BASE. -/
def mBase (m : List Word) : Word := m.getD 7 0

/-- Bits of an element; an N4X block has 144 for 32 elements (R367). -/
def fmtBits (f : Nat) : Nat :=
  match f with
  | 0 | 9 => 32
  | 1 | 2 => 16
  | 3 | 4 | 7 => 8
  | 10 => 64
  | _ => 4

/-! ## Shards (R370) -/

/-- Where a tensor's dimension is cut: the axis codes and the modes, with the halos of a state (R377). -/
structure Layout where
  codes : List Nat
  modes : List Bool
  lo    : List Nat
  hi    : List Nat
  deriving DecidableEq, Repr

/-- The layout that a map names; codes of unused axes count as replicate (R367). -/
def layoutOf (mesh : Word) (m : List Word) : Layout :=
  { codes := axes.map fun k => if axisUsed mesh k then mCode m k else 0,
    modes := (List.range (mRank m)).map (mMode m), lo := (List.range (mRank m)).map (mLo m),
    hi := (List.range (mRank m)).map (mHi m) }

/-- The axes that split dimension `d`. -/
def Layout.splits (l : Layout) (d : Nat) : List Nat := axes.filter fun k => l.codes.getD k 0 == d + 1
/-- k of R370. -/
def Layout.parts (mesh : Word) (l : Layout) (d : Nat) : Nat := ((l.splits d).map (axisLen mesh)).prod
/-- The shard index of coordinates in dimension `d`: the lowest axis is the most significant. -/
def Layout.shardIx (mesh : Word) (l : Layout) (c : List Nat) (d : Nat) : Nat :=
  (l.splits d).foldl (fun u a => u * axisLen mesh a + c.getD a 0) 0

/-- Start and length of shard `u` of `k` of an extent `n` (R370). -/
def shardOf (balanced : Bool) (n k u : Nat) : Nat × Nat :=
  if balanced then
    let q := n / k
    let r := n % k
    (u * q + min u r, if u < r then q + 1 else q)
  else
    let b := (n + k - 1) / k
    let s := min (u * b) n
    (s, min ((u + 1) * b) n - s)

/-- The shard that owns an index (R370). -/
def ownerOf (balanced : Bool) (n k i : Nat) : Nat :=
  ((List.range k).find? fun u =>
    (shardOf balanced n k u).1 ≤ i && i < (shardOf balanced n k u).1 + (shardOf balanced n k u).2).getD 0

/-- The shard of a node in dimension `d` of extent `n`. -/
def Layout.shard (mesh : Word) (l : Layout) (n : Nat) (c : List Nat) (d : Nat) : Nat × Nat :=
  shardOf (l.modes.getD d false) n (l.parts mesh d) (l.shardIx mesh c d)

/-- Coordinates with the axes of dimension `d` set so that its shard index is `u`: the highest axis is the least
significant. -/
def setShard (mesh : Word) : List Nat → Nat → List Nat → List Nat
  | [], _, c => c
  | a :: as, u, c => setShard mesh as (u / axisLen mesh a) (c.set a (u % axisLen mesh a))

/-- The coordinates of the owner of an index, from some coordinates: axes that split nothing keep theirs (R372). -/
def Layout.owner (mesh : Word) (l : Layout) (exts idx c : List Nat) : List Nat :=
  (List.range exts.length).foldl (fun c d =>
    if (l.splits d).isEmpty then c
    else setShard mesh (l.splits d).reverse
      (ownerOf (l.modes.getD d false) (exts.getD d 0) (l.parts mesh d) (idx.getD d 0)) c) c

/-! ## Storage (R371) -/

/-- A number rounded up to a multiple; 0 and 1 pad nothing. -/
def roundUp (x p : Nat) : Nat := if p ≤ 1 then x else (x + p - 1) / p * p

/-- The stored extent of dimension `d` (R371). -/
def storedExt (mesh : Word) (m : List Word) (d : Nat) : Nat :=
  let l := layoutOf mesh m
  if (l.splits d).isEmpty then roundUp (mExt m d) (mPad m d)
  else roundUp ((mExt m d + l.parts mesh d - 1) / l.parts mesh d + mLo m d + mHi m d) (mPad m d)
/-- The stored extents of a map. -/
def storedExts (mesh : Word) (m : List Word) : List Nat := (List.range (mRank m)).map (storedExt mesh m)
/-- The bytes of some elements (R105, R106, R371). -/
def elemBytes (fmt n : Nat) : Nat := if fmt = 6 then n / 32 * 18 else n * fmtBits fmt / 8
/-- The local stored size (R371). -/
def storedSize (mesh : Word) (m : List Word) : Nat := elemBytes (mFmt m) (storedExts mesh m).prod

/-- Whether a map is valid (R369). -/
def mapValid (mesh : Word) (m : List Word) : Bool :=
  let w0 := m.getD 0 0
  let r := mRank m
  let l := layoutOf mesh m
  let b := mBase m
  1 ≤ r && r ≤ 6 && mFmt m ≤ 10 && !w0.getLsbD 32 && w0.extractLsb' 0 16 == 0
    && ((List.range r).all fun d => (mDim m d).extractLsb' 24 7 == 0 && mExt m d != 0)
    && ((List.range 6).all fun d => d < r || mDim m d == 0)
    && (axes.all fun k => !axisUsed mesh k || mCode m k == 0 || mCode m k == 8 || (mCode m k ≤ 6 && mCode m k ≤ r))
    && ((List.range r).all fun d => !(l.splits d).isEmpty || (mLo m d == 0 && mHi m d == 0))
    && ((mFmt m != 5 && mFmt m != 8 && mFmt m != 6) ||
      ((l.splits (r - 1)).isEmpty && mLo m (r - 1) == 0 && mHi m (r - 1) == 0
        && storedExt mesh m (r - 1) % (if mFmt m = 6 then 32 else 2) == 0))
    && (b.extractLsb' 60 4).toNat ≤ 1 && b.extractLsb' 52 8 == 0 && b.extractLsb' 0 6 == 0
    && (b.extractLsb' 0 52).toNat + storedSize mesh m ≤ 2 ^ 52
    && (storedExts mesh m).all fun e => e < 2 ^ 32

/-- The position of an index in the stored shard of a node (R371). -/
def storedPos (mesh : Word) (m : List Word) (c idx : List Nat) : List Nat :=
  let l := layoutOf mesh m
  (List.range (mRank m)).map fun d =>
    if (l.splits d).isEmpty then idx.getD d 0
    else idx.getD d 0 + mLo m d - (l.shard mesh (mExt m d) c d).1
/-- The row-major offset of a position (R371). -/
def elemOffset (exts pos : List Nat) : Nat := (pos.zip exts).foldl (fun o x => o * x.2 + x.1) 0

/-! ## Resolution (R372) -/

/-- Whether the node at some coordinates holds an index in a layout, halos counted where `halo` is set. -/
def Layout.holds (mesh : Word) (l : Layout) (halo : Bool) (exts idx c : List Nat) : Bool :=
  (List.range exts.length).all fun d =>
    (l.splits d).isEmpty ||
      let (s, n) := l.shard mesh (exts.getD d 0) c d
      let (lo, hi) := if halo then (l.lo.getD d 0, l.hi.getD d 0) else (0, 0)
      s ≤ idx.getD d 0 + lo && idx.getD d 0 < s + n + hi

/-- Resolve(m, idx) of R372 for node `own`. -/
def resolve (mesh : Word) (own : Nat) (m : List Word) (idx : List Nat) (write : Bool) : Except FCode Word :=
  if !mapValid mesh m then .error .mapInvalid
  else
    let l := layoutOf mesh m
    let exts := (List.range (mRank m)).map (mExt m)
    if (List.range (mRank m)).any fun d => exts.getD d 0 ≤ idx.getD d 0 then .error .range
    else if !write && l.codes.any (· == 8) then .error .partialSumRead
    else
      let own' := coordsOf mesh own
      let c := if l.holds mesh (!write) exts idx own' then own' else l.owner mesh exts idx own'
      let off := elemBytes (mFmt m) (elemOffset (storedExts mesh m) (storedPos mesh m c idx))
      let node := nodeAt mesh c
      if node = own then .ok (addOffset (mBase m) (BitVec.ofNat 64 off))
      else .ok (BitVec.ofNat 64 (3 * 2 ^ 60 + 2 ^ 52 * node + (mBase m).toNat % 2 ^ 52 + off))

/-- Map register `k` of a core (R367). -/
def Core.mapReg (c : Core) (k : Nat) : List Word := (List.range 8).map fun w => Store.get 0 c.sm (8 * k + w)
/-- Map register `k` set. -/
def Core.setMap (c : Core) (k : Nat) (ws : List Word) : Core :=
  { c with sm := (ws.zip (List.range 8)).foldl (fun m x => Store.set 0 m (8 * k + x.2) x.1) c.sm }

/-- The index words of TLD and TST as six numbers (R285). -/
def indexOf (a b c : Word) : List Nat :=
  [a, b, c].flatMap fun w => [(w.extractLsb' 0 32).toNat, (w.extractLsb' 32 32).toNat]

/-- The pointer and size of the element that TLD or TST names (R286, R287). -/
def elementAt (mesh : Word) (own : Nat) (m : List Word) (idx : List Nat) (write : Bool) : Except FCode (Word × Nat) :=
  if (List.range 6).any fun k => mRank m ≤ k && idx.getD k 0 != 0 then .error .range
  else if mFmt m == 5 || mFmt m == 8 || mFmt m == 6 then .error .format
  else
    match resolve mesh own m (idx.take (mRank m)) write with
    | .error c => .error c
    | .ok p => .ok (p, fmtBits (mFmt m) / 8)

end Sys2Proof.Machine
end

