-- ==== Sys2Proof/Machine/Shape.lean ====
section
/-! DEFINITION. What each slot instruction reads and writes, for the rules that judge a bundle before it issues:
the interlock of q registers (R319), the checking scoreboard (R72), the landing room (R173) and the values that a
held or sticky slot latches (R78, R82). -/

namespace Sys2Proof.Machine

/-- A register that an operation names. -/
inductive Ref where
  | s (n : BitVec 5)
  | q (n : BitVec 3)
  | p (n : POp)
  | v (n : VOp)
  | special (i : Nat)
  | map (k : BitVec 3)
  deriving DecidableEq, Repr

/-- A kind-I operand as a register. -/
def iref : IOp → Ref
  | .s n => .s n
  | .q n => .q n
/-- A kind-I/P operand as a register. -/
def xref : XOp → Ref
  | .i o => iref o
  | .p n => .p n

/-- The guard and the fields that every slot word has; none for an event. -/
def ctlOf (i : Instr) : Option Ctl := i.form.map (·.2)

/-- The registers that an operation's positions read (R59, R154, R183). -/
def reads (i : Instr) : List (Pos × Ref) :=
  match i with
  | .add _ _ a b .. | .sub _ _ a b .. | .mul _ _ a b .. | .mulh _ _ a b _ | .mulhu _ _ a b _ | .div _ _ a b _
  | .divu _ _ a b _ | .rem _ _ a b _ | .remu _ _ a b _ | .and _ _ a b _ | .or _ _ a b _ | .xor _ _ a b _
  | .andn _ _ a b _ | .shl _ _ a b _ | .shr _ _ a b _ | .sra _ _ a b _ | .rotr _ _ a b _ | .min _ _ a b _
  | .max _ _ a b _ | .minu _ _ a b _ | .maxu _ _ a b _ | .cmp _ _ a b .. | .lea _ _ a b _ | .spawn _ a b
  | .waits _ _ a b _ | .ropMcas _ _ a b .. | .ropEnq _ _ a b _ | .ropChase _ _ a b .. | .pfxh _ _ a b
  | .pfxl _ _ a b _ | .pfxi _ _ a b | .specb _ _ a b => [(.a, iref a), (.b, iref b)]
  | .slotsel _ a b | .cpySet _ a b _ _ | .tfetch _ _ a b _ | .mmas _ _ _ a b .. | .smm _ _ _ _ a b =>
    [(.a, iref a), (.b, iref b)]
  | .madd _ _ a b e _ | .ldvs _ _ a b e .. | .cas _ _ a b e .. | .tld _ _ a b e _ =>
    [(.a, iref a), (.b, iref b), (.c, iref e)]
  | .atom _ _ a b e op .. =>
    if op = .inc ∨ op = .dec then [(.a, iref a), (.b, iref b), (.c, iref e)] else [(.a, iref a), (.b, iref b)]
  | .stvs _ d a b e _ => [(.d, .v d), (.a, iref a), (.b, iref b), (.c, iref e)]
  | .tst _ d a b e _ => [(.d, iref d), (.a, iref a), (.b, iref b), (.c, iref e)]
  | .addi _ _ a .. | .andi _ _ a .. | .ori _ _ a .. | .xori _ _ a .. | .shli _ _ a .. | .shri _ _ a .. | .srai _ _ a ..
  | .clz _ _ a _ | .ctz _ _ a _ | .popc _ _ a _ | .abs _ _ a .. | .cmpi _ _ a .. | .lih _ _ a .. | .ext _ _ a ..
  | .ptag _ _ a _ | .msr _ a _ | .brr _ a _ | .rotset _ a .. | .fencex _ a | .shmld _ a _ | .shmst _ a _ | .kfree _ a
  | .pfxp _ _ a _ | .specc _ a | .tbind _ _ a | .tzero _ _ a | .wload _ _ a | .mma _ _ _ a .. | .tdrain _ _ _ a ..
  | .normk _ _ a .. | .aliasTab _ a | .seed _ a | .smmv _ a | .cpyl _ a _ _ | .jobq _ a | .coll _ a _ _
  | .reshard _ _ _ a .. | .wakeThr _ _ a | .linkst _ _ a => [(.a, iref a)]
  | .tlbi _ a all _ => if all then [] else [(.a, iref a)]
  | .ins _ d a .. => [(.d, iref d), (.a, iref a)]
  | .sel _ _ a b p => [(.a, iref a), (.b, iref b), (.c, .p p)]
  | .mov _ _ a => [(.a, xref a)]
  | .pand _ _ a b _ | .por _ _ a b _ | .pxor _ _ a b _ => [(.a, .p a), (.b, .p b)]
  | .pnot _ _ a | .viota _ _ a => [(.a, .p a)]
  | .ld _ _ a .. | .ldv _ _ a .. | .ldq _ _ a .. | .ldqBind _ _ a _ | .ldvq _ _ a _ => [(.a, .s a)]
  | .st _ d a .. => [(.d, iref d), (.a, .s a)]
  | .pref _ a .. => [(.a, .s a)]
  | .stv _ d a _ => [(.d, .v d), (.a, .s a)]
  | .ldvg _ _ a b .. => [(.a, iref a), (.b, .v b)]
  | .stvx _ d a b _ => [(.d, .v d), (.a, iref a), (.b, .v b)]
  | .kvst _ d a b e .. => [(.d, iref d), (.a, .v a), (.b, .v b), (.c, iref e)]
  | .cpy _ d a b .. | .cpyt _ d a b .. | .send _ d a b .. | .sendRq _ d a b .. | .kvld _ _ d a b .. =>
    [(.d, iref d), (.a, iref a), (.b, iref b)]
  | .vadd _ _ a b .. | .vsub _ _ a b .. | .vmul _ _ a b .. | .vmin _ _ a b _ | .vmax _ _ a b _ | .vcmp _ _ a b ..
  | .viadd _ _ a b .. | .visub _ _ a b .. | .vimul _ _ a b .. | .vand _ _ a b | .vor _ _ a b | .vxor _ _ a b
  | .vshl _ _ a b | .vshr _ _ a b | .vsra _ _ a b | .vimin _ _ a b _ | .vimax _ _ a b _ | .vperm _ _ a b
  | .vpack _ _ a b .. | .vqnt _ _ a b .. | .vdqnt _ _ a b .. => [(.a, .v a), (.b, .v b)]
  | .vfma _ _ a b e .. | .vfms _ _ a b e .. | .vfnma _ _ a b e .. => [(.a, .v a), (.b, .v b), (.c, .v e)]
  | .vabs _ _ a _ | .vneg _ _ a _ | .vrcp _ _ a .. | .vrsq _ _ a .. | .vexp2 _ _ a .. | .vlog2 _ _ a .. | .vtanh _ _ a ..
  | .vcvt _ _ a .. | .vred _ _ a .. | .vscan _ _ a .. | .vmov _ _ a | .vunpk _ _ a .. => [(.a, .v a)]
  | .vsel _ _ a b p => [(.a, .v a), (.b, .v b), (.c, .p p)]
  | .vslide _ _ a b _ | .vbcast _ _ a b | .vextr _ _ a b _ => [(.a, .v a), (.b, iref b)]
  | .vsplat _ _ a => [(.a, iref a)]
  | .vrope _ _ a b e .. => [(.a, .v a), (.b, .v b), (.c, iref e)]
  | _ => []

/-- Whether a vector operation rounds or flushes by FMODE: one that reads or gives a float (R110, R188). -/
def readsFmode (i : Instr) : Bool :=
  match i with
  | .vadd .. | .vsub .. | .vmul .. | .vfma .. | .vfms .. | .vfnma .. | .vmin .. | .vmax .. | .vrcp .. | .vrsq ..
  | .vexp2 .. | .vlog2 .. | .vtanh .. | .vpack .. | .vunpk .. | .vqnt .. | .vdqnt .. | .vrope .. => true
  | .vcmp _ _ _ _ _ t _ | .vred _ _ _ _ t .. | .vscan _ _ _ _ t .. => t.isFloat
  | .vcvt _ _ _ dst src .. => dst.isFloat || src.isFloat
  | .tdrain .. => true
  | _ => false

/-- The registers that an operation reads without naming them (R72, R109, R165, R178, R180, R282, R413). -/
def implicitReads (i : Instr) : List Ref :=
  (if readsFmode i then [.special 10] else []) ++
  match i with
  | .loop .. => [.special 6, .special 7, .special 8, .special 9]
  | .ret _ => [.s 31]
  | .mrs _ _ idx => [.special idx.toNat]
  | .trap .. => [.special 20, .special 31]
  | .eret _ => [.special 19, .special 31]
  | .tld _ _ _ _ _ m | .tst _ _ _ _ _ m | .shmst _ _ m => [.map m]
  | .reshard _ m n .. => [.map m, .map n]
  | .kvst .. | .kalloc .. => [.special 13, .special 14]
  | .specb .. | .specc .. | .speca _ | .kvld .. => [.special 14]
  | _ => []

/-- The q registers that an operation pops, each once (R319). -/
def pops (i : Instr) : List Nat :=
  ((reads i).filterMap fun x => match x.2 with
    | .q n => some n.toNat
    | _ => none).dedup
/-! ## The pointers of memory accesses (R263, R272, R299) -/

/-- A run of bytes as pointers judge it: tags 0x0 to 0x2 count as one (R299). -/
structure Region where
  tag : Nat
  off : Nat
  len : Nat
  deriving DecidableEq, Repr

/-- The region of `n` bytes at a pointer. -/
def region (p : Word) (n : Nat) : Region := { tag := if tagOf p ≤ 2 then 0 else tagOf p, off := offOf p, len := n }
/-- Whether two regions overlap (R299). -/
def Region.meets (x y : Region) : Bool := x.tag == y.tag && x.off < y.off + y.len && y.off < x.off + x.len
/-- Whether some regions overlap others. -/
def meetAny (xs ys : List Region) : Bool := xs.any fun x => ys.any x.meets

/-- A kind-I operand as the slots of the present issue read it, before anything is popped: the oldest entry of
a q register stands for what it will pop. -/
def State.peek (s : State) (o : IOp) : Word :=
  match o with
  | .s n => s.core.sreg n
  | .q n => match s.qEntries s.me n.toNat with
    | x :: _ => x.val
    | [] => 0

/-- The pointer of the element that a TLD or TST of the present issue names; none where it will fault (R372). -/
def State.elementPointer (s : State) (k : BitVec 3) (a b e : IOp) (write : Bool) : List (Nat × Word) × Nat :=
  match elementAt s.mesh s.node (s.core.mapReg k.toNat) (indexOf (s.peek a) (s.peek b) (s.peek e)) write with
  | .ok (p, n) => ([(0, p)], n)
  | .error _ => ([], 0)

/-- The pointers of the true lanes of a memory operation and the bytes of each; none for other operations. -/
def State.pointers (s : State) (i : Instr) (m : Word) : List (Nat × Word) × Nat :=
  match i with
  | .ld _ _ a imm _ _ w | .st _ _ a imm w | .ldq _ _ a imm _ w => ([(0, ea (s.core.sreg a) imm.toInt)], 2 ^ w.toNat)
  | .ldqBind _ _ a imm => ([(0, ea (s.core.sreg a) imm.toInt)], 8)
  | .ldv _ _ a imm _ | .stv _ _ a imm | .ldvq _ _ a imm => (trueLanes m (ptrV (s.core.sreg a) imm), 4)
  | .ldvs _ _ a b e g _ | .stvs _ _ a b e g =>
    (trueLanes m (ptrS (s.peek a) (s.peek b) (s.peek e) g.toNat), 4)
  | .ldvg _ _ a b sc _ | .stvx _ _ a b sc => (trueLanes m (ptrX (s.peek a) (s.core.vreg b) sc), 4)
  | .atom _ _ a _ _ _ w64 .. | .cas _ _ a _ _ w64 .. => ([(0, s.peek a)], if w64 then 8 else 4)
  | .ropMcas _ _ _ b .. | .ropEnq _ _ _ b _ | .ropChase _ _ _ b .. => ([(0, s.peek b)], 64)
  | .shmld _ a _ | .shmst _ a _ | .jobq _ a | .spawn _ a _ => ([(0, s.peek a)], 64)
  | .waits _ _ a _ _ => ([(0, s.peek a)], 8)
  | .waitany _ _ mask _ _ =>
    ((((List.range 8).filter (mask.getLsbD ·)).map fun j => (Store.get Cb.none s.core.cb j).addr).filter (· != 0) |>.map (0, ·), 8)
  | .pfxh _ _ _ b => ([(0, s.peek b)], 64)
  | .specb _ _ a _ => ([(0, s.peek a), (0, s.peek a + 64)], 64)
  | .pfxl _ _ a b _ =>
    (if 64 < (s.peek b).toNat then [] else (List.range (s.peek b).toNat).map fun i => (0, s.peek a + BitVec.ofNat 64 (16 * i)), 16)
  | .tld _ _ a b e k => s.elementPointer k a b e false
  | .tst _ _ a b e k => s.elementPointer k a b e true
  | _ => ([], 0)

/-- The regions that a memory operation touches. -/
def State.touched (s : State) (i : Instr) (m : Word) : List Region :=
  (s.pointers i m).1.map fun x => region x.2 (s.pointers i m).2

/-! ## Reading at issue (R82) -/

/-- The guard read now; bit 0 alone counts outside the vector slots (R57). -/
def Core.guardOf (k : Core) (slot : Nat) (i : Instr) : Word :=
  match ctlOf i with
  | none => ones
  | some c => if slot = 4 ∨ slot = 5 then k.guardNow c
    else match i with
      | .ldv .. | .ldvs .. | .ldvg .. | .stv .. | .stvs .. | .stvx .. | .ldvq .. => k.guardNow c
      | _ => k.guardNow c &&& 1

/-- The value of a register operand, q entries as the slot popped them. -/
def Core.valueOf (k : Core) (r : Ref) : Word :=
  match r with
  | .s n => k.sreg n
  | .q n => Store.get 0 k.popped n.toNat
  | .p n => k.preg n
  | .special i => k.special i
  | .v _ | .map _ => 0
/-- The vector value of a register operand. -/
def Core.vectorOf (k : Core) (r : Ref) : VReg :=
  match r with
  | .v n => k.vreg n
  | .s _ | .q _ | .p _ | .special _ | .map _ => 0

/-- A map register as one value. -/
def Core.mapVec (k : Core) (m : BitVec 3) : VReg :=
  (k.mapReg m.toNat).foldr (fun w (acc : VReg) => acc <<< 64 ||| w.setWidth 2048) 0

/-- An operation with its guard, operands, bases, mode and FMODE latched as they are now; a KVLD latches SPECW too, in the
place of the operand c it does not have (R424). -/
def Core.latchNow (k : Core) (o : SlotOp) : SlotOp :=
  let at_ := fun (p : Pos) => ((reads o.instr).find? fun x => x.1 == p).map (·.2)
  let w := fun (p : Pos) => match at_ p with
    | some r => k.valueOf r
    | none => 0
  let v := fun (p : Pos) => match at_ p with
    | some r => k.vectorOf r
    | none => 0
  let (ma, mb) := match o.instr with
    | .reshard _ m n .. => (k.mapVec m, k.mapVec n)
    | _ => (v .a, v .b)
  { o with
    latched := true, guard := k.guardOf o.slot o.instr, d := w .d, a := w .a, b := w .b,
    c := match o.instr with
      | .kvld .. => k.special 14
      | _ => w .c,
    va := ma, vb := mb, vc := v .c, vrb := k.special 8, prb := k.special 9, fmode := k.special 10, sup := k.sup,
    room := match dest o.instr with
      | some (.q n) => k.stageOf n.toNat
      | _ => 0 }

/-- The kind-I operands and destination of an operation. -/
def queueOps (i : Instr) : List IOp × List IOp :=
  ((reads i).filterMap fun x => match x.2 with
    | .s n => some (.s n)
    | .q n => some (.q n)
    | _ => none, (dest i).toList)

/-- A slot reads its operands: pops, latched values, and room reserved for a push; none where a q is not
mapped (R318, R319). A q operand of a slot with no active guard pops nothing and latches 0 (DESIGN CHOICE, log entry 84). -/
def State.readOperands (s : State) (o : SlotOp) : Option (SlotOp × State) :=
  if s.core.guardOf o.slot o.instr = 0 then some (({ s.core with popped := [] } : Core).latchNow o, s)
  else if !s.core.mapped (queueOps o.instr).1 (queueOps o.instr).2 then none
  else
    let t := (s.modCore fun k => { k with popped := [] }).popAll (pops o.instr)
    let l := t.core.latchNow o
    some (l, if (pushes o.instr).isEmpty then t else t.reserveQ t.me l.room)

end Sys2Proof.Machine
end

