-- ==== Sys2Proof/Machine/Records.lean ====
section
/-! DEFINITION. The record of a collective, its plan block and its walk (R352 to R355). -/

namespace Sys2Proof.Machine

/-! ## The record (R352, R353) -/

/-- FMT. -/
def cFmt (r : List Word) : Nat := ((r.getD 0 0).extractLsb' 60 4).toNat
/-- Levels in use. -/
def cLevels (r : List Word) : Nat := ((r.getD 0 0).extractLsb' 58 2).toNat + 1
/-- WIRE. -/
def cWire (r : List Word) : Bool := (r.getD 0 0).getLsbD 57
/-- EXACT. -/
def cExact (r : List Word) : Bool := (r.getD 0 0).getLsbD 56
/-- N. -/
def cCount (r : List Word) : Nat := ((r.getD 0 0).extractLsb' 0 32).toNat
/-- The first word of level `l`. -/
def cLevel (r : List Word) (l : Nat) : Word := r.getD (6 + 2 * l) 0
/-- The bound of level `l`. -/
def cBound (r : List Word) (l : Nat) : Nat := ((cLevel r l).extractLsb' 48 16).toNat + 1
/-- AXIS of level `l`. -/
def cAxis (r : List Word) (l : Nat) : Nat := ((cLevel r l).extractLsb' 46 2).toNat
/-- PV of level `l`. -/
def cPeer (r : List Word) (l : Nat) : Bool := (cLevel r l).getLsbD 45
/-- OP of level `l`. -/
def cOp (r : List Word) (l : Nat) : Nat := ((r.getD 14 0).extractLsb' (2 * l) 2).toNat
/-- The bytes of an element. -/
def cSize (r : List Word) : Nat :=
  match cFmt r with
  | 0 | 5 => 4
  | 1 | 2 => 2
  | _ => 1
/-- The levels in use. -/
def cUsed (r : List Word) : List Nat := List.range (cLevels r)
/-- The number of transfers. -/
def cTotal (r : List Word) : Nat := ((cUsed r).map (cBound r)).prod
/-- The operation of every transfer: that of the governing level (R354). -/
def cGovern (r : List Word) : Nat := (((cUsed r).map (cOp r)).find? (· ≠ 0)).getD 0

/-- The lowest and the highest offset that some strides reach (R354). -/
def walkEnds (r : List Word) (f : Nat → Int) : Int × Int :=
  let ends := (cUsed r).map fun l => ((cBound r l - 1 : Nat) : Int) * f l
  ((ends.map fun x => min x 0).sum, (ends.map fun x => max x 0).sum)
/-- The run of bytes from a pointer between two offsets, `n` bytes at the last (R338). -/
def endsRegion (p : Word) (n : Nat) (x : Int × Int) : Region :=
  region (addOffset p (BitVec.ofInt 64 x.1)) ((x.2 - x.1).toNat + n)
/-- The run of bytes that some strides reach from a pointer, `n` bytes at each place (R338, R354). -/
def walkRange (r : List Word) (p : Word) (n : Nat) (f : Nat → Int) : Region := endsRegion p n (walkEnds r f)
/-- The source stride of level `l`. -/
def cSourceStride (r : List Word) (l : Nat) : Int := ((r.getD (7 + 2 * l) 0).extractLsb' 32 32).toInt
/-- The source range of a collective. -/
def collSource (r : List Word) : Region :=
  walkRange r (r.getD 1 0) (cCount r * cSize r) (cSourceStride r)
/-- Its destination range at this node. -/
def collDest (r : List Word) : Region :=
  walkRange r (r.getD 2 0) (cCount r * cSize r) fun l => ((r.getD (7 + 2 * l) 0).extractLsb' 0 32).toInt
/-- The error words of its source elements, which WIRE reads and writes: four bytes for each element (R357). -/
def collErrors (r : List Word) : List Region :=
  let x := walkEnds r (cSourceStride r)
  if cWire r then [endsRegion (r.getD 4 0) (4 * cCount r) (4 * (x.1 / (cSize r : Int)), 4 * (x.2 / (cSize r : Int)))] else []
/-- The regions that a collective reads, or writes where `wr` is set (R338, R358). -/
def collReach (r : List Word) (wr : Bool) : List Region := (if wr then collDest r else collSource r) :: collErrors r

/-- Whether R353 refuses a record. -/
def collBad (mesh : Word) (r : List Word) : Bool :=
  let w0 := r.getD 0 0
  let ops := (cUsed r).map (cOp r)
  let peers := (cUsed r).filter (cPeer r)
  w0.extractLsb' 32 24 != 0 || 5 < cFmt r || cCount r == 0 || ((cUsed r).any fun l => (cLevel r l).extractLsb' 40 4 != 0)
    || ((List.range 4).any fun l => cLevels r ≤ l && (cLevel r l != 0 || r.getD (7 + 2 * l) 0 != 0 || cOp r l != 0))
    || (r.getD 14 0).extractLsb' 8 56 != 0 || ops.contains 3 || (!cWire r && r.getD 4 0 != 0)
    || !decide ((peers.map (cAxis r)).Nodup) || (peers.any fun l => !axisUsed mesh (cAxis r l)) || 2 ^ 32 < cTotal r
    || (ops.contains 1 && ops.contains 2)
    || (cWire r && (2 < cFmt r || cCount r % 64 != 0))
    || (cExact r && (ops.filter (· == 1)).length != 1)

/-- Whether a plan block is one that R355 does not allow. -/
def planBad (p : List Word) : Bool :=
  let w1 := p.getD 1 0
  w1.extractLsb' 32 32 != 0 || w1.extractLsb' 16 16 == 0 || w1.extractLsb' 0 16 == 0
    || (List.range 6).any fun i => p.getD (2 + i) 0 != 0

/-! ## The walk (R354) -/

/-- The index vector of transfer `t`: index `l` of the levels in use. -/
def walkIndex (r : List Word) (t : Nat) : List Nat :=
  (cUsed r).map fun l => t / ((List.range l).map (cBound r)).prod % cBound r l

/-- The signed sum of an index vector with some strides. -/
def dotIndex (is : List Nat) (f : Nat → Int) : Int := ((List.range is.length).map fun l => (is.getD l 0 : Int) * f l).sum

/-- The byte distance of transfer `t`'s source from SRC. -/
def srcOffset (r : List Word) (t : Nat) : Int :=
  dotIndex (walkIndex r t) (cSourceStride r)
/-- The source pointer of transfer `t`. -/
def srcOf (r : List Word) (t : Nat) : Word := addOffset (r.getD 1 0) (BitVec.ofInt 64 (srcOffset r t))
/-- The destination pointer of transfer `t` at its target. -/
def dstOf (r : List Word) (t : Nat) : Word :=
  addOffset (r.getD 2 0) (BitVec.ofInt 64 (dotIndex (walkIndex r t) fun l => ((r.getD (7 + 2 * l) 0).extractLsb' 0 32).toInt))

/-- The first source element of transfer `t`, by its place from SRC (R357). -/
def srcElem (r : List Word) (t : Nat) : Int := srcOffset r t / (cSize r : Int)
/-- The place of element `i` of transfer `t` among the error words. -/
def efbPlace (r : List Word) (t i : Nat) : Nat := (2 ^ 60 + srcElem r t + i).toNat
/-- The pointer of the error words of transfer `t`. -/
def efbOf (r : List Word) (t : Nat) : Word := addOffset (r.getD 4 0) (BitVec.ofInt 64 (4 * srcElem r t))

/-- The target of transfer `t` of a node. -/
def targetOf (mesh : Word) (r : List Word) (node t : Nat) : Nat :=
  let c := coordsOf mesh node
  let is := walkIndex r t
  nodeAt mesh ((cUsed r).foldl (fun d l =>
    if !cPeer r l then d
    else
      let w := cLevel r l
      let own : Int := if w.getLsbD 44 then c.getD (cAxis r l) 0 else 0
      let x := own + (w.extractLsb' 32 8).toNat + dotIndex is fun k => (w.extractLsb' (8 * k) 8).toInt
      d.set (cAxis r l) (x % (axisLen mesh (cAxis r l) : Int)).toNat) c)

/-- Whether a walk targets a node: on some other node one of its transfers goes there (R354, R360; log entry 94). -/
def walkTargets (mesh : Word) (r : List Word) (node : Nat) : Bool :=
  (List.range (meshNodes mesh)).any fun n => n != node && (List.range (cTotal r)).any fun t => targetOf mesh r n t == node

/-- The nodes that direct transfer `t` at a node, in ascending order. -/
def sourcesOf (mesh : Word) (r : List Word) (node t : Nat) : List Nat :=
  (List.range (meshNodes mesh)).filter fun n => targetOf mesh r n t == node
/-- The first `want` transfers from `t` on that the walk directs at a node and that are not among those applied; `fuel` is what is
left of the walk. -/
def nextDirected (mesh : Word) (r : List Word) (node : Nat) (applied : List Nat) : Nat → Nat → Nat → List Nat
  | 0, _, _ => []
  | fuel + 1, t, want =>
    if want = 0 then []
    else if applied.contains t || (sourcesOf mesh r node t).isEmpty then nextDirected mesh r node applied fuel (t + 1) want
    else t :: nextDirected mesh r node applied fuel (t + 1) (want - 1)
/-- The slot of a reduce transfer at its receiver: its place among the sender's transfers to it (R355). -/
def slotNo (mesh : Word) (c : Coll) (src t : Nat) : Nat :=
  ((List.range t).filter fun u => targetOf mesh c.rec_ src u == targetOf mesh c.rec_ src t).length
    % ((c.plan.getD 1 0).extractLsb' 16 16).toNat
/-- The size of a slot in bytes. -/
def slotBytes (c : Coll) : Nat := 1024 * ((c.plan.getD 1 0).extractLsb' 0 16).toNat
/-- Where a slot lies: BUF + (n × NSLOT + k) × size (R355). -/
def slotPointer (mesh : Word) (c : Coll) (src t : Nat) : Word :=
  addOffset (c.plan.getD 0 0)
    (BitVec.ofNat 64 ((src * ((c.plan.getD 1 0).extractLsb' 16 16).toNat + slotNo mesh c src t) * slotBytes c))

end Sys2Proof.Machine
end

