-- ==== Sys2Proof/Machine/Tiles.lean ====
section
/-! DEFINITION. Tile images (R200 to R203), the items and footprints that order the jobs of a core's engines
(R208, R209, R298, R338), and the access of an engine to one piece of memory. -/

namespace Sys2Proof.Machine

/-! ## Tile images (R200) -/

/-- Word `w` of tile `t`. -/
def Core.tileWord (k : Core) (t w : Nat) : Word := Store.get 0 k.tiles (8 * t + w)
/-- A tile word set. -/
def Core.setTile (k : Core) (t w : Nat) (x : Word) : Core := { k with tiles := Store.set 0 k.tiles (8 * t + w) x }
/-- The bits from `lo` of a tile word set to a value of `n` bits. -/
def Core.setTileField (k : Core) (t w lo n : Nat) (x : Nat) : Core :=
  k.setTile t w (insertField (k.tileWord t w) (BitVec.ofNat 64 x) lo n)

/-- BOUND. -/
def Core.bound (k : Core) (t : Nat) : Bool := (k.tileWord t 0).getLsbD 63
/-- STATE: 0 EMPTY, 1 FILLING, 2 READY, 3 DRAINING. -/
def Core.tileState (k : Core) (t : Nat) : Nat := ((k.tileWord t 0).extractLsb' 58 2).toNat
/-- STATE set. -/
def Core.setTileState (k : Core) (t x : Nat) : Core := k.setTileField t 0 58 2 x
/-- AUTO. -/
def Core.tileAuto (k : Core) (t : Nat) : Bool := (k.tileWord t 0).getLsbD 61
/-- FMT. -/
def tFmt (w0 : Word) : Nat := (w0.extractLsb' 54 4).toNat
/-- Rows. -/
def tRows (w0 : Word) : Nat := (w0.extractLsb' 45 8).toNat + 1
/-- Columns. -/
def tCols (w0 : Word) : Nat := (w0.extractLsb' 35 10).toNat + 1
/-- PITCH. -/
def tPitch (w0 : Word) : Nat := (w0.extractLsb' 19 16).toNat
/-- BUF. -/
def tBuf (w0 : Word) : Nat := (w0.extractLsb' 0 19).toNat
/-- Bits of an element of a format; N4X has none. -/
def tWidth (fmt : Nat) : Nat :=
  match fmt with
  | 0 => 32
  | 1 | 2 => 16
  | 3 | 4 | 7 => 8
  | _ => 4
/-- Row bytes (R201). -/
def tRowBytes (w0 : Word) : Nat :=
  if tFmt w0 = 6 then 18 * tCols w0 / 32 else (tCols w0 * tWidth (tFmt w0) + 7) / 8
/-- Whether the buffer lies in the private scratchpad of core `e` (R201). -/
def State.bufOk (s : State) (e : Nat) (w0 : Word) : Bool :=
  tBuf w0 + (tRows w0 - 1) * tPitch w0 + tRowBytes w0 ≤ 393216 - s.share (clusterOf e)
/-- The buffer's rows as regions. -/
def bufRegions (w0 : Word) : List Region :=
  (List.range (tRows w0)).map fun i => { tag := 5, off := tBuf w0 + i * tPitch w0, len := tRowBytes w0 }
/-- Whether a tile is bound and READY now. -/
def Core.tileReady (k : Core) (t : TIdx) : Bool := k.bound t.toNat && k.tileState t.toNat == 2
/-- The tiles that are READY now, one bit each: what a cycle begins with (R203). -/
def Core.readyNow (k : Core) : BitVec 32 :=
  (List.range 32).foldl (fun m t => if k.tileReady (BitVec.ofNat 5 t) then m ||| (1 : BitVec 32) <<< t else m) 0

/-! ## Job shapes (R208, R216) -/

/-- The paths of R208. -/
inductive Path where
  | array | weight | fetch
  deriving DecidableEq, Repr

/-- The path of a tensor job; none for what is no job. -/
def jobPath (i : Instr) : Option Path :=
  match i with
  | .tzero .. | .wswap _ | .mma .. | .mmas .. | .tdrain .. | .normk .. | .aliasTab .. | .seed .. | .smm .. | .smmv .. =>
    some .array
  | .wload .. => some .weight
  | .tbind .. | .tbindUnb .. | .tfetch .. | .trel .. => some .fetch
  | _ => none

/-- The tiles that a job names. -/
def jobTiles (i : Instr) : List Nat :=
  match i with
  | .tbind _ t _ | .tbindUnb _ t | .tfetch _ t .. | .trel _ t | .wload _ t _ | .mma _ _ t .. | .mmas _ _ t ..
  | .tdrain _ t .. | .normk _ t .. => [t.toNat]
  | .smm _ _ t u .. => [t.toNat, u.toNat]
  | .kvld _ t .. => [t.toNat]
  | _ => []

/-- NM1 + 1 of a job word. -/
def jobN (a : Word) : Nat := (a.extractLsb' 32 7).toNat + 1
/-- CROW. -/
def jobCrow (a : Word) : Nat := (a.extractLsb' 24 7).toNat
/-- AROW or TROW. -/
def jobArow (a : Word) : Nat := (a.extractLsb' 16 8).toNat
/-- KCOL or TCOL. -/
def jobKcol (a : Word) : Nat := (a.extractLsb' 0 10).toNat

/-- The accumulator rows of a job, as accumulator, first row and count. -/
def jobRows (o : SlotOp) : Option (Nat × Nat × Nat) :=
  match o.instr with
  | .tzero _ acc _ => some (acc.toNat, jobCrow o.a, jobN o.a)
  | .mma _ acc _ _ _ half | .mmas _ acc _ _ _ _ half .. =>
    some (acc.toNat, jobCrow o.a, if half then 2 * jobN o.a else jobN o.a)
  | .tdrain _ _ acc .. => some (acc.toNat, jobCrow o.a, jobN o.a)
  | .smm _ acc .. => some (acc.toNat, jobCrow o.a, jobN o.a)
  | _ => none

/-- An item that orders tensor jobs beside tile buffers (R209, R231): an accumulator row, a weight plane by its
role, or the Scarab's state. -/
inductive Item where
  | row (acc row : Nat)
  | active
  | shadow
  | scarab
  deriving DecidableEq, Repr

/-- What a tensor job reads among the items. -/
def itemReads (o : SlotOp) : List Item :=
  (match o.instr, jobRows o with
   | .tzero .., _ => []
   | _, some (a, r, n) => (List.range n).map fun i => .row a (r + i)
   | _, none => []) ++
  match o.instr with
  | .mma .. | .mmas .. => [.active]
  | .wswap _ => [.active, .shadow]
  | .normk .. | .aliasTab .. | .seed .. | .smm .. | .smmv .. => [.scarab]
  | _ => []

/-- What it writes among the items. -/
def itemWrites (o : SlotOp) : List Item :=
  (match o.instr, jobRows o with
   | .tdrain _ _ _ _ _ _ false, _ => []
   | _, some (a, r, n) => (List.range n).map fun i => .row a (r + i)
   | _, none => []) ++
  match o.instr with
  | .wload .. => [.shadow]
  | .wswap _ => [.active, .shadow]
  | .normk .. | .aliasTab .. | .seed .. | .smm .. | .smmv .. => [.scarab]
  | _ => []

/-- The footprint of a tile-control operation as the tile image stands (R209). -/
def Core.controlRegions (k : Core) (j : TJob) (t : Nat) : List Region × List Region :=
  let src := match j.op.instr with
    | .tfetch .. => some (j.op.a, (j.op.b.extractLsb' 0 32).toInt)
    | .trel .. => if k.tileAuto t then
        some (addOffset (k.tileWord t 1) (BitVec.ofInt 64 ((k.tileWord t 2).extractLsb' 32 32).toInt),
          ((k.tileWord t 2).extractLsb' 0 32).toInt) else none
    | _ => none
  match src with
  | some (p, stride) =>
    ((List.range (tRows (k.tileWord t 0))).map fun i =>
      region (addOffset p (BitVec.ofInt 64 ((i : Nat) * stride))) (tRowBytes (k.tileWord t 0)), bufRegions (k.tileWord t 0))
  | none => ([], [])

/-- The bytes that a tensor job of core `k` reads, by pointer (R209, R298). -/
def Core.jobReads (k : Core) (j : TJob) : List Region :=
  match j.op.instr with
  | .mma _ _ t .. | .wload _ t _ | .normk _ t .. => bufRegions (k.tileWord t.toNat 0)
  | .mmas _ _ t _ _ _ half _ ask =>
    bufRegions (k.tileWord t.toNat 0) ++
      (if ask then [region j.op.b (4 * (if half then 2 * jobN j.op.a else jobN j.op.a))] else [])
  | .smm _ _ t u .. => bufRegions (k.tileWord t.toNat 0) ++ bufRegions (k.tileWord u.toNat 0)
  | .tfetch _ t .. | .trel _ t =>
    if j.start.isNone then (k.controlRegions j t.toNat).1
    else if !j.fill.isEmpty then
      (List.range (tRows (k.tileWord t.toNat 0))).map fun i =>
        region (addOffset (k.tileWord t.toNat 1) (BitVec.ofInt 64 ((i : Nat) * ((k.tileWord t.toNat 2).extractLsb' 0 32).toInt)))
          (tRowBytes (k.tileWord t.toNat 0))
    else []
  | _ => []

/-- The bytes that it writes. -/
def Core.jobWrites (k : Core) (j : TJob) : List Region :=
  match j.op.instr with
  | .tdrain _ t .. => bufRegions (k.tileWord t.toNat 0)
  | .tfetch _ t .. | .trel _ t =>
    if j.start.isNone then (k.controlRegions j t.toNat).2
    else if !j.fill.isEmpty then bufRegions (k.tileWord t.toNat 0) else []
  | .smmv .. => [region j.op.a 32]
  | _ => []

/-- Whether a started job has finished reading its tiles and, for MMA and MMAS, the active plane (R209, R210): MMA and MMAS
with the end of their stream, and the plane at its release. The spec gives no cycle for the accumulator reads of a TDRAIN and
the tile reads of a WLOAD: they count as completed with the job, at start + n + 8 and start + 64 (DESIGN CHOICE, log entry
92). -/
def TJob.doneReading (now : Nat) (j : TJob) (plane : Bool) : Bool :=
  match j.op.instr, j.start with
  | .mma .., some c | .mmas .., some c =>
    jobN j.op.a ≤ j.rows && c + j.live + (if plane then 32 else 0) ≤ now
  | _, _ => false

/-- The cycle in which a started array job leaves the array; none while it is not known (R210). -/
def TJob.leaves (j : TJob) : Option Nat :=
  match j.start with
  | none => none
  | some c =>
    match j.op.instr with
    | .mma .. | .mmas .. => if jobN j.op.a ≤ j.rows then some (c + j.live) else none
    | .tdrain .. => some (c + jobN j.op.a)
    | .smm .. => if j.due = 0 then none else some j.due
    | _ => some j.due

/-- Whether a started job stands at a pre-emption point (R212, R238). -/
def TJob.stopped (j : TJob) : Bool :=
  j.start.isSome && j.due == 0 && match j.op.instr with
    | .mma .. | .mmas .. => j.rows < jobN j.op.a && j.rows % 16 == 0 && j.rows != 0
    | .smm .. => j.live == 0
    | _ => false

/-! ## Copies (R338, R423) -/

/-- The bounding range of `n` rows of `len` bytes at a signed stride. -/
def rowsRegion (p : Word) (n len : Nat) (stride : Int) : Region :=
  let span := (n - 1) * stride.natAbs
  { tag := if tagOf p ≤ 2 then 0 else tagOf p, off := if stride < 0 then offOf p - span else offOf p, len := span + len }

/-- NR, RB and the two strides of a CPYT (R347). -/
def cpytShape (cw : Word) : Nat × Nat × Int × Int :=
  ((cw.extractLsb' 16 16).toNat + 1, (cw.extractLsb' 0 16).toNat + 1, (cw.extractLsb' 32 16).toInt * 16,
    (cw.extractLsb' 48 16).toInt * 16)

/-- The declared read regions of a copy-queue entry (R338, R424). -/
def CopyEntry.readRegions (k : Core) (c : CopyEntry) : List Region :=
  match c.op.instr with
  | .kvld _ t .. => [region c.op.a (4 * (tRows (k.tileWord t.toNat 0) / 16))]
  | .cpy .. | .send .. | .sendRq .. => [region c.op.a (c.op.d.extractLsb' 0 32).toNat]
  | .cpyt .. => [rowsRegion c.op.a (cpytShape c.op.d).1 (cpytShape c.op.d).2.1 (cpytShape c.op.d).2.2.1]
  | .coll .. => [region c.op.a 128]
  | .reshard .. => [region (c.blk.getD 7 0) c.op.d.toNat]
  | _ => []

/-- The declared write regions of a copy-queue entry (R338, R384); a KVLD writes its tile. -/
def CopyEntry.writeRegions (k : Core) (c : CopyEntry) : List Region :=
  match c.op.instr with
  | .cpy .. => [region c.op.b (c.op.d.extractLsb' 0 32).toNat]
  | .cpyt .. => [rowsRegion c.op.b (cpytShape c.op.d).1 (cpytShape c.op.d).2.1 (cpytShape c.op.d).2.2.2]
  | .kvld _ t .. => bufRegions (k.tileWord t.toNat 0)
  | .reshard .. => [region (c.blk.getD 15 0) c.op.b.toNat]
  | _ => []

/-- The regions of a job card (R334). -/
def Card.regions (c : Card) (wr : Bool) : List Region :=
  let w0 := c.words.getD 0 0
  let len := fun (lo : Nat) => ((w0.extractLsb' lo 14).toNat + 1) * 64
  let pick := fun (n : Nat) (i : Nat) (lo : Nat) (w : Nat) => if i < n then [region (c.words.getD w 0) (len lo)] else []
  if wr then pick (w0.extractLsb' 56 2).toNat 0 14 6 ++ pick (w0.extractLsb' 56 2).toNat 1 0 7
  else pick (w0.extractLsb' 58 2).toNat 0 42 4 ++ pick (w0.extractLsb' 58 2).toNat 1 28 5

/-! ## Engine accesses (R136, R140, R243) -/

/-- What one access of an engine meets, with the keys of its bytes. -/
inductive Piece where
  | keys (ks : List Nat)
  | fail (c : FCode) (a : Word)
  | wait (a : Word)
  deriving DecidableEq, Repr

/-- The bytes of a run that ends where its page or space does, up to `n`. -/
def pageCut (p : Word) (n : Nat) : Nat := min n (4096 - offOf p % 4096)

/-- An engine of core `e` reaches `n` bytes at a pointer with no alignment rule: those of a local space as one access (R243),
others page by page; `fuel` bounds the pages. A peer pointer is translated in its target's tables (R256). -/
def State.engineKeys (s : State) (e : Nat) (kind : AccKind) : Nat → Word → Nat → Piece
  | 0, _, _ => .keys []
  | fuel + 1, p, n =>
    if n = 0 then .keys []
    else
      let tag := tagOf p
      let m := if 4 ≤ tag then n else pageCut p n
      let first :=
        if 8 ≤ tag || tag == 6 then Piece.fail .spaceTag p
        else if tag = 3 then
          if !s.reachable (offOf p / 2 ^ 52) then .fail .remoteUnreachable p
          else
            match s.peerAccess (offOf p / 2 ^ 52) (offOf p % 2 ^ 52) kind with
            | .fail c => .fail c p
            | .absent => .wait p
            | .at_ l => .keys ((List.range m).map (l.key + ·))
        else if tag = 2 && kind != .read then .fail .decodedViewWrite p
        else if 4 ≤ tag then
          if s.localSize e tag false < offOf p + m then .fail .range p
          else .keys ((List.range m).map fun i => s.localKey e tag (offOf p + i) 0 false)
        else
          match s.translate (some e) (s.nodeOf (dieOf e)) tag (offOf p) kind with
          | .fail c => .fail c p
          | .absent => .wait p
          | .at_ l =>
            if tag = 2 then .keys ((List.range m).map fun i => 2 ^ 63 + 2 ^ 52 * l.node + l.key + i)
            else .keys ((List.range m).map (l.key + ·))
      match first with
      | .keys ks =>
        if n ≤ m then .keys ks
        else
          match s.engineKeys e kind fuel (addOffset p (BitVec.ofNat 64 m)) (n - m) with
          | .keys rest => .keys (ks ++ rest)
          | r => r
      | r => r

/-! ## Order among one core's work (R209, R298) -/

/-- A copy's payload has been performed. -/
def CopyEntry.over (c : CopyEntry) : Bool := c.stage == .performed

/-- The regions that a SPECC under way reads and writes, taken from its window (R416). -/
def State.speccRegions (s : State) (e : Nat) (p : Pend) (wr : Bool) : List Region :=
  match p.op.instr with
  | .specc .. =>
    match Store.get none (s.dieAt (dieOf e)).windows ((p.blk.getD 1 0).toNat % 8) with
    | none => []
    | some w =>
      if p.op.a = 0 then []
      else w.regions.map fun r =>
        region (if wr then r.1 else addOffset r.1 (BitVec.ofNat 64 (p.op.a.toNat * r.2.1))) r.2.2
  | _ => []

/-- The words of a record as an engine of core `e` would read them now; zeros where it cannot. -/
def State.glimpse (s : State) (e : Nat) (p : Word) (n : Nat) : List Word :=
  match s.engineKeys e .read 2 p (8 * n) with
  | .keys ks => (List.range n).map fun i => BitVec.ofNat 64 (natOf (((ks.drop (8 * i)).take 8).map (s.view e)))
  | .fail .. | .wait _ => []

/-- The regions that the collectives of core `e` read or write: of those that the walker runs, and of those that it has not
taken, by their records as these stand (R338). -/
def State.collRegions (s : State) (e id : Nat) (wr : Bool) : List Region :=
  let k := s.coreAt e
  let runs := (s.dieAt (dieOf e)).colls.filter fun c => c.core == e && c.copyId < id
      && k.copies.any fun y => y.id == c.copyId && y.card.isNone
  let waits := k.copies.filter fun c => c.id < id && c.card.isNone && (c.stage == .queued || c.stage == .active)
    && match c.op.instr with
      | .coll .. => true
      | _ => false
  (runs.flatMap fun c => collReach c.rec_ wr) ++ waits.flatMap fun c => collReach (s.glimpse e c.op.a 16) wr

/-- The write regions of every job of core `e` with a number below `id` that is not complete, for an access that
must wait for them. -/
def State.pendingWrites (s : State) (e id : Nat) : List Region :=
  let k := s.coreAt e
  ((k.jobs.filter fun j => j.id < id && j.card.isNone).flatMap k.jobWrites)
    ++ ((k.copies.filter fun c => c.id < id && !c.over && c.card.isNone).flatMap (·.writeRegions k))
    ++ ((k.pend.filter fun p => p.id < id).flatMap fun p => s.speccRegions e p true) ++ s.collRegions e id true
    ++ (((s.clusterAt (clusterOf e)).cards.filter fun c => c.core == e && !c.failed && c.op.room < id).flatMap (·.regions true))

/-- The read regions of such jobs. -/
def State.pendingReads (s : State) (e id : Nat) : List Region :=
  let k := s.coreAt e
  ((k.jobs.filter fun j => j.id < id && j.card.isNone && !j.doneReading s.cycle false).flatMap k.jobReads)
    ++ ((k.copies.filter fun c => c.id < id && !c.over && c.card.isNone).flatMap (·.readRegions k))
    ++ ((k.pend.filter fun p => p.id < id).flatMap fun p => s.speccRegions e p false) ++ s.collRegions e id false
    ++ (((s.clusterAt (clusterOf e)).cards.filter fun c => c.core == e && !c.failed && c.op.room < id).flatMap (·.regions false))

/-- The regions that an operation of slot ms in flight reads and writes: an atomic both its location, a ROP also its
block (R282, R298). -/
def Pend.regions (p : Pend) (wr : Bool) : List Region :=
  match p.op.instr with
  | .atom .. | .cas .. => p.vas.map fun v => region v 8
  | .ropMcas .. | .ropEnq .. | .ropChase .. => (p.vas.map fun v => region v 64) ++ [region p.op.b 64]
  | .pfxl .. => p.vas.map fun v => region v 16
  | i => if isStore i == wr then p.vas.map fun v => region v 8 else []

/-- The regions of the core's own operations in flight with a number below `id`: reads not yet made, writes not
yet performed, reply blocks not yet written. -/
def Core.flightRegions (k : Core) (id : Nat) (wr : Bool) : List Region :=
  (k.pend.filter fun p => p.id < id && (!p.perf || !p.acked && match p.op.instr with
    | .ropMcas .. | .ropEnq .. | .ropChase .. => true
    | _ => false)).flatMap (·.regions wr)

/-- Whether a job of a card may start against the earlier work of the engine it runs on: by the bytes of the core's scratchpad,
and of a fill's source (R209, R334). What the card declares is ordered before it starts (R335). -/
def State.cardEdgesMet (s : State) (e id : Nat) (rd wr : List Region) : Bool :=
  let k := s.coreAt e
  let js := k.jobs.filter fun j => j.id < id
  let cs := k.copies.filter fun c => c.id < id && !c.over
  !meetAny (rd ++ wr) (js.flatMap k.jobWrites ++ cs.flatMap (·.writeRegions k))
    && !meetAny wr ((js.filter fun j => !j.doneReading s.cycle false).flatMap k.jobReads ++ cs.flatMap (·.readRegions k))

/-- Whether a job of core `e` with number `id` may start against the core's earlier work (R298). -/
def State.edgesMet (s : State) (e id : Nat) (rd wr : List Region) : Bool :=
  let w := s.pendingWrites e id
  !meetAny (rd ++ wr) w && !meetAny wr (s.pendingReads e id)
    && !meetAny (rd ++ wr) ((s.coreAt e).flightRegions id true) && !meetAny wr ((s.coreAt e).flightRegions id false)

/-- Whether a key names a byte of a decoded view (as engineKeys lists it). -/
def isView (k : Nat) : Bool := 2 ^ 63 ≤ k

/-- The bytes at some keys, decoded views decoded (R129); the first byte that does not decode, which in its block is the
lowest view address, names the fault. -/
def State.keyBytes (s : State) : List Nat → Except (FCode × Nat) (List Byte)
  | [] => .ok []
  | k :: ks =>
    match (if isView k then s.viewByte s.byteAt (k % 2 ^ 63 / 2 ^ 52) (k % 2 ^ 52) else .ok (s.byteAt k)) with
    | .error c => .error (c, k % 2 ^ 52)
    | .ok b =>
      match s.keyBytes ks with
      | .error x => .error x
      | .ok l => .ok (b :: l)

/-- The source bytes that some keys read: those of decoded views for a view (R131). -/
def State.plainKeys (s : State) (ks : List Nat) : List Nat :=
  ks.flatMap fun k => if isView k then s.viewKeys (k % 2 ^ 63 / 2 ^ 52) (k % 2 ^ 52) 1 else [k]

/-- The bytes at some keys as an engine of core `e` reads them: the core's own earlier writes to them are performed
first, and its phase cache keeps what it holds (R295, R298). -/
def State.engineFetch (s : State) (e : Nat) (ks : List Nat) : Except (FCode × Nat) (List Byte) × State :=
  let t := (s.flushGate e (s.plainKeys ks)).performKeys e (s.plainKeys ks)
  (t.keyBytes ks, t)

/-- Bytes with their keys, as runs of keys that follow one another. -/
def keyRuns : List (Nat × Byte) → List (Nat × List Byte)
  | [] => []
  | (k, b) :: xs =>
    match keyRuns xs with
    | (j, bs) :: rs => if j = k + 1 then (k, b :: bs) :: rs else (k, [b]) :: (j, bs) :: rs
    | [] => [(k, [b])]

/-- Bytes written by an engine of core `e` at some keys, in ascending order, those of a run together (R342). -/
def State.enginePut (s : State) (e cls : Nat) (ks : List Nat) (bs : List Byte) : State :=
  (keyRuns (ks.zip bs)).foldl (fun u x => u.perform none cls x.1 x.2) ((s.flushGate e ks).flushKeys e ks)

/-! ## Completion of engine work (R73, R136) -/

/-- The barrier of an operation of core `e` goes down, if the run that armed it still runs. -/
def State.lowerBar (s : State) (e : Nat) (o : Owner) (bar : Option (BitVec 3)) : State :=
  if (s.coreAt e).owns o then s.modCoreAt e fun c => c.barDown s.cycle bar else s

/-- A fault of an operation in flight on core `e` (R136). -/
def State.opFault (s : State) (e : Nat) (o : Owner) (op : SlotOp) (c : FCode) (a : Word) : State :=
  s.lateFault e o { code := c, addr := a, slot := op.slot, bundle := op.bundle, hard := false }

/-- The card with a number in core `e`'s cluster. -/
def State.cardOf (s : State) (e id : Nat) : Option Card := (s.clusterAt (clusterOf e)).cards.find? fun x => x.id == id
/-- A card of core `e`'s cluster changed. -/
def State.setCard (s : State) (e : Nat) (x : Card) : State :=
  s.modCluster (clusterOf e) fun k => { k with cards := k.cards.map fun y => if y.id = x.id then x else y }
/-- The command of a card faults: its issuing core is charged, and the card ends (R335). -/
def State.failCard (s : State) (e id : Nat) (c : FCode) (a : Word) : State :=
  match s.cardOf e id with
  | none => s
  | some x => (s.setCard e { x with failed := true }).opFault x.core x.own x.op c a

end Sys2Proof.Machine
end

