-- ==== Sys2Proof/Machine/SaveArea.lean ====
section
/-! DEFINITION. The save area of a frozen task: its layout, how each item is written into it and read back (R144 to
R146, R213), and the gate entries that a forced boundary commits from it (R309). -/

namespace Sys2Proof.Machine

/-! ## Reaching the area -/

/-- Bytes of the save area. -/
def areaSize : Nat := 0x48000

/-- The pointer of the save area of core `e` (R151). -/
def State.areaPtr (s : State) (e : Nat) : Word := (s.coreAt e).special 26

/-- The places of `n` parts of 128 bytes of the area from part `i` upwards. -/
def State.areaParts (s : State) (e : Nat) (kind : AccKind) : Nat → Nat → Option (List Nat)
  | 0, _ => some []
  | n + 1, i =>
    match s.engineKeys e kind 2 (addOffset (s.areaPtr e) (BitVec.ofNat 64 (128 * i))) 128 with
    | .keys (k :: _) => if isView k then none else (s.areaParts e kind n (i + 1)).map (k :: ·)
    | _ => none

/-- The place of every 128th byte of the area, translated for a kind of access; none where a part has no place
(R144, R145). -/
def State.areaHeads (s : State) (e : Nat) (kind : AccKind) : Option (List Nat) := s.areaParts e kind (areaSize / 128) 0

/-- The key of byte `o` of an area. -/
def areaKey (heads : List Nat) (o : Nat) : Nat := heads.getD (o / 128) 0 + o % 128

/-- The `n` bytes at offset `o` of an area, as a number. -/
def State.areaNat (s : State) (heads : List Nat) (o n : Nat) : Nat :=
  natOf ((List.range n).map fun i => s.byteAt (areaKey heads (o + i)))

/-- Reads an area: the number that the `n` bytes at offset `o` stand for. -/
abbrev AreaRead := Nat → Nat → Nat
/-- Word `i` of an item at offset `o`. -/
def areaWord (rd : AreaRead) (o i : Nat) : Word := BitVec.ofNat 64 (rd (o + 8 * i) 8)
/-- A vector image at an offset. -/
def areaVec (rd : AreaRead) (o : Nat) : VReg := BitVec.ofNat 2048 (rd o 256)

/-- Bytes written into an area from offset `o`. -/
def State.areaPut (s : State) (e : Nat) (heads : List Nat) (o : Nat) (bs : List Byte) : State :=
  s.enginePut e 1 ((List.range bs.length).map fun i => areaKey heads (o + i)) bs

/-! ## Bytes of items -/

/-- A list of bytes cut or filled with zeros to `n`. -/
def fitBytes (n : Nat) (bs : List Byte) : List Byte := bs.take n ++ List.replicate (n - bs.length) 0
/-- The 256 bytes of a vector image. -/
def vecBytes (x : VReg) : List Byte := bytesOf 256 x.toNat
/-- Up to `n` entries of `w` bytes, the rest zero. -/
def regionBytes (n w : Nat) (es : List (List Byte)) : List Byte := fitBytes (n * w) ((es.take n).flatMap (fitBytes w))

/-- BV and BIDX. -/
def barBits (b : Option (BitVec 3)) : Nat :=
  match b with
  | some j => 1 + 2 * j.toNat
  | none => 0
/-- A barrier from BV and BIDX. -/
def barOf (bv : Bool) (idx : BitVec 3) : Option (BitVec 3) := if bv then some idx else none

/-- A sticky entry (R146): a vector operation latches nothing. -/
def stickyBytes (x : Sticky) : List Byte :=
  let z := x.op.latched
  wordsBytes [x.op.instr.encode, if z then x.op.d else 0, if z then x.op.a else 0, if z then x.op.b else 0, x.stepA,
    x.stepB, BitVec.ofNat 64 x.k, BitVec.ofNat 64 (1 + 2 * barBits x.op.bar)]

/-- The STICKY region: slots S4 to S7. -/
def stickyRegion (l : List Sticky) : List Byte :=
  (List.range 4).flatMap fun j =>
    match l.find? fun x => x.op.slot == 4 + j with
    | some x => stickyBytes x
    | none => List.replicate 64 0

/-- KIND of a landing entry. -/
def WrKind.num : WrKind → Nat
  | .scalar => 0
  | .vector => 1
  | .pred | .p8 => 2
  | .special => 3
  | .push => 4
  | .bind => 5
/-- The kind of a KIND. -/
def wrKindOf (n : Nat) : WrKind :=
  match n with
  | 0 => .scalar
  | 1 => .vector
  | 2 => .pred
  | 3 => .special
  | 4 => .push
  | _ => .bind

/-- A landing entry (R146): one register write, due `off` cycles after the freeze. -/
def landBytes (off : Nat) (w : Wr) : List Byte :=
  wordsBytes [BitVec.ofNat 64 off, BitVec.ofNat 64 (w.kind.num * 256 + w.idx),
      if w.kind = .vector ∨ w.kind = .pred then w.mask else ones,
      if w.kind = .push then BitVec.ofNat 64 w.room else 0]
    ++ (if w.kind = .vector then vecBytes w.val else fitBytes 256 (bytesOf 8 (w.val.setWidth 64).toNat))

/-- Whether a position of an operation is a kind-I operand. -/
def scalarAt (i : Instr) (p : Pos) : Bool :=
  (reads i).any fun x => x.1 == p && match x.2 with
    | .s _ | .q _ => true
    | .p _ | .v _ | .special _ | .map _ => false

/-- A held entry (R146): positions that are not of kind I are zero. -/
def heldBytes (o : SlotOp) : List Byte :=
  let vector := o.slot == 4 || o.slot == 5
  let at_ := fun (p : Pos) => if scalarAt o.instr p then o.val p else 0
  wordsBytes [o.instr.encode, o.bundle &&& ~~~7#64, if vector then o.guard else o.guard &&& 1,
      BitVec.ofNat 64 (o.fmode.toNat % 16 * 16 + (match o.bar with
        | some j => 8 + j.toNat
        | none => 0)), at_ .d, at_ .a, at_ .b, at_ .c]
    ++ (if vector then vecBytes o.va ++ vecBytes o.vb ++ vecBytes o.vc else [])

/-- A gated lane's address as the area holds it. -/
def gateAddr (l : GateLane) : Word :=
  BitVec.ofNat 64 (2 ^ 60 * l.tag +
    (if l.tag ≤ 1 then 2 ^ 58 * (l.key / 2 ^ 52 % 4) + l.key % 2 ^ 52
     else if l.tag = 4 then 2 ^ 56 * (l.key / 2 ^ 20 % 16) + l.key % 2 ^ 20
     else if l.tag = 7 then l.key % 2 ^ 25 else l.key % 2 ^ 20))

/-- The key that such an address names for core `e`. -/
def gateKey (e : Nat) (a : Word) : Nat :=
  let tag := tagOf a
  if tag ≤ 1 then nodeKey (a.extractLsb' 58 2).toNat (a.extractLsb' 0 52).toNat
  else if tag = 4 then spadKey (e / 16 * 16 + (a.extractLsb' 56 4).toNat) (a.extractLsb' 0 19).toNat
  else if tag = 5 then spadKey e (a.extractLsb' 0 19).toNat
  else if tag = 6 then sliceKey e (a.extractLsb' 0 17).toNat
  else chipKey (dieOf e) (a.extractLsb' 0 25).toNat

/-- Log2 of a store's bytes per lane. -/
def widthCode (n : Nat) : Nat := if n = 1 then 0 else if n = 2 then 1 else if n = 4 then 2 else 3

/-- Whether a gated store is a vector store. -/
def gateVector (opc : BitVec 10) : Bool := opc == 0x147 || opc == 0x148 || opc == 0x149

/-- A gate entry (R146). -/
def gateBytes (g : GateEntry) : List Byte :=
  let has := fun j => g.lanes.find? fun l => l.lane == j
  let mask := g.lanes.foldl (fun m l => m ||| (1 : Word) <<< l.lane) 0
  wordsBytes [BitVec.ofNat 64 (g.opc.toNat + 65536 * widthCode g.bytes), g.bundle, BitVec.ofNat 64 g.bytes, mask, 0, 0, 0, 0]
    ++ ((List.range 64).flatMap fun j => match has j with
      | some l => bytesOf 8 (gateAddr l).toNat
      | none => List.replicate 8 0)
    ++ (if gateVector g.opc then (List.range 64).flatMap fun j => match has j with
          | some l => bytesOf 4 l.val.toNat
          | none => List.replicate 4 0
        else match has 0 with
          | some l => bytesOf g.bytes l.val.toNat
          | none => [])

/-- The gate entry at offset `o` of an area of core `e`. -/
def gateEntryAt (e : Nat) (rd : AreaRead) (o : Nat) : GateEntry :=
  let w := areaWord rd o
  let opc := (w 0).extractLsb' 0 10
  let n := 2 ^ ((w 0).extractLsb' 16 2).toNat
  let mask := w 3
  { opc := opc, bundle := w 1, bytes := n,
    lanes := ((List.range 64).filter (mask.getLsbD ·)).map fun j =>
      let a := areaWord rd (o + 64) j
      { lane := j, tag := tagOf a, key := gateKey e a,
        val := BitVec.ofNat 64 (if gateVector opc then rd (o + 576 + 4 * j) 4 else rd (o + 576) n) } }

/-- GATEN of a header's w2. -/
def gateCount (w2 : Word) : Nat := (w2.extractLsb' 25 7).toNat

/-- The gate entries that an area holds, in entry order. -/
def gateEntries (e : Nat) (rd : AreaRead) : List GateEntry :=
  (List.range (min 64 (gateCount (areaWord rd 0 2)))).map fun i => gateEntryAt e rd (0x13100 + 0x340 * i)

/-- Whether a forced boundary can reach the area of core `e` if its task is frozen (R309; log entry 81). -/
def State.areaOpen (s : State) (e : Nat) : Bool := !(s.coreAt e).frozen || (s.areaHeads e .write).isSome

/-- A forced boundary that serves a frozen task commits the gate its area holds, and GATEN becomes 0 (R309); it waits while
the area cannot be reached (State.areaOpen). -/
def State.commitArea (s : State) (e : Nat) : State :=
  match s.areaHeads e .write with
  | none => s
  | some heads =>
    let t := (s.performGate e (gateEntries e (s.areaNat heads)))
    let w2 := BitVec.ofNat 64 (s.areaNat heads 16 8)
    t.areaPut e heads 16 (bytesOf 8 (w2 &&& ~~~(0xFE000000 : Word)).toNat)

/-- An engine job of core `e` that writes memory commits the gate of the task that issued it before it starts; the gate of a
frozen task stands in its save area (R138, R144; log entry 83). -/
def State.jobCommit (s : State) (e : Nat) (o : Owner) : State :=
  if !(s.coreAt e).owns o then s
  else if (s.coreAt e).frozen then s.commitArea e
  else s.commitGate e

/-! ## The image of a task (R144, R146, R213) -/

/-- A landing's register writes as entries, at offsets from cycle `f`. -/
def landEntries (f : Nat) (ls : List Landing) : List (List Byte) := ls.flatMap fun l => l.writes.map (landBytes (l.due - f))

/-- The landings of a freeze in cycle `f` by where they are saved: landing queue, load landing buffer, latches. What
the issue of cycle f − 1 placed goes to the latches; those of an earlier resume keep a latch while there is one. -/
def Core.landSplit (c : Core) (f : Nat) : List Landing × List Landing × List Landing :=
  let now := c.land.filter fun l => !l.latch && l.placed + 1 == f
  let old := c.land.filter (·.latch)
  let rest := c.land.filter fun l => !l.latch && l.placed + 1 != f
  let q := old.drop (8 - now.length) ++ rest.filter fun l => !l.llb
  (q.take 32, rest.filter (·.llb) ++ q.drop 32, old.take (8 - now.length) ++ now)

/-- The landings as the area holds them, one register write each (R146). -/
def Core.landKept (c : Core) (f : Nat) : List Landing :=
  let x := c.landSplit f
  let one : Nat → Bool → Bool → List Landing → List Landing := fun n llb latch ls =>
    (ls.flatMap fun l => l.writes.map fun w => { l with writes := [w], llb := llb, latch := latch }).take n
  one 32 false false x.1 ++ one 64 true false x.2.1 ++ one 8 false true x.2.2

/-- The jobs of the LATHE region: the stopped one, then those that wait, in issue order (R213). -/
def Core.latheJobs (c : Core) : List TJob :=
  let js := c.jobs.filter fun j => j.card.isNone && jobPath j.op.instr != some .fetch
  js.filter (·.stopped) ++ js.filter fun j => j.start.isNone

/-- BOFF: the mask offset of an MMAS. -/
def maskOffset (j : TJob) : Nat :=
  match j.op.instr with
  | .mmas .. => j.op.b.toNat % 2 ^ 19
  | _ => 0

/-- A LATHE entry (R213, R238). -/
def latheBytes (j : TJob) : List Byte :=
  let fm := j.op.fmode.toNat
  let prog := match j.op.instr with
    | .mma .. | .mmas .. => if j.start.isSome then j.rows else 0
    | _ => 0
  wordsBytes [j.op.instr.encode, j.op.a, j.op.bundle &&& ~~~7#64,
    BitVec.ofNat 64 (2 ^ 63 + (if j.start.isSome then 2 ^ 62 else 0) + 2 ^ 55 * prog + 2 ^ 54 * (fm / 8 % 2) + 2 ^ 51 * (fm % 8)
      + (match j.op.bar with
        | some b => 2 ^ 50 + 2 ^ 47 * b.toNat
        | none => 0) + 2 ^ 28 * maskOffset j)]

/-- The header (R146). -/
def Core.headerWords (c : Core) (f : Nat) : List Word :=
  let l := c.landSplit f
  let n := fun (x : List Landing) (m : Nat) => min m (landEntries f x).length
  let stall := if c.nextIssue - f ≤ 15 then c.nextIssue - f else 0
  [BitVec.ofNat 64 (2 ^ 48 + 1), BitVec.ofNat 64 f,
   BitVec.ofNat 64 (2 ^ 32 * n l.2.2 8 + 2 ^ 25 * min 64 c.gate.length + 2 ^ 20 * min 16 c.held.length + 2 ^ 13 * n l.2.1 64
     + n l.1 32 * 2 ^ 7),
   BitVec.ofNat 64 (c.rep.getD 0 % 64 * 32 + stall * 2 + (if c.marked then 1 else 0)), 0, 0, 0, 0]

/-- The register files as the area holds them: SREG and PREG. -/
def filesBytes (s p : Store Word) : List Byte :=
  wordsBytes ((List.range 32).map fun i => Store.get 0 s i) ++
    wordsBytes ((List.range 16).map fun i => if i = 0 then ones else Store.get 0 p i)
/-- VREG. -/
def vregBytes (v : Store VReg) : List Byte := (List.range 64).flatMap fun i => vecBytes (Store.get 0 v i)

/-- The SHADOW region: the mark's snapshot (R84, R146; log entry 23). -/
def shadowBytes (n : Snapshot) : List Byte :=
  filesBytes n.s n.p ++ fitBytes 128 (wordsBytes [n.vrb, n.prb, n.lc, n.ec, n.fmode]) ++ stickyRegion n.sticky ++ vregBytes n.v

/-- SPR: the special registers once every result due at the freeze has landed, CYCLE and DBSTAT as at the freeze. -/
def State.areaSpecials (s : State) (z : Freeze) : List Word :=
  (List.range 32).map fun i =>
    if i = 12 then BitVec.ofNat 64 z.at_ else if i = 28 then z.db else s.readSpecial z.core i

/-- The regions of the area in order, whole. -/
def Core.areaBytes (c : Core) (z : Freeze) (spr : List Word) : List Byte :=
  let f := z.at_
  let l := c.landSplit f
  wordsBytes (c.headerWords f) ++ wordsBytes spr ++ filesBytes c.s c.p ++ fitBytes 64 (bytesOf 8 z.db.toNat)
    ++ ((List.range 8).flatMap fun k => wordsBytes [(Store.get Cb.none c.cb k).addr, (Store.get Cb.none c.cb k).exp])
    ++ stickyRegion c.sticky ++ regionBytes 4 32 (c.latheJobs.map latheBytes) ++ vregBytes c.v
    ++ regionBytes 16 0x340 (c.held.map fun x => heldBytes x.2)
    ++ regionBytes 32 0x120 (landEntries f l.1) ++ regionBytes 64 0x120 (landEntries f l.2.1)
    ++ regionBytes 8 0x120 (landEntries f l.2.2)
    ++ (match c.shadow with
      | some n => shadowBytes n
      | none => List.replicate 0x4300 0)
    ++ regionBytes 64 0x340 (c.gate.map gateBytes)
    ++ ((List.range 256).flatMap fun i => bytesOf 8 (Store.get 0 c.tiles i).toNat)
    ++ ((List.range 512).flatMap fun i => vecBytes (Store.get 0 c.acc i))
    ++ ((List.range 64).flatMap fun i =>
      vecBytes (Store.get 0 c.planes ((if c.active == decide (i < 32) then 1 else 0) * 32 + i % 32)))
    ++ List.replicate 0x3700 0

end Sys2Proof.Machine
end

