-- ==== Sys2Proof/Machine/Tasks.lean ====
section
/-! DEFINITION. What holds a core between two bundles, and the instructions that wait: suspension, DONE, the
crew barrier, SPAWN, traps, stamp waits, phase boundaries, fences and TLBI (R34, R140 to R143, R259 to R261, R301
to R310, R323 to R328, R342, R362, R363). -/

namespace Sys2Proof.Machine

/-! ## Starting a wait -/

/-- Whether nothing else of the issue in progress is left to perform or to resolve. -/
def State.alone (s : State) : Bool := s.core.todo.isEmpty && s.core.raised.isEmpty && s.core.restart.isNone

/-- A wait ends with a fault of its own bundle, and the room of a push that it will not make is given back (R319); `hard` for
a record being written (R132), which ends the task, so that its arrival in a crew barrier no longer counts (R316). -/
def State.waitFault (s : State) (c : FCode) (addr : Word) (hard : Bool) : State :=
  let t := match s.core.wait with
    | some (.stamp ..) | some (.any ..) => if (pushes s.core.waitOp.instr).isEmpty then s else s.unreserveQ s.me s.core.waitOp.room
    | some (.cbar true) => s.modCrew (clusterOf s.me) s.core.crewId fun k => { k with arr := k.arr - 1 }
    | _ => s
  t.modCore fun k => { k with
    wait := none,
    raised := k.raised ++ [{ code := c, addr := addr, slot := k.waitOp.slot, bundle := k.waitOp.bundle, hard := hard }] }

/-- A wait for a migratable page tries again in 4096 cycles (R140, R141). -/
def State.later (s : State) : State := s.modCore fun k => { k with nextIssue := 4096 + s.cycle }

/-! ## Releases -/

/-- Whether every earlier load has read and every earlier atomic of the package has been performed (R302). -/
def Core.settled (k : Core) : Bool := k.pend.all fun p => !p.unsettled

/-- Whether a release at a scope need not wait (R302, R303). -/
def Core.releaseReady (k : Core) (sc : Scope) : Bool := k.settled && !k.unacked sc

/-! ## Suspension (R34) -/

/-- Whether a tile has a waiting tile-control job, a fill or a drain (R200, R211). -/
def Core.tileBusy (k : Core) (t : Nat) : Bool :=
  (Store.get 0 k.tiles (8 * t + 3)).getLsbD 63 || (Store.get 0 k.tiles (8 * t)).getLsbD 58

/-- Step 2 of R34 with R211: barriers zero, landings empty, queued loads returned, tensor jobs over. -/
def Core.drained (k : Core) : Bool :=
  k.db.isEmpty && (k.jobs.all fun j => j.card.isSome) && !(List.range 32).any k.tileBusy && k.land.isEmpty && k.held.isEmpty && k.settled
    && k.pend.all fun p => match p.op.instr with
      | .ldq .. => !k.owns p.own
      | _ => true

/-- Steps 3 and 4 of R34 and the end of the task's window (R417). -/
def State.quiesce (s : State) (sc : Scope) : State :=
  (((s.commitGate s.me).modCore fun k => { k with sticky := [] }).releaseLines s.me sc).dropWindow s.me

/-- The task's record is written with a state, its bundle after the waiting one (R34, R44); `k` gets the state
after it. -/
def State.putRecord (s : State) (st : RecState) (k : State → State) : State :=
  let c := s.core
  let rec_ := c.special 27
  if tagOf rec_ ≠ 0 then s.waitFault .spaceTag rec_ true
  else
    match s.translate (some s.me) s.node 0 (offOf rec_) .write with
    | .fail f => s.waitFault f rec_ true
    | .absent => s.later
    | .at_ l =>
      k (s.engineWrite s.me l.key (wordsBytes (c.record (c.waitOp.bundle + BitVec.ofNat 64 c.waitOp.len) st)) 1)

/-- The record of the core's task as its scheduler knows it, of an age. -/
def Core.waiter (c : Core) (age : Nat) : Waiter :=
  { rec_ := offOf (c.special 27), prio := c.info.prio.toNat, crew := c.crewId, task := (c.special 1).extractLsb' 0 20,
    stamp := c.info.stamp.toNat, age := age }

/-- YIELD, and a crew barrier whose round has completed meanwhile: the task suspends READY (R324), its age running from
now or from that completion (R326). -/
def State.suspendReady (s : State) (age : Nat) : State :=
  if !s.core.drained || (s.clusterAt (clusterOf s.me)).freeNode.isNone then s
  else
    (s.quiesce .crew).putRecord .ready fun t =>
      (t.enterRecord (clusterOf t.me) (t.core.waiter age) 0).modCore
        fun k => { k.stop s.cycle with scarab := Scarab.clear }

/-- A crew barrier that must wait: the task suspends with STATE BARRIER (R326). -/
def State.suspendBarrier (s : State) : State :=
  if !s.core.drained then s
  else
    (s.quiesce .crew).putRecord .barrier fun t =>
      (t.modCrew (clusterOf t.me) t.core.crewId fun x => { x with waiters := x.waiters ++ [t.core.waiter s.cycle] }).modCore
        fun k => { k.stop s.cycle with scarab := Scarab.clear }

/-- CBAR's arrival (R326); one that completes the round waits until its records find nodes (R314). -/
def State.arrive (s : State) : State :=
  if !s.core.releaseReady .crew || s.roundBlocked (clusterOf s.me) s.core.crewId 1 then s
  else
    let t := s.release s.me .crew
    let k := clusterOf t.me
    let crew := t.core.crewId
    let t := t.modCrew k crew fun x => { x with arr := x.arr + 1 }
    if (Store.get Crew.none (t.clusterAt k).crews crew).arr = (Store.get Crew.none (t.clusterAt k).crews crew).live then
      ((t.completeRound k crew).acquire t.me).modCore fun c => { c with wait := none }
    else (t.modCore fun c => { c with wait := some (.cbar true) }).suspendBarrier

/-- The last steps of DONE (R325); where they complete a round, its records must find nodes first (R314). -/
def State.endTask (s : State) : State :=
  let crew := s.core.crewId
  if s.roundBlocked (clusterOf s.me) crew 0 then s.modCore fun k => { k with wait := some (.done 2) }
  else ((s.modCore fun k => k.stop s.cycle).crewLess (clusterOf s.me) crew).taskLess

/-- DONE from its post on (R325): a fault of the post is the bundle's own, and once it is absorbed the task still
ends. -/
def State.donePost (s : State) : State :=
  let x := s.core.info.stamp.toNat
  if x = 0 then s.endTask
  else
    match s.post (dieOf s.me) x with
    | (.done, t) => t.endTask
    | (.kept, t) => t.modCore fun k => { k with wait := some (.done 3) }
    | (.absent, t) => t.later
    | (.fault c, t) => (t.waitFault c (BitVec.ofNat 64 x) false).modCore fun k => { k with wait := some (.done 2) }

/-- Whether a count of the waiting record at an address still waits to be performed (R140, R315). -/
def State.counting (s : State) (d x : Nat) : Bool :=
  (s.dieAt d).owed.any fun o => o.va == x + 22 && match o.what with
    | .count .. => true
    | _ => false

/-- DONE (R325): 0 before its record is written, 1 before its post, 2 after a post that was not made, 3 while its post has
still to be performed. -/
def State.doneStep (s : State) (step : Nat) : State :=
  match step with
  | 0 =>
    if !s.core.drained || !s.core.releaseReady .part then s
    else
      (s.quiesce .part).putRecord .done fun t =>
        (t.modCore fun k => { k with wait := some (.done 1), info := { k.info with saved := true } }).donePost
  | 1 => s.donePost
  | 2 => s.endTask
  | _ => if s.counting (dieOf s.me) s.core.info.stamp.toNat then s else s.endTask

/-! ## SPAWN (R328) -/

/-- The fault of a record that SPAWN reads, if any (R328). -/
def spawnFault (w0 w1 w2 : Word) : Option FCode :=
  if w0.extractLsb' 0 3 != 0 || w1.getLsbD 40 || w1.extractLsb' 16 2 != 0 || w1.extractLsb' 60 4 != 1
      || w1.extractLsb' 12 4 != 0 || w1.extractLsb' 0 12 != 0 then some .reservedField
  else if w2.extractLsb' 0 3 != 0 then some .align
  else none

/-- LIVE of the record's crew, and of the grid, gains 1 (R328). -/
def State.moreLive (s : State) (cl crew : Nat) : State :=
  (s.modCrew cl crew fun x => { x with
    live := x.live + 1, made := true, cpol := if x.made then x.cpol else s.vector.w6.extractLsb' 0 2 }).modPkg
      fun g => { g with grid := g.grid.map fun y => { y with live := y.live + 1 } }

/-- The record is entered in its cluster: pool node, list or waiting set, and its STATE (R314, R328). -/
def State.enterSpawn (s : State) (key : Nat) (p : Word) (cl : Nat) (w1 w2 : Word) : State :=
  let cnt := (w2.extractLsb' 48 16).toNat
  let t := s.enterRecord cl
    { rec_ := offOf p, prio := (w1.extractLsb' 57 3).toNat, crew := (w1.extractLsb' 41 12).toNat, task := w1.extractLsb' 20 20,
      stamp := (w2.extractLsb' 0 48).toNat, age := s.cycle } cnt
  t.engineWrite t.me (key + 8) (bytesOf 8 ((w1 ||| (if cnt = 0 then 0 else 0x1000)).toNat)) 1

/-- SPAWN's last steps, once LIVE counts the record: a node, and its STATE (R314, R328). -/
def State.spawnEnter (s : State) (key : Nat) (p : Word) (cl : Nat) (w1 w2 : Word) : State :=
  if (s.clusterAt cl).freeNode.isNone then s.modCore fun k => { k with wait := some (.spawned key p cl w1 w2) }
  else (s.enterSpawn key p cl w1 w2).modCore fun k => { k with wait := none }

/-- SPAWN from its release on (R328). -/
def State.spawnStep (s : State) (p : Word) (cl : Nat) : State :=
  if !s.core.releaseReady .crew then s
  else
    let t := s.release s.me .crew
    match t.access t.me p .rw 64 0 false with
    | .fail c => t.waitFault c p false
    | .absent => t.later
    | .at_ l =>
      let w1 := t.viewWord t.me (l.key + 8)
      let w2 := t.viewWord t.me (l.key + 16)
      match spawnFault (t.viewWord t.me l.key) w1 w2 with
      | some c => t.waitFault c p false
      | none =>
        if 16 ≤ (Store.get Crew.none (t.clusterAt cl).crews (w1.extractLsb' 41 12).toNat).live then t.waitFault .range p false
        else (((t.touch t.me ((List.range 24).map (l.key + ·))).keepLeaf t.me l).moreLive cl (w1.extractLsb' 41 12).toNat).spawnEnter l.key p cl w1 w2

/-! ## Stamp waits (R342, R343, R362, R363) -/

/-- Where a stamp word lies: a peer word is translated by its target (R342). -/
def State.stampPlace (s : State) (p : Word) : Reach :=
  match s.access s.me p .read 8 0 false with
  | .at_ l =>
    if l.tag = 3 then s.peerAccess l.node l.key .read else .at_ l
  | r => r

/-- A stamp wait ends: its result lands in the next cycle, in which the next bundle may issue, its monitors are
disarmed, and an acquire is made if it asks for one (R362, R363; log entry 28). -/
def State.endStamp (s : State) (d : IOp) (x : Word) (acq : Bool) : State :=
  let w := match d with
    | .s n => Wr.scalar n x
    | .q n => { kind := .push, idx := n.toNat, mask := ones, val := x.setWidth 2048, room := s.core.waitOp.room }
  let t := { s with monitors := s.monitors.filter fun m => m.core != s.me, seen := s.seen.filter fun m => m.core != s.me }
  let t := t.modCore fun k => { k with
    wait := none, nextIssue := max k.nextIssue (s.cycle + 1),
    land := k.land ++ [{ due := s.cycle + 1, placed := s.cycle, slot := 2, num := k.waitOp.num, llb := false, latch := false, bundle := k.waitOp.bundle, writes := [w], vas := [] }] }
  if acq then t.acquire t.me else t

/-- The destination of the waiting instruction. -/
def waitDest (i : Instr) : IOp :=
  match i with
  | .waits _ d _ _ _ | .waitany _ d _ _ _ => d
  | _ => .s 0

/-- WAITS: translate, read, and arm where the condition does not hold yet (R362). -/
def State.stampStep (s : State) (p e : Word) (acq : Bool) : State :=
  match s.stampPlace p with
  | .fail c => s.waitFault c p false
  | .absent => s.later
  | .at_ l =>
    let x := BitVec.ofNat 64 (s.homeNat s.me l.key 8)
    if e.toNat ≤ x.toNat then s.endStamp (waitDest s.core.waitOp.instr) x acq
    else
      let t : State := { s with monitors := s.monitors ++ [{ core := s.me, mon := 8, key := l.key, exp := e }] }
      t.modCore fun k => { k with wait := some (.stamp p e acq true) }

/-- Completion barrier `k` of the core. -/
def Core.cbOf (c : Core) (k : Nat) : Cb := Store.get Cb.none c.cb k

/-- The barriers of a WAITANY mask. -/
def maskBits (m : BitVec 8) : List Nat := (List.range 8).filter (m.getLsbD ·)

/-- The first done barrier of a mask, scanning from ROT (R363). -/
def firstDone (rot : Nat) (done : Nat → Bool) (mask : BitVec 8) : Option Nat :=
  ((List.range 8).map fun j => (rot + j) % 8).find? fun k => mask.getLsbD k && done k

/-- WAITANY ends with barrier `k` (R363). -/
def State.endAny (s : State) (k : Nat) (acq clr : Bool) : State :=
  (s.endStamp (waitDest s.core.waitOp.instr) (BitVec.ofNat 64 k) acq).modCore fun c => { c with
    rot := BitVec.ofNat 3 (k + 1), cb := if clr then Store.set Cb.none c.cb k Cb.none else c.cb }

/-- The stamp words of a mask in ascending barrier order: their places, or the first that has none (R363). -/
def State.anyPlaces (s : State) : List Nat → Except (Word × Reach) (List (Nat × Nat))
  | [] => .ok []
  | k :: ks =>
    let b := s.core.cbOf k
    if b.addr = 0 then s.anyPlaces ks
    else
      match s.stampPlace b.addr with
      | .at_ l =>
        match s.anyPlaces ks with
        | .ok r => .ok ((k, l.key) :: r)
        | .error x => .error x
      | r => .error (b.addr, r)

/-- WAITANY, once every other slot of its bundle has issued (R363). -/
def State.anyStep (s : State) (mask : BitVec 8) (acq clr : Bool) : State :=
  match s.anyPlaces (maskBits mask) with
  | .error (p, .fail c) => s.waitFault c p false
  | .error _ => s.later
  | .ok ps =>
    let done := fun k =>
      match ps.find? fun x => x.1 == k with
      | none => true
      | some x => (s.core.cbOf k).exp.toNat ≤ s.homeNat s.me x.2 8
    match firstDone s.core.rot.toNat done mask with
    | some k => s.endAny k acq clr
    | none =>
      let t : State := { s with monitors := s.monitors ++ ps.map fun x =>
          { core := s.me, mon := x.1, key := x.2, exp := (s.core.cbOf x.1).exp } }
      t.modCore fun k => { k with wait := some (.any mask acq clr true) }

/-- The completion barriers of a core whose monitors watch the word of barrier `k` and hold of a value (R342, R363). -/
def State.sameWord (s : State) (k : Nat) (x : Word) : Nat → Bool := fun j =>
  s.monitors.any fun m => m.core == s.me && m.mon == j && m.exp.toNat ≤ x.toNat
    && s.monitors.any fun n => n.core == s.me && n.mon == k && n.key == m.key

/-- One write that a monitor of this core saw (R342, R343): CBSTAT records it, and a hit ends the wait; among several
barriers that one write makes done, the first from ROT is taken (R363). -/
def State.seeWrite (s : State) (w : Seen) : State :=
  let live := s.monitors.any fun m => m.core == s.me && m.mon == w.mon
  if !live then s
  else
    let t := s.modCore fun k =>
      k.setSpecial 29 (BitVec.ofNat 64 (w.mon * 256 + (if w.hit then 8 else 0) + w.cls))
    if !w.hit then t
    else
      match t.core.wait with
      | some (.stamp _ _ acq true) => t.endStamp (waitDest t.core.waitOp.instr) w.val acq
      | some (.any mask acq clr true) =>
        match firstDone t.core.rot.toNat (s.sameWord w.mon w.val) mask with
        | some k => (t.modCore fun c => c.setSpecial 29 (BitVec.ofNat 64 (k * 256 + 8 + w.cls))).endAny k acq clr
        | none => t
      | _ => t

/-- STAMP_MONITOR: the writes that the core's monitors saw are evaluated in their order (R342). -/
def execStampMonitor (s : State) : Out :=
  if s.core.freezing then .next s
  else
  let mine := s.seen.filter fun w => w.core == s.me
  .next (mine.foldl (fun t w => t.seeWrite w) { s with seen := s.seen.filter fun w => w.core != s.me })

/-! ## FENCEX (R308, R309) -/

/-- The core that FENCEX names, by node and CORE value (R307). -/
def fenceNode (a : Word) : Nat := (a.extractLsb' 8 8).toNat
/-- The CORE value. -/
def fenceCore (a : Word) : Nat := (a.extractLsb' 0 8).toNat
/-- The target as a core of this package. -/
def fenceTarget (a : Word) : Nat := fenceNode a % 4 * 144 + fenceCore a

/-- The narrowest scope of R288 that covers the issuer and the target. -/
def State.fenceScope (s : State) (a : Word) : Scope :=
  if !s.ownNode (fenceNode a) then .part
  else if fenceNode a ≠ s.node then .pkg
  else if fenceCore a / 16 = coreNo s.me / 16 then .crew else .die

/-- The forced boundary at a core: gate committed, that of a frozen task from its save area, bound writes released,
acquire (R309). -/
def State.forceBoundary (s : State) (e : Nat) (sc : Scope) : State :=
  ((if (s.coreAt e).frozen then s.commitArea e else s).release e sc).acquire e

/-- PHASE, whose gate has been committed (R302). -/
def State.phaseStep (s : State) (kind : PhaseKind) (scope : Scope) : State :=
  if kind ≠ .acq ∧ !s.core.releaseReady scope then s
  else
    let t := if kind = .acq then s else s.release s.me scope
    (if kind = .rel then t else t.acquire t.me).modCore fun k => { k with mwait := none }

/-- FENCEX: the release comes first, then the request is on its way (R308). -/
def State.fenceStep (s : State) (a : Word) (sc : Scope) : State :=
  if !s.core.releaseReady sc then s
  else (s.release s.me sc).modCore fun k => { k with mwait := some (.fence a sc true) }

/-! ## Progress of waits -/

/-- Progress of what slot ms waits for. -/
def State.advanceMs (s : State) : State :=
  match s.core.mwait with
  | some (.phase kind scope) => s.phaseStep kind scope
  | some (.fence a sc false) => s.fenceStep a sc
  | _ => s

/-- Progress of what slot cb waits for; a suspension, DONE, SPAWN or trap comes after slot ms. -/
def State.advanceCb (s : State) : State :=
  match s.core.wait with
  | some (.stamp p e acq false) => s.stampStep p e acq
  | some (.any mask acq clr false) => s.anyStep mask acq clr
  | some w =>
    if s.core.mwait.isSome then s
    else
      match w with
      | .trap imm =>
        if s.core.land.isEmpty then s.enterTrap s.me imm s.core.waitOp.bundle s.core.waitOp.len else s
      | .eret => if s.core.land.isEmpty then s.returnTrap s.me else s
      | .yield => s.suspendReady s.cycle
      | .released age => s.suspendReady age
      | .cbar false => s.arrive
      | .cbar true => s.suspendBarrier
      | .done step => s.doneStep step
      | .spawn p cl => s.spawnStep p cl
      | .spawned key p cl w1 w2 => s.spawnEnter key p cl w1 w2
      | .phase .. | .fence .. | .stamp .. | .any .. | .rewalk _ | .fetch _ => s
  | none => s

/-- Progress of both. -/
def State.advance (s : State) : State := s.advanceMs.advanceCb

/-- Slot cb starts to wait; it makes its first progress at once when nothing else of the bundle is left. -/
def State.awaitCb (s : State) (w : Wait) (room : Nat) : Out :=
  let t := s.modCore fun k => { k with wait := some w, waitOp := { k.cur with latched := true, room := room } }
  .next (if t.alone then t.advance else t)

/-- The same for slot ms. -/
def State.awaitMs (s : State) (w : Wait) : Out :=
  let t := s.modCore fun k => { k with mwait := some w, mwaitOp := { k.cur with latched := true } }
  .next (if t.alone then t.advance else t)

/-! ## The instructions -/

/-- TRAP: a fault in supervisor mode or with TVEC.EN clear, else the handler once landings are over (R142). -/
def execTrap (c : Ctl) (imm : BitVec 16) (s : State) : Out :=
  s.scalarSlot c [] [] fun t =>
    if t.core.sup || !(t.core.special 20).getLsbD 0 then t.fail .trap (imm.setWidth 64) else t.awaitCb (.trap imm) 0

/-- ERET (R143). -/
def execEret (c : Ctl) (s : State) : Out :=
  s.scalarSlot c [] [] fun t => if !t.core.sup then t.fail .priv 0 else t.awaitCb .eret 0

/-- YIELD (R324). -/
def execYield (c : Ctl) (s : State) : Out := s.scalarSlot c [] [] fun t => t.awaitCb .yield 0
/-- DONE (R325). -/
def execDone (c : Ctl) (s : State) : Out := s.scalarSlot c [] [] fun t => t.awaitCb (.done 0) 0
/-- CBAR (R326). -/
def execCbar (c : Ctl) (s : State) : Out := s.scalarSlot c [] [] fun t => t.awaitCb (.cbar false) 0

/-- SPAWN: the checks of R328 on its operands, then the rest once its release is made. -/
def execSpawn (c : Ctl) (a b : IOp) (s : State) : Out :=
  s.scalarSlot c [a, b] [] fun t =>
    let p := t.src .a a
    let x := t.src .b b
    let cl := if x.getLsbD 4 then coreNo t.me / 16 else (x.extractLsb' 0 4).toNat
    if x.extractLsb' 5 59 != 0 || (x.getLsbD 4 && x.extractLsb' 0 4 != 0) then t.fail .reservedField 0
    else if 9 ≤ cl || !(t.clmask (dieOf t.me)).getLsbD cl then t.fail .range x
    else if tagOf p ≠ 0 then t.fail .spaceTag p
    else if p.extractLsb' 0 6 ≠ 0 then t.fail .align p
    else t.awaitCb (.spawn p (dieOf t.me * 9 + cl)) 0

/-- The tags of a stamp word (R342). -/
def stampTag (p : Word) : Bool := tagOf p == 0 || tagOf p == 3 || tagOf p == 4 || tagOf p == 5 || tagOf p == 7

/-- WAITS (R362). -/
def execWaits (c : Ctl) (d a b : IOp) (acq : Bool) (s : State) : Out :=
  s.scalarSlot c [a, b] [d] fun t =>
    let p := t.src .a a
    if !stampTag p then t.fail .spaceTag p
    else if p.extractLsb' 0 3 ≠ 0 then t.fail .align p
    else (t.wrI d 0).2.awaitCb (.stamp p (t.src .b b) acq false) (t.wrI d 0).1.room

/-- WAITANY (R363). -/
def execWaitany (c : Ctl) (d : IOp) (mask : BitVec 8) (acq clr : Bool) (s : State) : Out :=
  s.scalarSlot c [] [d] fun t => (t.wrI d 0).2.awaitCb (.any mask acq clr false) (t.wrI d 0).1.room

/-- PHASE (R302). -/
def execPhase (c : Ctl) (kind : PhaseKind) (scope : Scope) (s : State) : Out :=
  s.scalarSlot c [] [] fun t => (if kind = .acq then t else t.commitGate t.me).awaitMs (.phase kind scope)

/-- FENCEO: later accesses wait for the earlier ones that have not bound (R306). -/
def execFenceo (c : Ctl) (s : State) : Out :=
  s.scalarSlot c [] [] fun t =>
    .next (t.modCore fun k => { k with pend := k.pend.map fun p => if p.bound then p else { p with fenced := true } })

/-- FENCEX (R308). -/
def execFencex (c : Ctl) (a : IOp) (s : State) : Out :=
  s.scalarSlot c [a] [] fun t =>
    let x := t.src .a a
    if x.extractLsb' 16 48 ≠ 0 then t.fail .reservedField 0
    else if !t.member (fenceNode x) then t.fail .remoteUnreachable x
    else if t.ownNode (fenceNode x) && fenceTarget x == t.me && fenceCore x < 144 then (t.commitGate t.me).awaitMs (.phase .ar .core)
    else (t.commitGate t.me).awaitMs (.fence x (t.fenceScope x) false)

/-- Whether the core that a FENCEX names can take its forced boundary: a frozen task's save area is reachable (log entry 81),
and faults of the target's task come first (R309). -/
def State.boundaryOpen (s : State) (e : Nat) : Bool :=
  s.areaOpen e && ((s.coreAt e).late.isEmpty || (s.coreAt e).run != .running)

/-- FORCED_BOUNDARY: the core named by a FENCEX under way takes its forced boundary; it lies between two issues
here (R309). -/
def execForcedBoundary (core : Nat) (s : State) : Out :=
  match s.core.mwait with
  | some (.fence a sc true) =>
    if s.ownNode (fenceNode a) && core == fenceTarget a && s.enabledAt (fenceNode a) (fenceCore a) && s.boundaryOpen core then
      .next (s.forceBoundary core sc)
    else .next s
  | _ => .next s

/-- FENCEX_ACK: the acknowledgement, or the answer RANGE for a core that is not enabled (R308). -/
def execFencexAck (s : State) : Out :=
  match s.core.mwait with
  | some (.fence a _ true) =>
    if s.ownNode (fenceNode a) && s.enabledAt (fenceNode a) (fenceCore a) && !s.boundaryOpen (fenceTarget a) then .next s
    else
    let t := s.modCore fun k => { k with mwait := none }
    if s.enabledAt (fenceNode a) (fenceCore a) then .next (t.acquire t.me)
    else .next (t.modCore fun k => { k with
      raised := k.raised ++ [{ code := .range, addr := a, slot := 3, bundle := k.mwaitOp.bundle, hard := false }] })
  | _ => .next s

/-! ## Write-backs that follow a release (R303), and eviction (R295) -/

/-- The phase-cache lines that the present phase has touched (R295). -/
def Core.curLines (c : Core) : List Nat := (c.cache.filter (·.2.cur)).map (·.1)

/-- DIRTY_WRITEBACK: a started write-back is performed at its home; a phase that has touched more than 1024 lines evicts
the line given. -/
def execDirtyWriteback (line : Nat) (s : State) : Out :=
  let m := Store.get 0 s.core.backing line
  if m ≠ 0 then .next (s.writeBack s.me line m)
  else if 1024 < s.core.curLines.length && s.core.curLines.contains line then
    .next ((s.writeBack s.me line (BitVec.allOnes 128)).modCore fun k =>
      { k.count 11 1 with cache := Store.set CLine.none k.cache line CLine.none })
  else .next s

/-! ## TLBI (R259 to R261) -/

/-- The cores a TLBI reaches. -/
def State.tlbiCores (s : State) (sc : TlbScope) : List Nat :=
  match sc with
  | .core => [s.me]
  | .die => (List.range 144).map (fun j => dieOf s.me * 144 + j) |>.filter s.enabled
  | .pkg | .part => (List.range 576).filter s.enabled

/-- TLBI (R261): the mode is checked before a q register pops. -/
def execTlbi (c : Ctl) (a : IOp) (all : Bool) (scope : TlbScope) (s : State) : Out :=
  s.scalarSlot c [] [] fun t =>
    if !t.core.sup then t.fail .priv 0
    else t.withOperands (if all then [] else [a]) [] fun t =>
      let x := if all then 0 else t.src .a a
      if 2 < tagOf x then t.fail .spaceTag x
      else
        let u := (t.commitGate t.me).releaseLines t.me (tlbiScope scope)
        let p := u.newPend 0 x 0 0
        .next (u.startPend { p with perf := true, left := u.tlbiCores scope })

/-- Whether a TLBI's page covers a pointer whose page has a size: the page contains both (R261). -/
def Pend.covers (p : Pend) (size : Nat) (v : Word) : Bool :=
  match p.op.instr with
  | .tlbi _ _ true _ => tagOf v ≤ 2
  | _ => tagOf v ≤ 2 && offOf v / size == offOf p.op.a / size

/-- The size of the page of a pointer as the tables of node `n` stand: a 4 KiB page where they hold no leaf. -/
def State.pageSize (s : State) (n : Nat) (v : Word) : Nat :=
  match s.walkNode none n (offOf v) with
  | .leaf _ size => size
  | .fail _ | .absent => 4096

/-- The pointers for whose pages a core may be waiting (R140). -/
def Core.waitPages (k : Core) : List Word :=
  match k.wait with
  | some (.rewalk v) | some (.fetch v) | some (.stamp v _ _ false) | some (.spawn v _) => [v]
  | some (.any mask _ _ false) => (maskBits mask).map fun j => (k.cbOf j).addr
  | some .yield | some (.released _) | some (.cbar _) | some (.done _) => [k.special 27, BitVec.ofNat 64 k.info.stamp.toNat]
  | _ => []

/-- An access of a core that a TLBI covers and that is not complete (R259): its pointer and bundle, whether it is one of slot
ms under a leaf with MIG = 1, and its number: 3 × that of an operation in flight, 3 × that of its issue + 1 for a timed load,
2 for the record of a SPAWN. -/
structure Covered where
  va     : Word
  bundle : Word
  mig    : Bool
  num    : Nat
  deriving DecidableEq, Repr

/-- The accesses of core `e` that a TLBI covers and that are not complete, those of a frozen task too (R259). An operation of
an earlier run only holds the TLBI back, and so does the record of a SPAWN, which is no access of slot ms (DEDUCED, log
entry 91). A gated store, translated and not yet performed, counts as complete (DEDUCED, log entry 91). -/
def State.tlbiAccesses (s : State) (p : Pend) (e : Nat) : List Covered :=
  let k := s.coreAt e
  ((k.land ++ k.kept).flatMap fun l => (l.vas.filter fun x => p.covers x.2.1 x.1).map fun x =>
      { va := x.1, bundle := l.bundle, mig := x.2.2, num := 3 * l.num + 1 })
    ++ (k.pend.flatMap fun q => (q.locs.filter fun x => x.2.2.tag ≤ 2 && p.covers x.2.2.pageOf.1 x.2.1).map fun x =>
      { va := x.2.1, bundle := q.op.bundle, mig := x.2.2.pageOf.2 && k.owns q.own, num := 3 * q.id })
    ++ match k.wait with
      | some (.spawned _ v ..) =>
        if p.covers (s.pageSize (s.nodeOf (dieOf e)) v) v then [{ va := v, bundle := k.waitOp.bundle, mig := false, num := 2 }] else []
      | _ => []

/-- Whether a save area that core `e` is about to write under translations held is covered (R144, R259). -/
def State.tlbiArea (s : State) (p : Pend) (e : Nat) : Bool :=
  match s.pkg.freeze with
  | some z => z.core == e && (List.range (areaSize / 4096)).any fun i =>
      let v := addOffset (s.areaPtr e) (BitVec.ofNat 64 (4096 * i))
      p.covers (s.pageSize (s.nodeOf (dieOf e)) v) v
  | none => false

/-- Whether what a TLBI waits for at core `e` is still to be done: 5 stands for a save area not yet written, any other number
for an access as Covered.num names it (R144, R259). -/
def State.tlbiHeld (s : State) (e n : Nat) : Bool :=
  let k := s.coreAt e
  if n = 5 then s.pkg.freeze.any fun z => z.core == e
  else if n = 2 then match k.wait with
    | some (.spawned ..) => true
    | _ => false
  else if n % 3 = 0 then k.pend.any fun q => q.id == n / 3
  else (k.land ++ k.kept).any fun l => l.num == n / 3 && !l.vas.isEmpty

/-- An access without a mark behind it that a migration met is over, by the fault PAGE_NOT_PRESENT (R141). -/
def State.faultAccess (s : State) (e : Nat) (x : Covered) : State :=
  let t := s.modCoreAt e (·.count 9 1)
  if x.num % 3 = 0 then
    match (t.coreAt e).pendOf (x.num / 3) with
    | some q => t.asCore e fun u => u.failAccess q .pageNotPresent x.va
    | none => t
  else t.modCoreAt e fun c => { c with
    land := c.land.filter fun l => !(l.num == x.num / 3 && l.vas.any fun y => y.1 == x.va),
    late := c.late ++ [{ code := .pageNotPresent, addr := x.va, slot := 3, bundle := x.bundle, hard := false }] }

/-- Accesses of core `e` under covered leaves with MIG = 1 meet a restart event (R140, R141, R259): the core rolls back to its
mark; without one each access faults. -/
def State.migrate (s : State) (e : Nat) (xs : List Covered) : State :=
  match xs, (s.coreAt e).shadow with
  | x :: _, some _ => s.restartEvent e x.va x.bundle
  | _, _ => xs.foldl (fun t x => t.faultAccess e x) s

/-- A TLBI reaches core `e` (R259): the translations are dropped, what waits for a covered page walks again, and unfinished
accesses under covered leaves with MIG = 1 meet a restart event, those of a frozen task at its resume. The answer lists what
the TLBI has still to wait for there. -/
def State.tlbiReach (s : State) (p : Pend) (e : Nat) : State × List Nat :=
  let xs := s.tlbiAccesses p e
  let seen := fun (v : Word) => p.covers (s.pageSize (s.nodeOf (dieOf e)) v) v
  let t := s.modCoreAt e fun c => { c with
    tlb := c.tlb.filter fun x => match p.op.instr with
      | .tlbi _ _ true _ => false
      | _ => offOf p.op.a / x.size != x.page,
    nextIssue := if c.waitPages.any seen then min c.nextIssue s.cycle else c.nextIssue }
  let t := t.modDie (dieOf e) fun d => { d with walk := [] }
  let t := if (t.dieAt (dieOf e)).owed.any fun o => seen (BitVec.ofNat 64 o.va) then t.retryOwed (dieOf e) else t
  let hit := xs.filter (·.mig)
  (if (s.coreAt e).frozen then t.modCoreAt e fun c => { c with thaw := c.thaw ++ hit.map fun x => (x.va, x.bundle, x.num) }
    else t.migrate e hit,
   ((xs.filter fun x => !x.mig || x.num % 3 = 0).map (·.num)) ++ if s.tlbiArea p e then [5] else [])

/-- TLBI_INVALIDATE: the TLBI reaches one core it has left; after the last it completes once what it waits for is done
(R259, R261). -/
def execTlbiInvalidate (id core : Nat) (s : State) : Out :=
  match s.core.pendOf id with
  | none => .next s
  | some p =>
    match p.op.instr with
    | .tlbi .. =>
      if s.cycle < p.due || s.core.relWaits p then .next s
      else
        let (t, q) := if p.left.contains core then
            ((s.tlbiReach p core).1, { p with
              left := p.left.filter (· != core), keys := p.keys ++ (s.tlbiReach p core).2.map fun n => (core, n) })
          else (s, p)
        .next (if q.left.isEmpty && !q.keys.any fun x => t.tlbiHeld x.1 x.2 then t.dropPend q else t.setPend q)
    | _ => .next s

/-! ## Waiting pages -/

/-- REWALK: a core rolled back to its mark walks again for the page it met absent; once it is present, the mark
bundle reissues (R141). -/
def execRewalk (s : State) : Out :=
  match s.core.wait with
  | some (.rewalk va) =>
    if s.cycle < s.core.nextIssue then .next s
    else
      match s.access s.me va .read 1 0 false with
      | .absent => .next s.later
      | _ => .next (s.modCore fun k => { k with wait := none })
  | _ => .next s

end Sys2Proof.Machine
end

