-- ==== Sys2Proof/Machine/Issue.lean ====
section
/-! DEFINITION. Fetch, decoding and issue of a bundle, held slots, landing, and the resolution of faults at bundle
boundaries (R52, R68 to R84, R133 to R136, R173, R319). -/

namespace Sys2Proof.Machine

/-! ## Fetch (R52, R68) -/

/-- What fetching and decoding the bundle at an address answers. -/
inductive Fetched where
  | ok (h : Header) (ops : List (Nat × Instr))
  | fail (c : FCode) (slot : Nat) (addr : Word) (len : Nat) (fetch : Bool)
  | absent (va : Word)
  deriving DecidableEq, Repr

/-- Where a word of a bundle lies: Translate with execute permission, the target translating a peer address (R52, R243,
R254 to R256). -/
def State.fetchPlace (s : State) (e : Nat) (va : Word) : Reach :=
  match s.access e va .exec 8 0 false with
  | .at_ l => if l.tag = 3 then s.peerAccess l.node l.key .exec else .at_ l
  | r => r

/-- One word of a bundle as core `e` fetches it (R52). -/
def State.fetchWord (s : State) (e : Nat) (va : Word) : Except Fetched Word :=
  match s.fetchPlace e va with
  | .at_ l => .ok (s.wordAt l.key)
  | .fail c => .error (.fail c 8 va 8 true)
  | .absent => .error (.absent va)

/-- The words at some addresses, or the first that cannot be fetched. -/
def State.fetchWords (s : State) (e : Nat) : List Word → Except Fetched (List Word)
  | [] => .ok []
  | a :: as =>
    match s.fetchWord e a with
    | .error x => .error x
    | .ok w =>
      match s.fetchWords e as with
      | .error x => .error x
      | .ok ws => .ok (w :: ws)

/-- The slot words decoded in order S0 to S7; the first failure names its slot and its word's address (R68,
R69). -/
def decodeSlots (pc : Word) (len : Nat) : Nat → List Nat → List Word → Except Fetched (List (Nat × Instr))
  | _, [], _ => .ok []
  | _, _, [] => .ok []
  | j, k :: ks, w :: ws =>
    match decodeSlot k w with
    | .error f => .error (.fail (ofDecode f) k (pc + BitVec.ofNat 64 (8 * (j + 1))) len false)
    | .ok i =>
      match decodeSlots pc len (j + 1) ks ws with
      | .error x => .error x
      | .ok l => .ok ((k, i) :: l)

/-- The bundle at `pc` of core `e` (R52, R68). -/
def State.fetchBundle (s : State) (e : Nat) (pc : Word) : Fetched :=
  match s.fetchWord e pc with
  | .error x => x
  | .ok hw =>
    let present := (List.range 8).filter ((hw.extractLsb' 56 8).getLsbD ·)
    let len := 8 * (1 + present.length)
    match s.fetchWords e ((List.range present.length).map fun j => pc + BitVec.ofNat 64 (8 * (j + 1))) with
    | .error (.fail c k a _ f) => .fail c k a len f
    | .error x => x
    | .ok ws =>
      match decodeHeader hw with
      | .error f => .fail (ofDecode f) 8 pc len false
      | .ok h =>
        match decodeSlots pc len 0 present ws with
        | .error x => x
        | .ok ops => .ok h ops

/-! ## The operations of an issue (R76 to R80) -/

/-- A slot operation of a bundle at its issue. -/
def slotOp (pc : Word) (len : Nat) (h : Header) (num : Nat) (k : Nat) (i : Instr) : SlotOp :=
  { SlotOp.none with slot := k, instr := i, bundle := pc, len := len, bar := h.set, num := num }

/-- A sticky re-issue: a vector operation reads everything afresh (R77), another uses what it latched, stepped
(R78); the guard and FMODE are read afresh (R110) and the barrier is the one of its own issue (R79). -/
def Core.reissue (c : Core) (pc : Word) (len num : Nat) (x : Sticky) : SlotOp :=
  let k := BitVec.ofNat 64 (x.k + 1)
  { x.op with
    bundle := pc, len := len, num := num, go := false, fmode := c.special 10,
    guard := c.guardOf x.op.slot x.op.instr,
    a := if x.op.latched then x.op.a + k * x.stepA else 0,
    b := if x.op.latched then x.op.b + k * x.stepB else 0,
    c := match x.op.instr with
      | .kvld .. => c.special 14
      | _ => x.op.c }

/-- Every operation of the issue of a bundle, in slot order: the slots present and the sticky operations of absent
slots that are not cancelled (R76, R80). -/
def Core.issueOps (c : Core) (h : Header) (ops : List (Nat × Instr)) : List SlotOp :=
  (List.range 8).filterMap fun k =>
    match ops.find? fun x => x.1 == k with
    | some x => some (slotOp c.pc h.length h (c.issues + 1) k x.2)
    | none =>
      if 4 ≤ k && h.scancel.getLsbD (k - 4) then none
      else (c.sticky.find? fun x => x.op.slot == k).map (c.reissue c.pc h.length (c.issues + 1))

/-- Whether an operation has a true guard now. -/
def Core.enables (c : Core) (o : SlotOp) : Bool := c.guardOf o.slot o.instr != 0

/-- Whether an operation is held at its issue: its ready tag's tile is not READY, or an older operation of its slot
is held (R81). One with a false guard is a no-op and is not held (R57). -/
def Core.mustHold (c : Core) (o : SlotOp) : Bool :=
  !o.go && 4 ≤ o.slot && c.enables o
    && ((c.held.any fun x => x.2.slot == o.slot)
      || match (ctlOf o.instr).bind (·.rtag) with
        | some t => !c.tready.getLsbD t.toNat
        | none => false)

/-! ## What keeps a bundle from issuing -/

/-- How often a value occurs. -/
def countOf {α : Type} [DecidableEq α] (l : List α) (x : α) : Nat := (l.filter (· == x)).length

/-- The state in which an operation of the issue reads: earlier slots have popped (R319). -/
def State.whenReads (s : State) (ops : List SlotOp) (o : SlotOp) : State :=
  if (pops o.instr).isEmpty then s
  else
    (ops.filter fun x => x.slot < o.slot && s.core.enables x && !x.latched
      && s.core.mapped (queueOps x.instr).1 (queueOps x.instr).2).foldl (fun t x => t.popAll (pops x.instr)) s

/-- Whether an operation of the issue counts for its barrier (R73, R267). -/
def State.counts (s : State) (o : SlotOp) : Bool :=
  s.core.enables o && (variableLatency o.instr
    || (isStore o.instr && (s.pointers o.instr (s.core.guardOf o.slot o.instr)).1.any fun x => tagOf x.2 == 3))

/-- R74: room in every barrier. -/
def State.barsOk (s : State) (ops : List SlotOp) : Bool :=
  let up := (ops.filter fun o => (s.whenReads ops o).counts o).filterMap (·.bar)
  up.all fun b => Store.get 0 s.core.db b.toNat + countOf up b ≤ 63

/-- The queue a q register reaches, as a key (R318). -/
def Core.qKey (c : Core) (n : Nat) : Nat × Nat :=
  let d := Store.get 0 c.qtab n
  match qKind d with
  | 1 => (1, n)
  | 2 | 3 => (2, c.stageOf n)
  | 4 => (4, (d.extractLsb' 0 6).toNat)
  | k => (k, n)

/-- R319: entries for every pop and room for every push. -/
def State.queuesOk (s : State) (ops : List SlotOp) : Bool :=
  let c := s.core
  let live := ops.filter fun o => c.enables o && !o.latched && c.mapped (queueOps o.instr).1 (queueOps o.instr).2
  let ps := live.flatMap fun o => pops o.instr
  let ws := live.flatMap fun o => pushes o.instr
  (ps.all fun n => countOf (ps.map c.qKey) (c.qKey n) ≤ (s.qEntries s.me n).length)
    && ws.all fun n => countOf (ws.map c.qKey) (c.qKey n) ≤ s.qRoom s.me n

/-- Whether an operation needs an entry of the load landing buffer (R174, R265). -/
def State.needsLlb (s : State) (o : SlotOp) : Bool :=
  match o.instr with
  | .ld .. | .ldv .. | .ldvs .. | .ldvg .. =>
    (s.pointers o.instr (s.core.guardOf o.slot o.instr)).1.any fun x => tagOf x.2 ≤ 2
  | _ => false

/-- Whether a JOBQ of a pointer finds a place in the cluster's card queue, and its card's page is there; one that will fault
needs neither (R140, R335). -/
def State.jobqRoom (s : State) (p : Word) : Bool :=
  (tagOf p != 0 && tagOf p != 5 && tagOf p != 7) || p.extractLsb' 0 6 != 0
    || ((s.clusterAt (clusterOf s.me)).waitingCards.length < 64 && s.access s.me p .read 64 0 false != .absent)

/-- Entries of the landing queue that are taken. -/
def Core.landqLen (c : Core) : Nat := (c.land.filter fun l => !l.llb && !l.latch).length
/-- Entries of the load landing buffer that are taken. -/
def Core.llbLen (c : Core) : Nat := (c.land.filter fun l => l.llb && !l.latch).length

/-- R173 and R174: landing room for what performs at this issue. -/
def State.landingOk (s : State) (ops : List SlotOp) : Bool :=
  let now := ops.filter fun o => s.core.enables o && !s.core.mustHold o && fixedLatency o.instr
  let long := now.filter fun o => (s.whenReads ops o).needsLlb o
  (now.length = long.length || s.core.landqLen + (now.length - long.length) ≤ 32)
    && (long.isEmpty || s.core.llbLen + long.length ≤ 64)

/-- The waiting jobs of the job queue (R208). -/
def Core.waitingJobs (c : Core) : Nat :=
  (c.jobs.filter fun j => j.start.isNone && j.card.isNone && jobPath j.op.instr != some .fetch).length

/-- The copy queue that an operation takes an entry of (R336, R386, R423). -/
def copyQueue (i : Instr) : Option (BitVec 2) :=
  match i with
  | .cpy _ _ _ _ q _ | .cpyt _ _ _ _ q _ | .cpyl _ _ q _ | .kvld _ _ _ _ _ q _ | .send _ _ _ _ q _ | .sendRq _ _ _ _ q _
  | .coll _ _ q _ | .reshard _ _ _ _ q _ => some q
  | _ => none

/-- R208, R335, R336: room in the queues that a tn or cf operation enters; a held one has its place already. -/
def State.engineRoom (s : State) (o : SlotOp) : Bool :=
  let c := s.core
  let held := c.held.map (·.2.instr)
  match jobPath o.instr with
  | some .fetch =>
    (jobTiles o.instr).all fun t => !(c.tileWord t 3).getLsbD 63
      && !(held.any fun i => jobPath i == some .fetch && (jobTiles i).contains t)
  | some _ => c.waitingJobs + (held.filter fun i => jobPath i == some .array || jobPath i == some .weight).length < 3
  | none =>
    match copyQueue o.instr with
    | some q => (c.copies.filter fun x => x.q == q && x.stage != .performed && x.stage != .handed && x.card.isNone).length
        + (held.filter fun i => copyQueue i == some q).length < 16
    | none =>
      match o.instr with
      | .jobq _ a => s.jobqRoom (s.peek a)
      | _ => true

/-- Whether an operation gives each of its lanes a pointer of its own lane (R257). -/
def laneWise (i : Instr) : Bool :=
  match i with
  | .ldv .. | .ldvs .. | .ldvg .. | .stv .. | .stvs .. | .stvx .. | .ldvq .. => true
  | _ => false

/-- The 128-byte lines at their home that a memory operation's lanes reach; a decoded view reads those of its source. -/
def State.linesOf (s : State) (i : Instr) (ptrs : List (Nat × Word)) (n : Nat) : List Nat :=
  (ptrs.flatMap fun x =>
    let kind : AccKind := if isStore i then .write else .read
    match s.access s.me x.2 kind 1 x.1 (laneWise i) with
    | .at_ l =>
      if l.tag = 3 then
        match s.peerAccess l.node l.key kind with
        | .at_ m => [m.key / 128]
        | .fail _ | .absent => []
      else if l.tag = 2 then (s.readKeys n l).map (· / 128)
      else (List.range ((n + 127) / 128)).map (l.key / 128 + ·)
    | .fail _ | .absent => []).dedup

/-- Whether an operation in flight keeps a later access off its lines: an atomic, ROP, TLD or PFXL until it completes, a store
through a peer pointer until it is performed (R266, R294). -/
def Pend.holdsLines (p : Pend) : Bool :=
  match p.op.instr with
  | .atom .. | .cas .. | .ropMcas .. | .ropEnq .. | .ropChase .. | .tld .. | .pfxl .. => true
  | .st .. | .stv .. | .stvs .. | .stvx .. | .tst .. => !p.perf
  | _ => false

/-- Whether an operation reads and writes at its home alone, where earlier accesses hold it (State.heldAtHome). -/
def bindsAtHome (i : Instr) : Bool :=
  match i with
  | .ldq .. | .ldvq .. | .tld .. | .shmld .. | .atom .. | .cas .. => true
  | _ => false

/-- R266: an access that reads or writes at its issue waits for an earlier atomic, ROP, TLD or PFXL on one of its lines, and
for an earlier store through a peer pointer to reach its home; a store that is not itself one of those waits also for an
earlier queued read that something holds at its home or that reads through a peer pointer. -/
def State.linesFree (s : State) (i : Instr) (ptrs : List (Nat × Word)) (n : Nat) : Bool :=
  let peer := isStore i && ptrs.any fun x => tagOf x.2 == 3
  let busy := s.core.pend.filter fun p => (p.holdsLines && !(peer && isStore p.op.instr))
    || (isStore i && !peer && p.unread && (p.peer || s.heldAtHome p))
  bindsAtHome i || busy.isEmpty
    || !((s.linesOf i ptrs n).any fun x => busy.any fun p => (s.homeKeys p).any fun k => k / 128 == x)

/-- Whether an access of the core with some pointers binds at its issue (R305): not what reads at its home, nor a store
through a peer pointer, nor a ROP. -/
def bindsAtIssue (i : Instr) (ptrs : List (Nat × Word)) : Bool :=
  !ptrs.isEmpty && !bindsAtHome i && !(isStore i && ptrs.any fun x => tagOf x.2 == 3) && match i with
    | .ropMcas .. | .ropEnq .. | .ropChase .. => false
    | _ => true

/-- Whether an operation may write memory that others see, itself or by a job (R292). -/
def writesMemory (i : Instr) : Bool :=
  isStore i || (copyQueue i).isSome || match i with
    | .atom .. | .cas .. | .ropMcas .. | .ropEnq .. | .ropChase .. | .kvst .. | .kalloc .. | .kfree .. | .pfxl .. | .pfxi ..
    | .pfxp .. | .specc .. | .speca .. | .jobq .. | .tdrain .. | .spawn .. | .yield _ | .cbar _ | .done _ => true
    | _ => false

/-- What keeps an access with some pointers waiting: the core's operations in flight on its lines (R266), its earlier jobs
that write its bytes (R298), a FENCEO (R306), and a release that has begun (R292, R293). -/
def State.accessFree (s : State) (i : Instr) (ptrs : List (Nat × Word) × Nat) : Bool :=
  let c := s.core
  (ptrs.1.isEmpty || (s.linesFree i ptrs.1 ptrs.2
      && !meetAny (ptrs.1.map fun x => region x.2 ptrs.2) (s.pendingWrites s.me c.nextId)))
    && (!bindsAtIssue i ptrs.1 || !(c.pend.any fun p => p.fenced && !p.bound))
    && (!writesMemory i || !c.releasing)

/-- The sharding maps that an operation names (R376). -/
def mapsOf (i : Instr) : List (BitVec 3) :=
  (implicitReads i).filterMap fun
    | .map k => some k
    | _ => none

/-- Whether a map register has a pending SHMLD (R374). -/
def Core.mapPending (c : Core) (m : BitVec 3) : Bool :=
  c.pend.any fun p => c.owns p.own && match p.op.instr with
    | .shmld _ _ k => k == m
    | _ => false

/-- What keeps an operation that accesses memory from issuing (R266, R278, R292, R298, R306, R330, R376), and a RESHARD
(R376). -/
def State.accessOk (s : State) (o : SlotOp) : Bool :=
  let c := s.core
  let ptrs := s.pointers o.instr (c.guardOf o.slot o.instr)
  ((mapsOf o.instr).all fun m => !c.mapPending m || c.special 11 == 1)
    && s.accessFree o.instr ptrs
    && match o.instr with
      | .ldq _ d .. =>
        let q := Store.get Stream.none c.streams d.toNat
        qKind (Store.get 0 c.qtab d.toNat) ≠ 1 || q.ready.length + q.owed.length < 16
      | .ropMcas .. | .ropEnq .. | .ropChase .. => (c.pend.filter (·.mantis)).length < 16
      | .atom .. | .cas .. => (ptrs.1.all fun x => tagOf x.2 ≠ 3) || (c.pend.filter (·.mantis)).length < 16
      | _ => true

/-- Whether every rule allows the issue of some operations of a bundle (R70, R74, R83, R84, R173, R208, R319). -/
def State.mayIssue (s : State) (h : Header) (ops : List SlotOp) : Bool :=
  let c := s.core
  ((List.range 8).all fun j => !h.wait.getLsbD j || Store.get 0 c.db j = 0)
    && (match c.held with
      | [] => true
      | x :: _ => c.issues - x.1 < 4 && !h.slots.getLsbD 2)
    && (!h.mark || c.rep.isSome || (c.land.isEmpty && c.held.isEmpty))
    && s.barsOk ops && s.queuesOk ops && s.landingOk ops
    && (ops.filter c.enables).all fun o => (s.whenReads ops o).engineRoom o && (s.whenReads ops o).accessOk o

/-! ## The checking scoreboard (R72) -/

/-- The scalar register that a held variable-latency operation will write, pending from its issue on (R267, R401). -/
def SlotOp.owes (o : SlotOp) : Option Nat :=
  match o.instr with
  | .linkst _ (.s n) _ => some n.toNat
  | _ => Option.none

/-- The physical registers that a write in flight holds. -/
def Core.pendingHas (c : Core) (kind : WrKind) (idx : Nat) : Bool :=
  let hit := fun (w : Wr) => (w.kind == kind && w.idx == idx) || (w.kind == .p8 && kind == .pred && 8 ≤ idx)
  (c.land.any fun l => l.writes.any hit) || (c.pend.any fun p => c.owns p.own && p.dest.any hit)
    || (kind == .scalar && c.held.any fun x => x.2.owes == some idx)

/-- Whether a register has a pending landing (R72, R267, R331, R374). -/
def Core.refPending (c : Core) (r : Ref) : Bool :=
  match r with
  | .s n => c.pendingHas .scalar n.toNat
  | .v n => c.pendingHas .vector (vPhys (c.special 8).toNat n.toNat)
  | .p n => n != 0 && c.pendingHas .pred (pPhys (c.special 9).toNat n.toNat)
  | .q n => c.pendingHas .bind n.toNat
  | .special i => c.pendingHas .special i
  | .map k => c.mapPending k

/-- The registers that an operation of the issue reads: its guard, and its operands under a true guard or where it latches
them to become sticky, unless it latched them before (FMODE is read afresh all the same, R110), its destination queue and the
steps it latches (R72, R78, R331). -/
def Core.readRefs (c : Core) (o : SlotOp) : List Ref :=
  match ctlOf o.instr with
  | none => []
  | some k =>
    .p k.guard ::
      (if !c.enables o && !(k.sticky && 6 ≤ o.slot && !o.latched) then []
       else if o.latched then (if readsFmode o.instr then [.special 10] else [])
       else (reads o.instr).map (·.2) ++ implicitReads o.instr
        ++ ((pushes o.instr).map fun n => .q (BitVec.ofNat 3 n))
        ++ (if k.sticky && k.stepV then [.s k.stepR] else []))

/-- The first operation that would read a pending register, when CHKSB is on (R72). -/
def Core.undersized (c : Core) (ops : List SlotOp) : Option SlotOp :=
  if c.special 11 = 1 then ops.find? fun o => (c.readRefs o).any c.refPending else none

/-! ## The issue itself -/

/-- The mark's snapshot (R84). -/
def Core.snapshotNow (c : Core) : Snapshot :=
  { pc := c.pc, s := c.s, v := c.v, p := c.p, vrb := c.special 8, prb := c.special 9, lc := c.special 6,
    ec := c.special 7, fmode := c.special 10, sticky := c.sticky }

/-- A mark's effects, before any of its bundle's own: the gate is committed and closes, and the snapshot is taken
(R84, R138). -/
def State.mark (s : State) : State :=
  let t := s.commitGate s.me
  t.modCore fun c => { c with
    marking := some (s.status s.core), shadow := some c.snapshotNow, marked := true, gateClosed := true }

/-- The issue of a bundle begins: counters, the next issue's cycle, the end and the counts of sticky state, and the
operations to perform (R70, R75, R78, R80). -/
def State.beginIssue (s : State) (h : Header) (ops : List SlotOp) : State :=
  let t := if h.mark && s.core.rep.isNone then s.mark else s
  let left := match s.core.rep with
    | none => h.rep.toNat
    | some n => n - 1
  t.modCore fun c => { c.count 2 1 with
    issues := c.issues + 1, lastIssue := s.cycle, nextIssue := s.cycle + 1 + h.stall.toNat,
    stallTo := s.cycle + 1 + h.stall.toNat,
    rep := if left = 0 then none else some left,
    next := if left = 0 then c.pc + BitVec.ofNat 64 h.length else c.pc,
    transfer := false, todo := ops,
    sticky := (c.sticky.filter fun x => !(h.slots.getLsbD x.op.slot || h.scancel.getLsbD (x.op.slot - 4))).map fun x =>
      { x with k := x.k + 1 } }

/-- A fault of the whole bundle: it has no effect, and an absorbed one lets the task go on behind it (R50, R69; log
entries 13 and 14). -/
def State.bundleFault (s : State) (c : FCode) (slot : Nat) (addr : Word) (len : Nat) (hard : Bool) : State :=
  s.modCore fun k => { k with
    next := k.pc + BitVec.ofNat 64 len, rep := none, nextIssue := s.cycle + 1, transfer := false, todo := [],
    raised := [{ code := c, addr := addr, slot := slot, bundle := k.pc, hard := hard }] }

/-- Whether the core's task runs and no freeze has been taken. -/
def Core.issuing (c : Core) : Bool := c.run == .running

/-- Whether the power limit or the throttle withholds issue in the present cycle: so many of every 16 (R450). -/
def State.withheld (s : State) : Bool := s.cycle % 16 < (if s.pkg.hot then 15 else s.pkg.withhold)

/-- Whether the core waits for its next bundle alone. -/
def State.wantsBundle (s : State) : Bool :=
  let c := s.core
  c.issuing && c.wait.isNone && c.mwait.isNone && c.todo.isEmpty && c.raised.isEmpty && c.late.isEmpty && c.restart.isNone

/-- Whether nothing but the rules of issue holds the core's next bundle back. -/
def State.canFetch (s : State) : Bool := s.wantsBundle && s.core.nextIssue ≤ s.cycle && !s.withheld

/-- The causes for which a bundle does not issue in this cycle, as selectors of R433. -/
def State.causes (s : State) (h : Header) (ops : List SlotOp) : List Nat :=
  let c := s.core
  let pick := fun (b : Bool) (n : Nat) => if b then [n] else []
  pick (!((List.range 8).all fun j => !h.wait.getLsbD j || Store.get 0 c.db j = 0) || !s.barsOk ops) 5
    ++ pick (!s.queuesOk ops) 6
    ++ pick (match c.held with
      | [] => false
      | x :: _ => !(c.issues - x.1 < 4 && !h.slots.getLsbD 2)) 7
    ++ pick (!s.landingOk ops) 8

/-- A cycle without issue counted under every cause that holds (R433). -/
def State.countCauses (s : State) : State :=
  if !s.wantsBundle then s
  else
    let more := match s.fetchBundle s.me s.core.pc with
      | .ok h ops => s.causes h (s.core.issueOps h ops)
      | .fail .. | .absent _ => []
    ((if s.cycle < s.core.stallTo then [4] else []) ++ more).foldl (fun (t : State) n => t.countAt t.me n 1) s

/-- BUNDLE_ISSUE: the bundle at the core's address is fetched, decoded and, once the rules allow, issued: its
operations stand in `todo` (R52, R68, R70). -/
def execBundleIssue (s : State) : Out :=
  if !s.canFetch then .next s.countCauses
  else
    match s.fetchBundle s.me s.core.pc with
    | .absent va => .next (s.modCore fun c => { c with wait := some (.fetch va), nextIssue := 4096 + s.cycle })
    | .fail c slot addr len fetch =>
      .next (s.bundleFault c slot addr len
        (fetch && s.core.issues == 0 && s.core.info.saved && s.core.pc == s.core.start.pc))
    | .ok h ops =>
      let is := s.core.issueOps h ops
      if !s.mayIssue h is then .next s.countCauses
      else
        match s.core.undersized is with
        | some o => .next (s.bundleFault .stallUndersize o.slot 0 h.length false)
        | none => .next (s.beginIssue h is)

/-! ## One slot after another -/

/-- A slot becomes sticky with its own issue (R76, R78, R79). -/
def State.stick (s : State) (o : SlotOp) : State :=
  match ctlOf o.instr with
  | none => s
  | some k =>
    if !k.sticky then s
    else
      let step := if 6 ≤ o.slot && k.stepV then s.core.sreg k.stepR else 0
      s.modCore fun c => { c with
        sticky := c.sticky.filter (fun x => x.op.slot != o.slot) ++
          [{ op := o, stepA := (step.extractLsb' 0 32).signExtend 64, stepB := (step.extractLsb' 32 32).signExtend 64,
             k := 0 }] }

/-- Whether the operation at the head of an issue is a re-issue of what its slot holds as sticky. -/
def Core.reissued (c : Core) (o : SlotOp) : Bool :=
  (c.sticky.any fun x => x.op.slot == o.slot && x.op.instr == o.instr && 0 < x.k)

/-- An operation held at its issue: it has read what it reads, and its barrier counts it (R82). -/
def State.hold (s : State) (o : SlotOp) : State :=
  match (if o.latched then some ({ o with vrb := s.core.special 8, prb := s.core.special 9, sup := s.core.sup }, s)
         else s.readOperands o) with
  | none => (s.modCore fun c => { c with cur := o }).raise .queueUnmapped 0
  | some (l, t) =>
    t.modCore fun c =>
      { (if variableLatency o.instr then c.barUp o.bar else c) with held := c.held ++ [(o.num, l)] }

/-- A slot operation that performs is counted (R433). -/
def Core.perform (c : Core) (o : SlotOp) : Core := c.count 3 (if c.enables o || (o.latched && o.guard != 0) then 1 else 0)

/-- The next operation of the issue that performs now, and the state in which it does: held ones are put aside, and a
tn or cf operation that becomes sticky latches its operands first (R78, R81). `fuel` bounds the slots. -/
def State.nextOp (s : State) : Nat → Option SlotOp × State
  | 0 => (none, s)
  | fuel + 1 =>
    match s.core.todo with
    | [] => (none, s)
    | o :: rest =>
      let t := s.modCore fun c => { c with todo := rest }
      let own := (ctlOf o.instr).any (·.sticky) && !o.go && !t.core.reissued o
      if own && 6 ≤ o.slot then
        match t.readOperands o with
        | none => ((t.modCore fun c => { c with cur := o }).raise .queueUnmapped 0).nextOp fuel
        | some (l, u) =>
          let v := u.stick l
          if v.core.mustHold l then (v.hold l).nextOp fuel
          else (some l, v.modCore fun c => { c.perform l with cur := l, popped := [] })
      else
        let v := if own then t.stick o else t
        if v.core.mustHold o then (v.hold o).nextOp fuel
        else (some o, v.modCore fun c => { c.perform o with cur := o, popped := [] })

/-- A restart event of an issue comes before its faults, which go with a rollback (R147); without a mark it is one of them,
and they are resolved in slot order (R135). -/
def State.settle (s : State) : State :=
  match s.core.restart with
  | some va => s.restartEvent s.me va s.core.cur.bundle
  | none => s
/-- The raised faults of the core, taken out and resolved. -/
def State.resolveRaised (s : State) : State :=
  let rs := s.core.raised
  (s.modCore fun c => { c with raised := [] }).resolveAll s.me rs

/-- After the last slot of an issue: the next bundle, the end of sticky state by a transfer, then the faults, then the
progress of what the core waits for (R80, R135, R147). -/
def State.finish (s : State) : State :=
  let t := s.modCore fun c => { c with
    pc := c.next, marking := none, popped := [],
    sticky := if c.transfer then [] else c.sticky, rep := if c.transfer then none else c.rep, transfer := false }
  let u := t.settle.resolveRaised.modCore fun c => { c with cur := SlotOp.none }
  if u.core.running && u.core.late.isEmpty then u.advance.settle.resolveRaised else u

/-- HELD_SLOT_PERFORM: the oldest held operation of a slot performs once its tile is READY and, where it lands a
result, an entry is free (R81, R82, R173), after what the issue of the same cycle takes (DEDUCED, log entry 90); a JOBQ once
its queue has a place and its card may be read (R298, R335). -/
def execHeldSlotPerform (slot : BitVec 3) (s : State) : Out :=
  let c := s.core
  match c.held.find? fun x => x.2.slot == slot.toNat with
  | none => .next s
  | some x =>
    let ready := (match (ctlOf x.2.instr).bind (·.rtag) with
      | some t => c.tready.getLsbD t.toNat
      | none => true) && match x.2.instr with
      | .jobq .. => x.2.guard == 0 || (s.jobqRoom x.2.a && s.accessFree x.2.instr ([(0, x.2.a)], 64))
      | _ => true
    if !ready || !c.todo.isEmpty || !c.issuing || s.cycle ≤ c.lastIssue && x.1 == c.issues
        || (fixedLatency x.2.instr && 32 ≤ c.landqLen) then .next s
    else
      .next (s.modCore fun k =>
        let k' : Core := { k with held := k.held.filter (· != x), todo := [{ x.2 with go := true }], next := k.pc }
        match (if variableLatency x.2.instr then x.2.bar else none) with
        | some j => { k' with db := Store.set 0 k'.db j.toNat (Store.get 0 k'.db j.toNat - 1) }
        | none => k')

/-! ## Landing (R71) -/

/-- Landings put in the order in which they write: by issue, then by slot (R71). -/
def insertLanding (l : Landing) : List Landing → List Landing
  | [] => [l]
  | x :: xs => if l.num < x.num || (l.num == x.num && l.slot < x.slot) then l :: x :: xs else x :: insertLanding l xs

/-- RESULT_LANDING: every result of the core whose cycle has come is written (R71), and the tiles with which the cycle
begins READY are noted (R203). -/
def execResultLanding (s : State) : Out :=
  let on := match s.core.run with
    | .running => true
    | .draining f => s.cycle ≤ f
    | .idle _ | .frozen _ => false
  if !on then .next s
  else
    let now := (s.core.land.filter (·.due ≤ s.cycle)).foldl (fun acc l => insertLanding l acc) []
    let t := s.modCore fun c => { c.count 1 (if c.issuing then 1 else 0) with
      land := c.land.filter fun l => !(l.due ≤ s.cycle), tready := if c.tiles.isEmpty then 0 else c.readyNow }
    .next (now.foldl (fun u l => l.writes.foldl (fun v w => v.write v.me (if l.slot < 8 then l.slot else 0) w) u) t)

/-! ## Faults at boundaries (R133, R136) -/

/-- The faults that wait on the die of the core whose turn it is (R137, R479). -/
def State.resolveOrphans (s : State) : State :=
  if s.me % 144 ≠ 0 then s
  else
    (s.dieAt (dieOf s.me)).orphans.foldl (fun t o => t.resolveOrphan o) (s.modDie (dieOf s.me) fun d => { d with orphans := [] })

/-- FAULT_RESOLVE_AT_BOUNDARY: the faults of operations in flight that wait for the core's bundle boundary are
resolved, in the order their steps were reached (R136), and those charged to tasks that no core runs (R137, R479). -/
def execFaultResolveAtBoundary (s : State) : Out :=
  let t := s.resolveOrphans
  if !t.core.issuing || !t.core.todo.isEmpty then .next t
  else
    let rs := t.core.late
    .next ((t.modCore fun c => { c with late := [] }).resolveLate t.me rs)

/-- WATCHDOG: a task that has owned its core for 2^28 cycles without an issue faults (R133); while it is frozen or drains
for a freeze, the fault waits for its first boundary (R136; log entry 82). -/
def execWatchdog (s : State) : Out :=
  if !s.core.owned || s.cycle ≤ 2 ^ 28 + s.core.lastIssue then .next s
  else
    let r : Raised := { code := .watchdog, addr := 0, slot := 9, bundle := s.core.pc, hard := false }
    let t := s.modCore fun c => { c with lastIssue := s.cycle }
    .next (if s.core.issuing then t.resolveAll s.me [r] else t.modCore fun c => { c with late := c.late ++ [r] })

end Sys2Proof.Machine
end

