-- ==== Sys2Proof/Machine/Trans.lean ====
section
/-! DEFINITION. Reciprocals, roots, powers, logarithms, tanh and the rotations of VROPE (R190, R199), as exact
values with a sticky last bit: fixed point at 320 bits, then one bit that says the value lies above the bits
kept. The bits kept exceed every format by far, so one rounding of the result is the rounding of f(x) (log
entry 15). -/

namespace Sys2Proof.Machine

/-- Fixed-point fraction bits. -/
def fx : Nat := 320

/-- m × 2^-k with a sticky bit below. -/
def stickyEx (neg : Bool) (m k : Nat) : Ex := .fin neg (2 * m + 1) (-(k : Int) - 1)

/-- The integer square root, bit by bit from bit `n` down. -/
def isqrt (x : Nat) : Nat → Nat → Nat
  | 0, y => y
  | n + 1, y => isqrt x n (if (y + 2 ^ n) * (y + 2 ^ n) ≤ x then y + 2 ^ n else y)

/-- 1 / x (R190). -/
def recipEx : Ex → Ex
  | .nan => .nan
  | .inf n => .fin n 0 0
  | .fin n 0 _ => .inf n
  | .fin n m e =>
    let k := m.log2 + 80
    if 2 ^ k % m = 0 then .fin n (2 ^ k / m) (-e - k) else (stickyEx n (2 ^ k / m) 0).scale (-e - k)

/-- 1 / √x (R190). -/
def rsqrtEx : Ex → Ex
  | .nan => .nan
  | .inf n => if n then .nan else .fin false 0 0
  | .fin n 0 _ => .inf n
  | .fin true _ _ => .nan
  | .fin false m e =>
    let m' := if e % 2 = 0 then m else 2 * m
    let e' := if e % 2 = 0 then e else e - 1
    let k := m'.log2 + 80
    let y := isqrt (2 ^ (2 * k) / m') (k + 1) 0
    if y * y * m' = 2 ^ (2 * k) then .fin false y (-(e' / 2) - k) else (stickyEx false y 0).scale (-(e' / 2) - k)

/-- Σ t^(2i+1)/(2i+1) in fixed point, `p` the running power and `t2` = t². -/
def atanhSum (t2 : Nat) (alt : Bool) : Nat → Nat → Nat → Int → Int
  | 0, _, _, acc => acc
  | n + 1, i, p, acc =>
    atanhSum t2 alt n (i + 1) (p * t2 / 2 ^ fx)
      (if alt && i % 2 == 1 then acc - ((p / (2 * i + 1) : Nat) : Int) else acc + ((p / (2 * i + 1) : Nat) : Int))

/-- artanh(t) in fixed point. -/
def atanhFx (t : Nat) : Nat := (atanhSum (t * t / 2 ^ fx) false 110 0 t 0).toNat
/-- arctan(1/n) in fixed point. -/
def atanInv (n : Nat) : Nat := (atanhSum (2 ^ fx / n * (2 ^ fx / n) / 2 ^ fx) true 80 0 (2 ^ fx / n) 0).toNat

/-- ln 2 in fixed point: 2 artanh(1/3). -/
def ln2 : Nat := 2 * atanhFx (2 ^ fx / 3)
/-- π in fixed point (Machin). -/
def piFx : Nat := 16 * atanInv 5 - 4 * atanInv 239

/-- Σ y^i/i! in fixed point. -/
def expSum (y : Nat) : Nat → Nat → Nat → Nat → Nat
  | 0, _, _, acc => acc
  | n + 1, i, p, acc => expSum y n (i + 1) (p * y / 2 ^ fx / i) (acc + p)

/-- e^y for 0 ≤ y < 1 in fixed point. -/
def expFx (y : Nat) : Nat := expSum y 80 1 (2 ^ fx) 0

/-- The value as a fixed-point magnitude. -/
def toFx (m : Nat) (e : Int) : Nat := if 0 ≤ e + fx then m * 2 ^ (e + fx).toNat else m / 2 ^ (-(e + fx)).toNat

/-- 2^x (R190). -/
def exp2Ex : Ex → Ex
  | .nan => .nan
  | .inf n => if n then .fin false 0 0 else .inf false
  | .fin n m e =>
    if m = 0 then .fin false 1 0
    else if 10 ≤ (m.log2 : Int) + e then .fin false 1 (if n then -1024 else 1024)
    else
      let v : Int := if n then -(toFx m e : Int) else toFx m e
      let k := v / 2 ^ fx
      let f := (v % 2 ^ fx).toNat
      if f = 0 then .fin false 1 k else (stickyEx false (expFx (f * ln2 / 2 ^ fx)) fx).scale k

/-- log2 x (R190). -/
def log2Ex : Ex → Ex
  | .nan => .nan
  | .inf n => if n then .nan else .inf false
  | .fin _ 0 _ => .inf true
  | .fin true _ _ => .nan
  | .fin false m e =>
    let k : Int := (m.log2 : Int) + e
    let z := 2 ^ fx * m / 2 ^ m.log2
    if z = 2 ^ fx then Ex.ofInt k
    else
      let l := 2 * (2 ^ fx * atanhFx (2 ^ fx * (z - 2 ^ fx) / (2 ^ fx + z))) / ln2
      let v : Int := 2 ^ fx * k + l
      stickyEx (v < 0) (if v < 0 then v.natAbs - 1 else v.natAbs) fx

/-- tanh x (R190). -/
def tanhEx : Ex → Ex
  | .nan => .nan
  | .inf n => .fin n 1 0
  | .fin n m e =>
    if m = 0 then .fin n 0 0
    else if (m.log2 : Int) + e < -40 then (stickyEx n (2 ^ 64 * m - 1) 64).scale e
    else if 6 ≤ (m.log2 : Int) + e then stickyEx n (2 ^ fx - 1) fx
    else
      let y := 2 * toFx m e
      let k := y / ln2
      let ex := expFx (y - k * ln2) * 2 ^ k
      stickyEx n (2 ^ fx * (ex - 2 ^ fx) / (2 ^ fx + ex)) fx

/-- Σ ±θ^j/j! over j = i, i+2, …, in fixed point; `p` is θ^i/i!. -/
def trigSum (t2 : Nat) : Nat → Nat → Nat → Bool → Int → Int
  | 0, _, _, _, acc => acc
  | n + 1, i, p, sub, acc =>
    trigSum t2 n (i + 2) (p * t2 / 2 ^ fx / ((i + 1) * (i + 2))) (!sub) (if sub then acc - (p : Int) else acc + p)

/-- cos or sin of the angle of `ph` turns / 2^32 within the first quadrant, 0 < ph < 2^30. -/
def quadrant (sine : Bool) (ph : Nat) : Ex :=
  let t := 2 * piFx * ph / 2 ^ 32
  let t2 := t * t / 2 ^ fx
  stickyEx false (trigSum t2 50 (if sine then 1 else 0) (if sine then t else 2 ^ fx) false 0).toNat fx

/-- cos(2π ph / 2^32), exact at the quarter turns (R199). -/
def cosTurn (ph : Nat) : Ex :=
  let r := ph % 2 ^ 30
  match ph / 2 ^ 30 % 4 with
  | 0 => if r = 0 then .fin false 1 0 else quadrant false r
  | 1 => if r = 0 then .fin false 0 0 else (quadrant true r).neg
  | 2 => if r = 0 then .fin true 1 0 else (quadrant false r).neg
  | _ => if r = 0 then .fin false 0 0 else quadrant true r

/-- sin(2π ph / 2^32), exact at the quarter turns (R199). -/
def sinTurn (ph : Nat) : Ex := cosTurn ((3 * 2 ^ 30 + ph) % 2 ^ 32)

end Sys2Proof.Machine
end

