-- ==== Sys2Proof/Machine/Vector.lean ====
section
/-! DEFINITION. The vector class: 43 instructions of slots va and vb (R182 to R199). -/

namespace Sys2Proof

open Machine

/-! ## Types (R103, R182, R193) -/

/-- Bits of an element. -/
def VTy.bits (t : VTy) : Nat := if t.isHalf then 16 else 32

/-- Elements of a register. -/
def VTy.count (t : VTy) : Nat := if t.isHalf then 128 else 64

/-- The floating-point format of a type; the integer types do not use it. -/
def VTy.fmt : VTy → FFmt
  | .f16 => .fp16
  | .bf16 => .bf16
  | .f32 | .i32 | .n32 => .fp32

/-- The integer that a 32-bit pattern is in the view of a type. -/
def VTy.int (t : VTy) (p : Nat) : Int := if t == .i32 then (BitVec.ofNat 32 p).toInt else (p % 2 ^ 32 : Nat)

/-- The least integer of a type. -/
def VTy.low (t : VTy) : Int := if t == .i32 then -(2 ^ 31) else 0

/-- The greatest integer of a type. -/
def VTy.high (t : VTy) : Int := if t == .i32 then 2 ^ 31 - 1 else 2 ^ 32 - 1

/-- An exact integer stored in a lane, clamped when SAT is set (R117). -/
def VTy.store (t : VTy) (sat : Bool) (x : Int) : Nat :=
  (BitVec.ofInt 32 (if sat then max t.low (min t.high x) else x)).toNat

/-- Levels above the elements. -/
def VTy.levels (t : VTy) : Nat := if t.isHalf then 7 else 6

/-- Width of a narrow format. -/
def NFmt.width : NFmt → Nat
  | .fp4 | .i4 => 4
  | .e4m3 | .e5m2 | .i8 | .n8 => 8

/-- The floating-point format of a narrow format, if it is one. -/
def NFmt.float : NFmt → Option FFmt
  | .e4m3 => some .e4m3
  | .e5m2 => some .e5m2
  | .fp4 => some .fp4
  | .i8 | .n8 | .i4 => none

/-- The range of a narrow integer format (R103). -/
def NFmt.range : NFmt → Int × Int
  | .n8 => (0, 255)
  | .i4 => (-8, 7)
  | .e4m3 | .e5m2 | .fp4 | .i8 => (-128, 127)

/-- A value stored in a narrow format (R193); NaN stores the format's NaN, an integer 0. -/
def NFmt.round (f : NFmt) (mode : RMode) (sat : Bool) (r : Nat) (x : Ex) : Nat :=
  match f.float with
  | some g => roundF g mode false sat r x
  | none => (BitVec.ofInt 8 (roundInt mode f.range.1 f.range.2 r x)).toNat % 2 ^ f.width

/-- The value of a narrow code (R100 to R103). -/
def NFmt.value (f : NFmt) (p : Nat) : Ex :=
  match f with
  | .e4m3 => decodeF .e4m3 false p
  | .e5m2 => decodeF .e5m2 false p
  | .fp4 => decodeF .fp4 false p
  | .i8 => Ex.ofInt (BitVec.ofNat 8 p).toInt
  | .n8 => Ex.ofInt p
  | .i4 => Ex.ofInt (BitVec.ofNat 4 p).toInt

end Sys2Proof

namespace Sys2Proof.Machine

/-! ## Elements (R182) -/

/-- Field `i` of `w` bits of a vector image. -/
def field (x : VReg) (w i : Nat) : Nat := (x.extractLsb' (w * i) w).toNat

/-- A vector image of `n` fields of `w` bits, the bits above them zero. -/
def ofFields (w n : Nat) (f : Nat → Nat) : VReg :=
  (List.range n).foldr (fun i (acc : VReg) => acc <<< w ||| BitVec.ofNat 2048 (f i % 2 ^ w)) 0

/-- A vector image of elements of a type. -/
def ofElems (t : VTy) (f : Nat → Nat) : VReg := ofFields t.bits t.count f

end Sys2Proof.Machine

namespace Sys2Proof

open Machine

/-- The exact value of element `i`, subnormals read as FTZ says. -/
def VTy.val (t : VTy) (ftz : Bool) (x : VReg) (i : Nat) : Ex := decodeF t.fmt ftz (field x t.bits i)

end Sys2Proof

namespace Sys2Proof.Machine

/-! ## Bodies -/

/-- The body of R187 for exact `f`; the mode is not narrowing. -/
def floatBody (t : VTy) (rm : RmSel) (sat : Bool) (fm : Word) (f : Ex → Ex → Ex → Ex) (a b c : VReg) : VReg :=
  ofElems t fun i =>
    roundF t.fmt (modeOf rm fm).wide (ftzOf fm) sat 0 (f (t.val (ftzOf fm) a i) (t.val (ftzOf fm) b i) (t.val (ftzOf fm) c i))

/-- The body of R190: an infinite f(x) stays infinite under SAT. -/
def transBody (t : VTy) (rm : RmSel) (sat : Bool) (fm : Word) (f : Ex → Ex) (a : VReg) : VReg :=
  ofElems t fun i =>
    match f (t.val (ftzOf fm) a i) with
    | .inf n => roundF t.fmt (modeOf rm fm).wide (ftzOf fm) false 0 (.inf n)
    | x => roundF t.fmt (modeOf rm fm).wide (ftzOf fm) sat 0 x

/-- A pattern with a subnormal flushed to its zero (R114). -/
def flushPattern (f : FFmt) (ftz : Bool) (p : Nat) : Nat :=
  if ftz && f.flushes && p / 2 ^ f.fbits % 2 ^ f.ebits = 0 then p / 2 ^ (f.ebits + f.fbits) * 2 ^ (f.ebits + f.fbits) else p

/-- The smaller or the larger of two patterns (R189). -/
def minMax (f : FFmt) (ftz larger : Bool) (p q : Nat) : Nat :=
  let x := decodeF f ftz p
  let y := decodeF f ftz q
  if x.isNan && y.isNan then f.nan
  else if x.isNan then flushPattern f ftz q
  else if y.isNan then flushPattern f ftz p
  else if (if larger then y.lt true x else x.lt true y) then flushPattern f ftz p
  else flushPattern f ftz q

/-- The mode of a rounding and its draws: a narrowing operation under mode 4 takes `n` draws of RCTR (R116,
R186, R229). -/
def State.drawBits (s : State) (mode : RMode) (n : Nat) : (Nat → Nat) × State :=
  if mode = .rsr then
    (fun i => (gen (s.core.special 21) (s.core.scarab.rctr + BitVec.ofNat 64 i)).toNat % 2 ^ 32,
     s.modCore fun k => { k with scarab := { k.scarab with rctr := k.scarab.rctr + BitVec.ofNat 64 n } })
  else (fun _ => 0, s)

/-- The integer body of R196. -/
def intBody (t : VTy) (sat : Bool) (f : Int → Int → Int) (a b : VReg) : VReg :=
  ofFields 32 64 fun j => t.store sat (f (t.int (field a 32 j)) (t.int (field b 32 j)))

/-! ## Narrow formats (R193) -/

/-- The scale of element `i`: bits [7:0] of lane i div 32 (R193). -/
def scaleOf (b : VReg) (i : Nat) : Nat := field b 32 (i / 32) % 256

/-! ## Reductions and scans (R124 to R126) -/

/-- One level of the tree. -/
def pairUp (f : Nat → Nat → Nat) : List Nat → List Nat
  | x :: y :: l => f x y :: pairUp f l
  | l => l

/-- The levels of the tree, level 0 first. -/
def treeLevels (f : Nat → Nat → Nat) : Nat → List Nat → List (List Nat)
  | 0, l => [l]
  | n + 1, l => l :: treeLevels f n (pairUp f l)

/-- Output element `j` of a scan: the aligned nodes that cover 0 to j, largest first (R125). -/
def scanOut (f : Nat → Nat → Nat) (lv : List (List Nat)) (n : Nat) : Nat → Nat → Option Nat → Nat
  | 0, _, acc => acc.getD 0
  | l + 1, start, acc =>
    if n.testBit l then
      let x := (lv.getD l []).getD (start / 2 ^ l) 0
      scanOut f lv n l (start + 2 ^ l) (some (match acc with | some y => f y x | none => x))
    else scanOut f lv n l start acc

/-- How two elements combine (R197). -/
def combine (op : RedOp) (t : VTy) (rm : RmSel) (sat : Bool) (fm : Word) (x y : Nat) : Nat :=
  if t.isFloat then
    match op with
    | .add => roundF t.fmt (modeOf rm fm).wide (ftzOf fm) sat 0
        ((decodeF t.fmt (ftzOf fm) x).add ((modeOf rm fm) == .rdn) (decodeF t.fmt (ftzOf fm) y))
    | .max => minMax t.fmt (ftzOf fm) true x y
    | .min => minMax t.fmt (ftzOf fm) false x y
  else
    match op with
    | .add => t.store sat (t.int x + t.int y)
    | .max => t.store false (max (t.int x) (t.int y))
    | .min => t.store false (min (t.int x) (t.int y))

/-- The identity of an operation (R126). -/
def identityOf (op : RedOp) (t : VTy) : Nat :=
  if t.isFloat then
    match op with
    | .add => 2 ^ (t.bits - 1)
    | .max => 2 ^ (t.bits - 1) + t.fmt.inf
    | .min => t.fmt.inf
  else
    match op with
    | .add => 0
    | .max => t.store false t.low
    | .min => t.store false t.high

/-- The elements of a register, those of false lanes as the identity (R126). -/
def redElems (op : RedOp) (t : VTy) (m : Word) (a : VReg) : List Nat :=
  (List.range t.count).map fun i =>
    if m.getLsbD (if t.isHalf then i / 2 else i) then field a t.bits i else identityOf op t

/-! ## The instructions -/

/-- VADD (R187, R188). -/
def execVadd (c : Ctl) (d a b : VOp) (ty : VTy) (rm : RmSel) (sat : Bool) (s : State) : Out :=
  s.vectorSlot c [] [] fun m t => .next (t.landV 2 d m (floatBody ty rm sat t.fmode (fun x y _ => x.add ((modeOf rm t.fmode) == .rdn) y) (t.srcV .a a) (t.srcV .b b) 0))

/-- VSUB (R187, R188). -/
def execVsub (c : Ctl) (d a b : VOp) (ty : VTy) (rm : RmSel) (sat : Bool) (s : State) : Out :=
  s.vectorSlot c [] [] fun m t => .next (t.landV 2 d m (floatBody ty rm sat t.fmode (fun x y _ => x.add ((modeOf rm t.fmode) == .rdn) y.neg) (t.srcV .a a) (t.srcV .b b) 0))

/-- VMUL (R187, R188). -/
def execVmul (c : Ctl) (d a b : VOp) (ty : VTy) (rm : RmSel) (sat : Bool) (s : State) : Out :=
  s.vectorSlot c [] [] fun m t => .next (t.landV 5 d m (floatBody ty rm sat t.fmode (fun x y _ => x.mul y) (t.srcV .a a) (t.srcV .b b) 0))

/-- VFMA (R187, R188). -/
def execVfma (c : Ctl) (d a b e : VOp) (ty : VTy) (rm : RmSel) (sat : Bool) (s : State) : Out :=
  s.vectorSlot c [] [] fun m t => .next (t.landV 5 d m (floatBody ty rm sat t.fmode (fun x y z => (x.mul y).add ((modeOf rm t.fmode) == .rdn) z) (t.srcV .a a) (t.srcV .b b) (t.srcV .c e)))

/-- VFMS (R187, R188). -/
def execVfms (c : Ctl) (d a b e : VOp) (ty : VTy) (rm : RmSel) (sat : Bool) (s : State) : Out :=
  s.vectorSlot c [] [] fun m t => .next (t.landV 5 d m (floatBody ty rm sat t.fmode (fun x y z => (x.mul y).add ((modeOf rm t.fmode) == .rdn) z.neg) (t.srcV .a a) (t.srcV .b b) (t.srcV .c e)))

/-- VFNMA (R187, R188). -/
def execVfnma (c : Ctl) (d a b e : VOp) (ty : VTy) (rm : RmSel) (sat : Bool) (s : State) : Out :=
  s.vectorSlot c [] [] fun m t => .next (t.landV 5 d m (floatBody ty rm sat t.fmode (fun x y z => (x.mul y).neg.add ((modeOf rm t.fmode) == .rdn) z) (t.srcV .a a) (t.srcV .b b) (t.srcV .c e)))

/-- VMIN (R189). -/
def execVmin (c : Ctl) (d a b : VOp) (ty : VTy) (s : State) : Out :=
  s.vectorSlot c [] [] fun m t => .next (t.landV 2 d m (ofElems ty fun i => minMax ty.fmt (ftzOf t.fmode) false (field (t.srcV .a a) ty.bits i) (field (t.srcV .b b) ty.bits i)))

/-- VMAX (R189). -/
def execVmax (c : Ctl) (d a b : VOp) (ty : VTy) (s : State) : Out :=
  s.vectorSlot c [] [] fun m t => .next (t.landV 2 d m (ofElems ty fun i => minMax ty.fmt (ftzOf t.fmode) true (field (t.srcV .a a) ty.bits i) (field (t.srcV .b b) ty.bits i)))

/-- VABS: the sign bit cleared (R189). -/
def execVabs (c : Ctl) (d a : VOp) (ty : VTy) (s : State) : Out :=
  s.vectorSlot c [] [] fun m t => .next (t.landV 2 d m (ofElems ty fun i => field (t.srcV .a a) ty.bits i % 2 ^ (ty.bits - 1)))

/-- VNEG: the sign bit inverted (R189). -/
def execVneg (c : Ctl) (d a : VOp) (ty : VTy) (s : State) : Out :=
  s.vectorSlot c [] [] fun m t => .next (t.landV 2 d m (ofElems ty fun i => field (t.srcV .a a) ty.bits i + 2 ^ (ty.bits - 1)))

/-- VRCP (R190). -/
def execVrcp (c : Ctl) (d a : VOp) (ty : VTy) (rm : RmSel) (sat : Bool) (s : State) : Out :=
  s.vectorSlot c [] [] fun m t => .next (t.landV 8 d m (transBody ty rm sat t.fmode recipEx (t.srcV .a a)))

/-- VRSQ (R190). -/
def execVrsq (c : Ctl) (d a : VOp) (ty : VTy) (rm : RmSel) (sat : Bool) (s : State) : Out :=
  s.vectorSlot c [] [] fun m t => .next (t.landV 8 d m (transBody ty rm sat t.fmode rsqrtEx (t.srcV .a a)))

/-- VEXP2 (R190). -/
def execVexp2 (c : Ctl) (d a : VOp) (ty : VTy) (rm : RmSel) (sat : Bool) (s : State) : Out :=
  s.vectorSlot c [] [] fun m t => .next (t.landV 7 d m (transBody ty rm sat t.fmode exp2Ex (t.srcV .a a)))

/-- VLOG2 (R190). -/
def execVlog2 (c : Ctl) (d a : VOp) (ty : VTy) (rm : RmSel) (sat : Bool) (s : State) : Out :=
  s.vectorSlot c [] [] fun m t => .next (t.landV 7 d m (transBody ty rm sat t.fmode log2Ex (t.srcV .a a)))

/-- VTANH (R190). -/
def execVtanh (c : Ctl) (d a : VOp) (ty : VTy) (rm : RmSel) (sat : Bool) (s : State) : Out :=
  s.vectorSlot c [] [] fun m t => .next (t.landV 7 d m (transBody ty rm sat t.fmode tanhEx (t.srcV .a a)))

/-- One element of VCVT (R191). -/
def convert (dst src : VTy) (mode : RMode) (ftz sat : Bool) (p : Nat) : Nat :=
  if src.isFloat then
    let x := decodeF src.fmt ftz p
    if dst.isFloat then roundF dst.fmt mode ftz sat 0 x
    else dst.store false (roundInt mode dst.low dst.high 0 x)
  else if dst.isFloat then roundF dst.fmt mode ftz false 0 (Ex.ofInt (src.int p))
  else dst.store sat (src.int p)

/-- VCVT (R191). -/
def execVcvt (c : Ctl) (d a : VOp) (dst src : VTy) (rm : RmSel) (sat : Bool) (s : State) : Out :=
  s.vectorSlot c [] [] fun m t => .next (t.landV 3 d m (ofElems dst fun i => convert dst src (modeOf rm t.fmode).wide (ftzOf t.fmode) sat (field (t.srcV .a a) src.bits i)))

/-- Whether a condition of R194 holds of two patterns. -/
def vcondHolds (cond : VCond) (t : VTy) (ftz : Bool) (p q : Nat) : Bool :=
  if t.isFloat then
    let x := decodeF t.fmt ftz p
    let y := decodeF t.fmt ftz q
    let ordered := !x.isNan && !y.isNan
    let eq := ordered && !(x.lt false y) && !(y.lt false x)
    match cond with
    | .eq => eq
    | .ne => !eq
    | .lt => ordered && x.lt false y
    | .le => eq || (ordered && x.lt false y)
    | .gt => ordered && y.lt false x
    | .ge => eq || (ordered && y.lt false x)
    | .un => !ordered
    | .or => ordered
  else
    match cond with
    | .eq => t.int p == t.int q
    | .ne => t.int p != t.int q
    | .lt => t.int p < t.int q
    | .le => t.int p ≤ t.int q
    | .gt => t.int q < t.int p
    | .ge => t.int q ≤ t.int p
    | .un => false
    | .or => true

/-- Sixty-four bits from a function. -/
def bits64 (f : Nat → Bool) : Word :=
  (List.range 64).foldr (fun j (acc : Word) => acc <<< 1 ||| (BitVec.ofBool (f j)).setWidth 64) 0

/-- VCMP (R194). -/
def execVcmp (c : Ctl) (d : POp) (a b : VOp) (cond : VCond) (ty : VTy) (hi : Bool) (s : State) : Out :=
  s.vectorSlot c [] [] fun m t =>
    .next (t.landP 2 d m (bits64 fun j =>
      let i := if ty.isHalf then 2 * j + (if hi then 1 else 0) else j
      vcondHolds cond ty (ftzOf t.fmode) (field (t.srcV .a a) ty.bits i) (field (t.srcV .b b) ty.bits i)))

/-- VSEL (R195). -/
def execVsel (c : Ctl) (d a b : VOp) (p : POp) (s : State) : Out :=
  s.vectorSlot c [] [] fun m t =>
    .next (t.landV 2 d m (ofLanes fun j => if (t.srcP .c p).getLsbD j then lane (t.srcV .a a) j else lane (t.srcV .b b) j))

/-- VIADD (R196). -/
def execViadd (c : Ctl) (d a b : VOp) (ty : VTy) (sat : Bool) (s : State) : Out :=
  s.vectorSlot c [] [] fun m t => .next (t.landV 2 d m (intBody ty sat (fun x y => x + y) (t.srcV .a a) (t.srcV .b b)))

/-- VISUB (R196). -/
def execVisub (c : Ctl) (d a b : VOp) (ty : VTy) (sat : Bool) (s : State) : Out :=
  s.vectorSlot c [] [] fun m t => .next (t.landV 2 d m (intBody ty sat (fun x y => x - y) (t.srcV .a a) (t.srcV .b b)))

/-- VIMUL (R196). -/
def execVimul (c : Ctl) (d a b : VOp) (ty : VTy) (sat : Bool) (s : State) : Out :=
  s.vectorSlot c [] [] fun m t => .next (t.landV 5 d m (intBody ty sat (fun x y => x * y) (t.srcV .a a) (t.srcV .b b)))

/-- VAND (R196). -/
def execVand (c : Ctl) (d a b : VOp) (s : State) : Out :=
  s.vectorSlot c [] [] fun m t => .next (t.landV 2 d m (t.srcV .a a &&& t.srcV .b b))

/-- VOR (R196). -/
def execVor (c : Ctl) (d a b : VOp) (s : State) : Out :=
  s.vectorSlot c [] [] fun m t => .next (t.landV 2 d m (t.srcV .a a ||| t.srcV .b b))

/-- VXOR (R196). -/
def execVxor (c : Ctl) (d a b : VOp) (s : State) : Out :=
  s.vectorSlot c [] [] fun m t => .next (t.landV 2 d m (t.srcV .a a ^^^ t.srcV .b b))

/-- VSHL (R196). -/
def execVshl (c : Ctl) (d a b : VOp) (s : State) : Out :=
  s.vectorSlot c [] [] fun m t => .next (t.landV 2 d m (intBody .n32 false (fun x y => x * 2 ^ (y % 32).toNat) (t.srcV .a a) (t.srcV .b b)))

/-- VSHR (R196). -/
def execVshr (c : Ctl) (d a b : VOp) (s : State) : Out :=
  s.vectorSlot c [] [] fun m t => .next (t.landV 2 d m (intBody .n32 false (fun x y => x / 2 ^ (y % 32).toNat) (t.srcV .a a) (t.srcV .b b)))

/-- VSRA (R196). -/
def execVsra (c : Ctl) (d a b : VOp) (s : State) : Out :=
  s.vectorSlot c [] [] fun m t => .next (t.landV 2 d m (intBody .i32 false (fun x y => x / 2 ^ (y % 32).toNat) (t.srcV .a a) (t.srcV .b b)))

/-- VIMIN (R196). -/
def execVimin (c : Ctl) (d a b : VOp) (ty : VTy) (s : State) : Out :=
  s.vectorSlot c [] [] fun m t => .next (t.landV 2 d m (intBody ty false min (t.srcV .a a) (t.srcV .b b)))

/-- VIMAX (R196). -/
def execVimax (c : Ctl) (d a b : VOp) (ty : VTy) (s : State) : Out :=
  s.vectorSlot c [] [] fun m t => .next (t.landV 2 d m (intBody ty false max (t.srcV .a a) (t.srcV .b b)))

/-- An element as a float operation reads it: a NaN is the canonical one, and FTZ reads a subnormal as zero (R114, R115);
an integer as it is. -/
def readElem (ty : VTy) (ftz : Bool) (x : Nat) : Nat :=
  if !ty.isFloat then x else if (decodeF ty.fmt ftz x).isNan then ty.fmt.nan else flushPattern ty.fmt ftz x

/-- VRED (R197). -/
def execVred (c : Ctl) (d a : VOp) (op : RedOp) (ty : VTy) (rm : RmSel) (sat : Bool) (s : State) : Out :=
  s.vectorSlot c [] [] fun m t =>
    let lv := treeLevels (combine op ty rm sat t.fmode) ty.levels
      ((redElems op ty m (t.srcV .a a)).map (readElem ty (ftzOf t.fmode)))
    .next (t.landV 6 d m (ofElems ty fun _ => (lv.getD ty.levels []).headD 0))

/-- VSCAN (R197). -/
def execVscan (c : Ctl) (d a : VOp) (op : RedOp) (ty : VTy) (rm : RmSel) (sat : Bool) (s : State) : Out :=
  s.vectorSlot c [] [] fun m t =>
    let f := combine op ty rm sat t.fmode
    let lv := treeLevels f ty.levels ((redElems op ty m (t.srcV .a a)).map (readElem ty (ftzOf t.fmode)))
    .next (t.landV 6 d m (ofElems ty fun j => scanOut f lv (j + 1) (ty.levels + 1) 0 none))

/-- VPERM (R198). -/
def execVperm (c : Ctl) (d a b : VOp) (s : State) : Out :=
  s.vectorSlot c [] [] fun m t =>
    .next (t.landV 4 d m (ofLanes fun j =>
      if 64 ≤ (lane (t.srcV .b b) j).toNat then 0 else lane (t.srcV .a a) (lane (t.srcV .b b) j).toNat))

/-- VSLIDE (R198). -/
def execVslide (c : Ctl) (d a : VOp) (b : IOp) (rot : Bool) (s : State) : Out :=
  s.vectorSlot c [b] [] fun m t =>
    .next (t.landV 4 d m (ofLanes fun j =>
      let i : Int := j - (t.src .b b).toInt
      if rot then lane (t.srcV .a a) (i % 64).toNat
      else if 0 ≤ i ∧ i < 64 then lane (t.srcV .a a) i.toNat else 0))

/-- VBCAST (R198). -/
def execVbcast (c : Ctl) (d a : VOp) (b : IOp) (s : State) : Out :=
  s.vectorSlot c [b] [] fun m t =>
    .next (t.landV 4 d m (ofLanes fun _ => lane (t.srcV .a a) ((t.src .b b).toNat % 64)))

/-- VSPLAT (R198). -/
def execVsplat (c : Ctl) (d : VOp) (a : IOp) (s : State) : Out :=
  s.vectorSlot c [a] [] fun m t => .next (t.landV 4 d m (ofLanes fun _ => (t.src .a a).setWidth 32))

/-- VEXTR: d is written when the guard bit of the lane taken is 1 (R198); else its landing entry writes nothing (R173), and
room that a held one had reserved is given back. -/
def execVextr (c : Ctl) (d : IOp) (a : VOp) (b : IOp) (sx : Bool) (s : State) : Out :=
  s.vectorSlot c [b] [d] fun m t =>
    let l := (t.src .b b).toNat % 64
    let x := lane (t.srcV .a a) l
    if m.getLsbD l then .next (t.landI 4 d (if sx then x.signExtend 64 else x.setWidth 64))
    else .next ((t.dropRoom d).land 4 [])

/-- VIOTA (R198). -/
def execViota (c : Ctl) (d : VOp) (a : POp) (s : State) : Out :=
  s.vectorSlot c [] [] fun m t =>
    .next (t.landV 4 d m (ofLanes fun j =>
      BitVec.ofNat 32 ((List.range j).filter fun i => (t.srcP .a a).getLsbD i).length))

/-- VMOV (R198). -/
def execVmov (c : Ctl) (d a : VOp) (s : State) : Out :=
  s.vectorSlot c [] [] fun m t => .next (t.landV 4 d m (t.srcV .a a))

/-- VPACK (R192): narrowing; lane j draws for a, then for b. -/
def execVpack (c : Ctl) (d a b : VOp) (ty : VTy) (rm : RmSel) (sat : Bool) (s : State) : Out :=
  s.vectorSlot c [] [] fun m t =>
    let (r, u) := t.drawBits (modeOf rm t.fmode) 128
    .next (u.landV 3 d m (ofElems ty fun i =>
      roundF ty.fmt (modeOf rm t.fmode) (ftzOf t.fmode) sat (r i)
        (decodeF .fp32 (ftzOf t.fmode) (field (if i % 2 = 0 then t.srcV .a a else t.srcV .b b) 32 (i / 2)))))

/-- VUNPK (R192): exact, but FTZ flushes subnormal inputs. -/
def execVunpk (c : Ctl) (d a : VOp) (ty : VTy) (hi : Bool) (s : State) : Out :=
  s.vectorSlot c [] [] fun m t =>
    .next (t.landV 3 d m (ofFields 32 64 fun j =>
      roundF .fp32 .rne false false 0 (ty.val (ftzOf t.fmode) (t.srcV .a a) (2 * j + (if hi then 1 else 0)))))

/-- VQNT (R193). -/
def execVqnt (c : Ctl) (d a b : VOp) (ty : VTy) (fmt : NFmt) (rm : RmSel) (sat : Bool) (s : State) : Out :=
  s.vectorSlot c [] [] fun m t =>
    let (r, u) := t.drawBits (modeOf rm t.fmode) ty.count
    .next (u.landV 3 d m (ofFields fmt.width ty.count fun i =>
      let sc := scaleOf (t.srcV .b b) i
      fmt.round (modeOf rm t.fmode) sat (r i)
        (if sc = 255 then .nan else (ty.val (ftzOf t.fmode) (t.srcV .a a) i).scale (127 - (sc : Int)))))

/-- VDQNT (R193). -/
def execVdqnt (c : Ctl) (d a b : VOp) (ty : VTy) (fmt : NFmt) (rm : RmSel) (sat : Bool) (s : State) : Out :=
  s.vectorSlot c [] [] fun m t =>
    .next (t.landV 3 d m (ofElems ty fun i =>
      roundF ty.fmt (modeOf rm t.fmode).wide (ftzOf t.fmode) sat 0
        ((fmt.value (field (t.srcV .a a) fmt.width i)).e8m0 (scaleOf (t.srcV .b b) i))))

/-- VROPE's rotation of one pair: the two results (R199). -/
def ropePair (t : VTy) (mode : RMode) (ftz sat : Bool) (pos f : Nat) (x y : Ex) : Nat × Nat :=
  let ph := pos * f % 2 ^ 32
  let co := decodeF .fp32 false (roundF .fp32 .rne false false 0 (cosTurn ph))
  let si := decodeF .fp32 false (roundF .fp32 .rne false false 0 (sinTurn ph))
  (roundF t.fmt mode ftz sat 0 ((x.mul co).add (mode == .rdn) (y.mul si).neg),
   roundF t.fmt mode ftz sat 0 ((x.mul si).add (mode == .rdn) (y.mul co)))

/-- VROPE (R199). -/
def execVrope (c : Ctl) (d a b : VOp) (e : IOp) (ty : VTy) (rm : RmSel) (sat : Bool) (s : State) : Out :=
  s.vectorSlot c [e] [] fun m t =>
    if 2 ^ 24 ≤ (t.src .c e).toNat then t.fail .positionRange 0
    else
      let z := ftzOf t.fmode
      .next (t.landV 9 d m (ofElems ty fun i =>
        let p := ropePair ty (modeOf rm t.fmode).wide z sat (t.src .c e).toNat (field (t.srcV .b b) 32 (i / 2))
          (ty.val z (t.srcV .a a) (i / 2 * 2)) (ty.val z (t.srcV .a a) (i / 2 * 2 + 1))
        if i % 2 = 0 then p.1 else p.2))

end Sys2Proof.Machine
end

