-- ==== Sys2Proof/Machine/Tensor.lean ====
section
/-! DEFINITION. The tensor engine: tile control and fills, weight planes, accumulators, the Lathe and drains (R200 to
R226). -/

namespace Sys2Proof.Machine

/-! ## Jobs enter (R208, R215) -/

/-- A tensor job of the slot that performs, its operands latched. -/
def State.newJob (s : State) (a b key draw : Word) : TJob :=
  { id := s.core.nextId, op := { s.core.cur with latched := true, a := a, b := b, c := key, fmode := s.fmode },
    own := s.core.owner, start := none, due := s.cycle + 1, rows := 0, live := 0, draw := draw, fill := [],
    card := none }

/-- It enters its path and its barrier counts it. -/
def State.enterJob (s : State) (j : TJob) : State :=
  s.modCore fun k => { k.barUp s.core.cur.bar with jobs := k.jobs ++ [j], nextId := k.nextId + 1 }

/-- The waiting operation of a tile in its image: PKIND, PAUTO, the barrier, PENDA, PENDB and PBUND (R200). -/
def Core.setPend (k : Core) (t kind : Nat) (auto : Bool) (bar : Option (BitVec 3)) (a b bundle : Word) : Core :=
  let w3 : Word := BitVec.ofNat 64
    (128 + kind * 32 + (if auto then 16 else 0) + (match bar with
      | some j => 8 + j.toNat
      | none => 0)) <<< 56
  (((k.setTile t 3 (w3 ||| (k.tileWord t 3 &&& 0x00FFFFFFFFFFFFFF))).setTile t 4 a).setTile t 5 b).setTile t 6 (bundle &&& ~~~7#64)

/-- A tile-control job enters: it waits in PEND of its tile (R200, R208). -/
def State.control (s : State) (t : TIdx) (kind : Nat) (auto : Bool) (a b : Word) : State :=
  (s.enterJob (s.newJob a b 0 0)).modCore fun k => k.setPend t.toNat kind auto k.cur.bar a b k.cur.bundle

/-- TBIND (R217). -/
def execTbind (c : Ctl) (t : TIdx) (a : IOp) (s : State) : Out :=
  s.scalarSlot c [a] [] fun u => .next (u.control t 0 false (u.src .a a) 0)
/-- TBIND.unb (R217). -/
def execTbindUnb (c : Ctl) (t : TIdx) (s : State) : Out := s.scalarSlot c [] [] fun u => .next (u.control t 3 false 0 0)
/-- TFETCH (R218). -/
def execTfetch (c : Ctl) (t : TIdx) (a b : IOp) (auto : Bool) (s : State) : Out :=
  s.scalarSlot c [a, b] [] fun u => .next (u.control t 1 auto (u.src .a a) (u.src .b b))
/-- TREL (R219). -/
def execTrel (c : Ctl) (t : TIdx) (s : State) : Out := s.scalarSlot c [] [] fun u => .next (u.control t 2 false 0 0)

/-- TSTAT: a word of the image as it stands, zero for an unbound tile, lands two cycles on (R220). -/
def execTstat (c : Ctl) (d : IOp) (t : TIdx) (w : BitVec 3) (s : State) : Out :=
  s.scalarSlot c [] [d] fun u => 
    let x := if u.core.bound t.toNat then u.core.tileWord t.toNat w.toNat else 0
    .next ((u.wrI d x).2.land 2 [(u.wrI d x).1])

/-- TZERO (R221). -/
def execTzero (c : Ctl) (_acc : BitVec 2) (a : IOp) (s : State) : Out :=
  s.scalarSlot c [a] [] fun u => .next (u.enterJob (u.newJob (u.src .a a) 0 0 0))
/-- WLOAD (R222). -/
def execWload (c : Ctl) (_t : TIdx) (a : IOp) (s : State) : Out :=
  s.scalarSlot c [a] [] fun u => .next (u.enterJob (u.newJob (u.src .a a) 0 0 0))
/-- WSWAP (R222). -/
def execWswap (c : Ctl) (s : State) : Out := s.scalarSlot c [] [] fun u => .next (u.enterJob (u.newJob 0 0 0 0))
/-- MMA (R223). -/
def execMma (c : Ctl) (_acc : BitVec 2) (_t : TIdx) (a : IOp) (_wf : WFmt) (_half : Bool) (s : State) : Out :=
  s.scalarSlot c [a] [] fun u => .next (u.enterJob (u.newJob (u.src .a a) 0 0 0))
/-- MMAS (R223). -/
def execMmas (c : Ctl) (_acc : BitVec 2) (_t : TIdx) (a b : IOp) (_wf : WFmt) (_half _wsk _ask : Bool) (s : State) : Out :=
  s.scalarSlot c [a, b] [] fun u => .next (u.enterJob (u.newJob (u.src .a a) (u.src .b b) 0 0))

/-- TDRAIN: under mode 4 its counter values, under the key as it stands, are reserved as the slot performs (R226,
R229; log entry 19). -/
def execTdrain (c : Ctl) (_t : TIdx) (_acc : BitVec 2) (a : IOp) (rm : RmSel) (_sat _clr : Bool) (s : State) : Out :=
  s.scalarSlot c [a] [] fun u =>
    let j := u.newJob (u.src .a a) 0 (u.core.special 21) u.core.scarab.rctr
    let v := u.enterJob j
    .next (if modeOf rm u.fmode = .rsr then
        v.modCore fun k => { k with scarab := { k.scarab with rctr := k.scarab.rctr + BitVec.ofNat 64 (64 * jobN j.op.a) } }
      else v)

/-! ## Elements (R105 to R108, R201, R205) -/

/-- A core-scratchpad pointer (R242). -/
def spadPtr (o : Nat) : Word := BitVec.ofNat 64 (5 * 2 ^ 60 + o)
/-- The `n` scratchpad bytes of core `e` at an offset, as a number. -/
def State.spadNat (s : State) (e o n : Nat) : Nat := natOf ((List.range n).map fun i => s.byteAt (spadKey e (o + i)))
/-- The raw code of tile element (row, col), for a format other than N4X. -/
def State.tileCode (s : State) (e : Nat) (w0 : Word) (row col : Nat) : Nat :=
  let w := tWidth (tFmt w0)
  let o := tBuf w0 + row * tPitch w0
  if w = 4 then s.spadNat e (o + col / 2) 1 / 16 ^ (col % 2) % 16 else s.spadNat e (o + col * (w / 8)) (w / 8)
/-- A tile element as an exact value; an N4X block may fault, in the order of R108, with the pointer of the block's first
byte in the core scratchpad as its address (R107; log entry 46). -/
def State.tileElem (s : State) (e : Nat) (w0 : Word) (row col : Nat) : Except (FCode × Word) Ex :=
  let x := s.tileCode e w0 row col
  match tFmt w0 with
  | 0 => .ok (decodeF .fp32 false x)
  | 1 => .ok (decodeF .fp16 false x)
  | 2 => .ok (decodeF .bf16 false x)
  | 3 => .ok (decodeF .e4m3 false x)
  | 4 => .ok (decodeF .e5m2 false x)
  | 5 => .ok (decodeF .fp4 false x)
  | 6 =>
    let o := tBuf w0 + row * tPitch w0 + 18 * (col / 32)
    if o % 2 ≠ 0 then .error (.align, spadPtr o)
    else
    match decodeN4x ((List.range 18).map fun i => s.byteAt (spadKey e (o + i))) with
    | .ok l => .ok (l.getD (col % 32) .nan)
    | .error .reserved => .error (.reservedField, spadPtr o)
    | .error .format => .error (.format, spadPtr o)
  | 7 => .ok (Ex.ofInt (BitVec.ofNat 8 x).toInt)
  | _ => .ok (Ex.ofInt (BitVec.ofNat 4 x).toInt)

/-- The plane in a role: 0 or 1 as an index (R205). -/
def Core.planeOf (k : Core) (isActive : Bool) : Nat := if k.active == isActive then 1 else 0
/-- A row of 64 cells of a plane. -/
def Core.planeRow (k : Core) (plane r : Nat) : VReg := Store.get 0 k.planes (plane * 32 + r)
/-- A row of an accumulator (R204). -/
def Core.accRow (k : Core) (a r : Nat) : VReg := Store.get 0 k.acc (128 * a + r)
/-- A row of an accumulator set. -/
def Core.setAccRow (k : Core) (a r : Nat) (x : VReg) : Core := { k with acc := Store.set 0 k.acc (128 * a + r) x }
/-- Accumulator rows set to +0. -/
def Core.zeroRows (k : Core) (a r n : Nat) : Core := (List.range n).foldl (fun c i => c.setAccRow a (r + i) 0) k

/-- The group size of a weight format (R206). -/
def wGroup (wf : WFmt) : Nat :=
  match wf with
  | .e4m3 | .e5m2 => 4
  | .fp4 => 8
  | .bf16 | .f16 => 2
/-- The format of a weight code. -/
def wFormat (wf : WFmt) : FFmt :=
  match wf with
  | .e4m3 => .e4m3
  | .e5m2 => .e5m2
  | .fp4 => .fp4
  | .bf16 => .bf16
  | .f16 => .fp16
/-- The group size of a tile format; 0 for one that holds no activations (R206). -/
def tGroup (fmt : Nat) : Nat :=
  match fmt with
  | 3 | 4 => 4
  | 5 | 6 => 8
  | 1 | 2 => 2
  | _ => 0
/-- Weight `g` of a cell (R205). -/
def weightOf (wf : WFmt) (cell g : Nat) : Ex := decodeF (wFormat wf) false (cell / 2 ^ (32 / wGroup wf * g) % 2 ^ (32 / wGroup wf))

/-! ## Start checks (R216, R221 to R226) -/

/-- What a start check answers: a fault with its address, or nothing. -/
abbrev Check := Option (FCode × Word)
/-- The first check that fails. -/
def firstOf (l : List Check) : Check := l.findSome? id
/-- A check that fails with a code and an address. -/
def fails (b : Bool) (c : FCode) (a : Word) : Check := if b then some (c, a) else none

/-- A tile to be read is bound and READY (R209). -/
def Core.readable (k : Core) (t : Nat) : Check := fails (!k.bound t || k.tileState t == 0) .tileUnbound 0
/-- The buffer of a tile lies in the private scratchpad (R201). -/
def State.rangeOk (s : State) (e t : Nat) : Check :=
  let w0 := (s.coreAt e).tileWord t 0
  fails (!s.bufOk e w0) .range (BitVec.ofNat 64 (tBuf w0))
/-- The bits outside the fields of a job word are zero (R216). -/
def fieldsOk (a mask : Word) : Check := fails (a &&& ~~~mask != 0) .reservedField 0

/-- The checks of a job at its start (R216, R221 to R226). -/
def State.startCheck (s : State) (e : Nat) (o : SlotOp) : Check :=
  let k := s.coreAt e
  let n := jobN o.a
  match o.instr with
  | .tzero .. => firstOf [fieldsOk o.a 0x7F7F000000, fails (128 < jobCrow o.a + n) .tileShape 0]
  | .wload _ t _ =>
    firstOf [k.readable t.toNat, fieldsOk o.a 0xFF03FF, s.rangeOk e t.toNat,
      fails (tFmt (k.tileWord t.toNat 0) == 6 || tGroup (tFmt (k.tileWord t.toNat 0)) == 0) .tileShape 0]
  | .mma _ _ t _ wf half | .mmas _ _ t _ _ wf half .. =>
    let w0 := k.tileWord t.toNat 0
    let m := if half then 2 * n else n
    let l : List Check := [k.readable t.toNat, fieldsOk o.a 0x7F7FFF03FF,
      fails (tGroup (tFmt w0) != wGroup wf || tRows w0 < jobArow o.a + m || 128 < jobCrow o.a + m) .tileShape 0,
      s.rangeOk e t.toNat]
    let masks : List Check := match o.instr with
      | .mmas _ _ _ _ _ _ _ _ true =>
        [fails (tagOf o.b != 5) .spaceTag o.b, fails (o.b.extractLsb' 0 2 != 0) .align o.b,
          fails (393216 - s.share (clusterOf e) < offOf o.b + 4 * m) .range o.b]
      | _ => []
    firstOf (l ++ masks)
  | .tdrain _ t _ _ _ sat _ =>
    let w0 := k.tileWord t.toNat 0
    let f := tFmt w0
    firstOf [fails (!k.bound t.toNat) .tileUnbound 0, fieldsOk o.a 0x7F7FFF03FF,
      fails (f == 6 || f == 8 || tRows w0 < jobArow o.a + n || tCols w0 < jobKcol o.a + 64 || 128 < jobCrow o.a + n)
        .tileShape 0,
      s.rangeOk e t.toNat, fails (sat && !(f == 1 || f == 2 || f == 4)) .reservedField 0]
  | _ => none

/-! ## Weights and drains (R222, R226) -/

/-- One cell that WLOAD makes: its codes, 0 beyond the tile (R222). -/
def State.cellOf (s : State) (e : Nat) (w0 : Word) (krow c r : Nat) : Nat :=
  let g := tGroup (tFmt w0)
  ((List.range g).map fun i =>
    let k := krow + r * g + i
    (if k < tRows w0 && c < tCols w0 then s.tileCode e w0 k c else 0) * 2 ^ (32 / g * i)).sum

/-- A row of a plane set. -/
def Core.setPlaneRow (k : Core) (plane r : Nat) (x : VReg) : Core := { k with planes := Store.set 0 k.planes (plane * 32 + r) x }
/-- The shadow plane filled from a tile (R222). -/
def State.loadPlane (s : State) (e t : Nat) (a : Word) : State :=
  let w0 := (s.coreAt e).tileWord t 0
  s.modCoreAt e fun k => (List.range 32).foldl (fun c r =>
    c.setPlaneRow (c.planeOf false) r (ofLanes fun j => BitVec.ofNat 32 (s.cellOf e w0 (jobArow a) (jobKcol a + j) r))) k

/-- The code that a drain stores for an accumulator element (R112 to R119, R226). -/
def drainCode (fmt : Nat) (mode : RMode) (ftz sat : Bool) (r x : Nat) : Nat :=
  let v := decodeF .fp32 ftz x
  match fmt with
  | 0 => x
  | 1 => roundF .fp16 mode ftz sat r v
  | 2 => roundF .bf16 mode ftz sat r v
  | 3 => roundF .e4m3 mode false sat r v
  | 4 => roundF .e5m2 mode false sat r v
  | 5 => roundF .fp4 mode false sat r v
  | _ => (BitVec.ofInt 8 (roundInt mode (-128) 127 r v)).toNat

/-- The codes of one accumulator row as the bits of 64 elements. -/
def drainRow (j : TJob) (rm : RmSel) (sat : Bool) (fmt i : Nat) (x : VReg) : Nat :=
  let mode := modeOf rm j.op.fmode
  let w := tWidth fmt
  ((List.range 64).map fun c =>
    let r := if mode = .rsr then (gen j.op.c (j.draw + BitVec.ofNat 64 (64 * i + c))).toNat % 2 ^ 32 else 0
    drainCode fmt mode (ftzOf j.op.fmode) sat r (lane x c).toNat * 2 ^ (w * c)).sum

/-- The elements of one row of a drain written into the buffer, other elements of its bytes kept (R105, R226). -/
def State.drainInto (s : State) (e : Nat) (w0 : Word) (row col bits : Nat) : State :=
  let w := tWidth (tFmt w0)
  let o := tBuf w0 + row * tPitch w0 + col * w / 8
  let len := (col * w % 8 + 64 * w + 7) / 8
  let sh := col * w % 8
  let old := s.spadNat e o len
  let new := old % 2 ^ sh + bits * 2 ^ sh + old / 2 ^ (sh + 64 * w) * 2 ^ (sh + 64 * w)
  s.enginePut e 1 ((List.range len).map fun i => spadKey e (o + i)) (bytesOf len new)

/-- TDRAIN's effect (R226); READY follows at its completion. -/
def State.drainTile (s : State) (e : Nat) (j : TJob) (t acc : Nat) (rm : RmSel) (sat clr : Bool) : State :=
  let n := jobN j.op.a
  let w0 := (s.coreAt e).tileWord t 0
  let u := s.modCoreAt e fun k => k.setTileState t 3
  let v := (List.range n).foldl (fun (x : State) i =>
    x.drainInto e w0 (jobArow j.op.a + i) (jobKcol j.op.a)
      (drainRow j rm sat (tFmt w0) i ((x.coreAt e).accRow acc (jobCrow j.op.a + i)))) u
  if clr then v.modCoreAt e fun k => k.zeroRows acc (jobCrow j.op.a) n else v

/-! ## The life of a job -/

/-- A job of core `e` changed. -/
def State.setJob (s : State) (e : Nat) (j : TJob) : State :=
  s.modCoreAt e fun k => { k with jobs := k.jobs.map fun x => if x.id = j.id then j else x }
/-- A job of core `e` is over: it leaves the engine and its barrier goes down (R210). -/
def State.endJob (s : State) (e : Nat) (j : TJob) : State :=
  (s.modCoreAt e fun k => { k with jobs := k.jobs.filter fun x => x.id != j.id }).lowerBar e j.own
    (if j.card.isSome then none else j.op.bar)
/-- A job ends with a fault (R136); one that works for a card ends the card, and its issuing core is charged (R335). -/
def State.failJob (s : State) (e : Nat) (j : TJob) (c : FCode) (a : Word) : State :=
  match j.card with
  | none => (s.endJob e j).opFault e j.own j.op c a
  | some id => (s.endJob e j).failCard e id c a

/-- Whether two lists share an item. -/
def sharesItem (xs ys : List Item) : Bool := xs.any ys.contains
/-- Whether two jobs name one tile. -/
def sharesTile (x y : TJob) : Bool := (jobTiles x.op.instr).any (jobTiles y.op.instr).contains
/-- Whether a job is one of tile control. -/
def TJob.control (j : TJob) : Bool := jobPath j.op.instr == some .fetch

/-- Whether an earlier job keeps a later one from starting (R209). -/
def TJob.holdsBack (now : Nat) (x j : TJob) : Bool :=
  ((x.control || j.control) && sharesTile x j)
    || sharesItem (itemWrites x.op) (itemReads j.op ++ itemWrites j.op)
    || (!x.doneReading now true && sharesItem (itemReads x.op) (itemWrites j.op))

/-- Whether the path of a job is free (R208, R209); a tile-control job that has started holds the fetcher up to the cycle in
`live` (R210). -/
def Core.pathFree (k : Core) (now : Nat) (j : TJob) : Bool :=
  match jobPath j.op.instr with
  | some .array =>
    k.jobs.all fun x => jobPath x.op.instr != some .array || x.id == j.id || (x.start.isNone && j.id < x.id)
      || x.leaves.any (· ≤ now)
  | some .weight => k.jobs.all fun x => jobPath x.op.instr != some .weight || j.id ≤ x.id
  | some .fetch => k.jobs.all fun x => jobPath x.op.instr != some .fetch || x.start.isNone || x.live ≤ now
  | none => true

/-- Whether no tile of a job is FILLING or DRAINING. -/
def Core.tilesStill (k : Core) (j : TJob) : Bool :=
  (jobTiles j.op.instr).all fun t => k.tileState t == 0 || k.tileState t == 2

/-- Whether the edges of a job with some footprint are met (R209, R298). -/
def State.jobEdges (s : State) (e : Nat) (j : TJob) (rd wr : List Region) : Bool :=
  if j.card.isSome then s.cardEdgesMet e j.id rd wr else s.edgesMet e j.id rd wr

/-- The core whose gate holds the stores of a job's issuing task: that of its card, for a card's job (R138, R335). -/
def State.gateCore (s : State) (e : Nat) (j : TJob) : Nat := ((j.card.bind (s.cardOf e)).map (·.core)).getD e

/-- Whether a job may start now (R209). -/
def State.mayStart (s : State) (e : Nat) (j : TJob) : Bool :=
  let k := s.coreAt e
  j.start.isNone && j.due ≤ s.cycle && k.pathFree s.cycle j
    && (k.jobs.all fun x => j.id ≤ x.id || !x.holdsBack s.cycle j)
    && (k.copies.all fun c => j.id ≤ c.id || c.over || !((jobTiles c.op.instr).any (jobTiles j.op.instr).contains))
    && (j.control || k.tilesStill j)
    && s.jobEdges e j (k.jobReads j) (k.jobWrites j)

/-! ## Tile control (R217 to R219) -/

/-- The fault that TBIND meets, if any (R217). -/
def State.bindCheck (s : State) (e : Nat) (a : Word) : Check :=
  let buf := BitVec.ofNat 64 (tBuf a)
  firstOf [fails (a.extractLsb' 58 6 != 0 || a.getLsbD 53) .reservedField 0, fails (9 ≤ tFmt a) .reservedField 0,
    fails (a.extractLsb' 0 6 != 0) .align buf,
    fails (tPitch a % 8 != 0 || tPitch a < tRowBytes a || (tFmt a == 6 && tCols a % 32 != 0)) .tileShape 0,
    fails (!s.bufOk e a) .range buf]

/-- A tile-control operation that does not fill, done in this cycle: it completes in the next, and the fetcher is its own for
this one (R210). -/
def State.controlled (s : State) (e : Nat) (j : TJob) : State :=
  s.setJob e { j with start := some s.cycle, due := s.cycle + 1, live := s.cycle + 1 }

/-- Fill(): the tile is FILLING and its rows are still to be written (R218). How long it occupies the fetcher, which R210
calls source-dependent, is the oracle's (DESIGN CHOICE, log entry 92). -/
def State.fill (s : State) (e : Nat) (j : TJob) (t : Nat) : State :=
  let u := (s.draw.2).modCoreAt e fun k => k.setTileState t 1
  u.setJob e { j with start := some s.cycle, due := s.cycle, live := s.cycle + 1 + s.draw.1, fill := List.range (tRows ((u.coreAt e).tileWord t 0)) }

/-- No operation waits at tile `t` any more: every field that describes one is zero (R200; log entry 29). -/
def Core.clearPend (k : Core) (t : Nat) : Core := (((k.setTileField t 3 56 8 0).setTile t 4 0).setTile t 5 0).setTile t 6 0

/-- A tile-control operation is performed (R217 to R219). -/
def State.performControl (s : State) (e : Nat) (j : TJob) (t : Nat) : State :=
  let s := s.modCoreAt e fun k => k.clearPend t
  match j.op.instr with
  | .tbind .. =>
    match s.bindCheck e j.op.a with
    | some (c, a) => s.failJob e j c a
    | none =>
      (s.modCoreAt e fun k =>
        (((k.setTile t 0 ((1 : Word) <<< 63 ||| j.op.a)).setTile t 1 0).setTile t 2 0).setTileField t 3 0 32 0).controlled e j
  | .tbindUnb .. => (s.modCoreAt e fun k => (List.range 8).foldl (fun (c : Core) w => c.setTile t w 0) k).controlled e j
  | .tfetch _ _ _ _ auto =>
    if !(s.coreAt e).bound t then s.failJob e j .tileUnbound 0
    else if tagOf j.op.a = 6 ∨ 8 ≤ tagOf j.op.a then s.failJob e j .spaceTag j.op.a
    else
      (s.modCoreAt e fun k =>
        (((k.setTile t 1 j.op.a).setTile t 2 j.op.b).setTileField t 0 62 1 1).setTileField t 0 61 1
          (if auto then 1 else 0)).fill e j t
  | _ =>
    if !(s.coreAt e).bound t then s.failJob e j .tileUnbound 0
    else if (s.coreAt e).tileAuto t then
      (s.modCoreAt e fun k => k.setTile t 1
        (addOffset (k.tileWord t 1) (BitVec.ofInt 64 ((k.tileWord t 2).extractLsb' 32 32).toInt))).fill e j t
    else (s.modCoreAt e fun k => k.setTileState t 0).controlled e j

/-- TILE_CONTROL_PERFORM: the waiting operation of a tile, once every earlier job that names the tile is over (R208,
R209, R217, R219). -/
def execTileControlPerform (t : TIdx) (s : State) : Out :=
  match s.core.jobs.find? fun j => j.control && j.start.isNone && (jobTiles j.op.instr).contains t.toNat with
  | none => .next s
  | some j =>
    let r := s.core.controlRegions j t.toNat
    if (s.core.run != .running && j.card.isNone) || !s.mayStart s.me j || !s.jobEdges s.me j r.1 r.2 then .next s
    else .next ((if r.2.isEmpty then s else s.jobCommit (s.gateCore s.me j) j.own).performControl s.me j t.toNat)

/-- A fill ends with a fault (R202, R218). -/
def State.failFill (s : State) (e : Nat) (j : TJob) (t : Nat) (c : FCode) (a : Word) : State :=
  (s.modCoreAt e fun k => ((k.setTileState t 0).setTileField t 0 62 1 0).setTileField t 0 61 1 0).failJob e j c a

/-- The last row of a fill is written: READY, and one more fill counted (R202, R218). -/
def Core.filled (k : Core) (t : Nat) : Core :=
  (k.setTileState t 2).setTileField t 3 0 32 ((((k.tileWord t 3).extractLsb' 0 32).toNat + 1) % 2 ^ 32)

/-- FILL_ROW: one source row is read and written into the buffer (R218). -/
def execFillRow (t : TIdx) (row : Nat) (s : State) : Out :=
  let e := s.me
  match s.core.jobs.find? fun j => j.control && (jobTiles j.op.instr).contains t.toNat && j.fill.contains row with
  | none => .next s
  | some j =>
    if s.cycle < j.due then .next s
    else
      let w0 := s.core.tileWord t.toNat 0
      let n := tRowBytes w0
      let src := addOffset (s.core.tileWord t.toNat 1)
        (BitVec.ofInt 64 (row * ((s.core.tileWord t.toNat 2).extractLsb' 0 32).toInt))
      if !s.bufOk e w0 then .next (s.failFill e j t.toNat .range (BitVec.ofNat 64 (tBuf w0)))
      else
        match s.engineKeys e .read 3 src n with
        | .fail c a => .next (s.failFill e j t.toNat c a)
        | .wait _ => .next (s.setJob e { j with due := 4096 + s.cycle })
        | .keys ks =>
          match s.engineFetch e ks with
          | (.error (c, a), u) => .next (u.failFill e j t.toNat c (BitVec.ofNat 64 a))
          | (.ok bs, u) =>
            let v := u.enginePut e 1 ((List.range n).map fun i => spadKey e (tBuf w0 + row * tPitch w0 + i)) bs
            let left := j.fill.filter (· != row)
            if left.isEmpty then .next ((v.modCoreAt e fun k => k.filled t.toNat).endJob e j)
            else .next (v.setJob e { j with fill := left })

/-! ## MMA and MMAS, one row at a time (R120 to R123, R224, R225) -/

/-- An activation element of a pass; +0 at or beyond COLS. -/
def State.activation (s : State) (e : Nat) (w0 : Word) (row col : Nat) : Except (FCode × Word) (Option Ex) :=
  if col < tCols w0 then (s.tileElem e w0 row col).map some else .ok none

/-- The activation groups of the live plane rows of one stream's row: the first decoding fault, or the values. -/
def State.groups (s : State) (e : Nat) (w0 : Word) (row kcol g : Nat) :
    List (Nat × Nat) → Except (FCode × Word) (List (Nat × List (Option Ex)))
  | [] => .ok []
  | (r, pr) :: rs =>
    match (List.range g).mapM fun i => s.activation e w0 row (kcol + r * g + i) with
    | .error x => .error x
    | .ok vs =>
      match s.groups e w0 row kcol g rs with
      | .error x => .error x
      | .ok l => .ok ((pr, vs) :: l)

/-- The exact sum of a group's products; a K beyond the operand gives +0 (R120, R121). -/
def groupSum (wf : WFmt) (cell : Nat) (acts : List (Option Ex)) : Ex :=
  let ps := (acts.zip (List.range acts.length)).map fun x =>
    match x.1 with
    | some v => v.mul (weightOf wf cell x.2)
    | none => Ex.fin false 0 0
  match ps with
  | [] => .fin false 0 0
  | p :: rest => rest.foldl (Ex.add false) p

/-- One cell of the chain (R120). -/
def chainCell (c : Nat) (x : Ex) : Nat := roundF .fp32 .rne false false 0 ((decodeF .fp32 false c).add false x)

/-- The chain of one accumulator row over the live plane rows, for all 64 columns (R121). -/
def Core.chainRow (k : Core) (wf : WFmt) (gs : List (Nat × List (Option Ex))) (x : VReg) : VReg :=
  let p := k.planeOf true
  ofLanes fun j => BitVec.ofNat 32 (gs.foldl (fun c y => chainCell c (groupSum wf (lane (k.planeRow p y.1) j).toNat y.2))
    (lane x j).toNat)

/-- What MMA and MMAS name beside their operands: accumulator, tile, WFMT, HALF, WSK, ASK. -/
def mmaOf (i : Instr) : Option (Nat × Nat × WFmt × Bool × Bool × Bool) :=
  match i with
  | .mma _ acc t _ wf half => some (acc.toNat, t.toNat, wf, half, false, false)
  | .mmas _ acc t _ _ wf half wsk ask => some (acc.toNat, t.toNat, wf, half, wsk, ask)
  | _ => none

/-- WM: whether plane row `pr` of the active plane has a weight other than ±0 (R225). -/
def Core.rowLive (k : Core) (wf : WFmt) (pr : Nat) : Bool :=
  (List.range 64).any fun j => (List.range (wGroup wf)).any fun g =>
    match weightOf wf (lane (k.planeRow (k.planeOf true) pr) j).toNat g with
    | .fin _ 0 _ => false
    | _ => true

/-- The live plane rows of stream `st` of step `i`, with their places in the chain (R225). -/
def State.liveRows (s : State) (e : Nat) (j : TJob) (wf : WFmt) (half wsk ask : Bool) (st i : Nat) : List (Nat × Nat) :=
  let n := jobN j.op.a
  let am := if ask then s.spadNat e (offOf j.op.b + 4 * (st * n + i)) 4 else 2 ^ 32 - 1
  ((List.range (if half then 16 else 32)).map fun r => (r, st * 16 + r)).filter fun x =>
    am.testBit x.1 && (!wsk || (s.coreAt e).rowLive wf x.2)

/-- One stream's row of a step: the accumulator row's new value. -/
def State.streamRow (s : State) (e : Nat) (j : TJob) (acc : Nat) (w0 : Word) (wf : WFmt) (st i : Nat)
    (ls : List (Nat × Nat)) : Except (FCode × Word) (Nat × VReg) :=
  let n := jobN j.op.a
  let row := jobCrow j.op.a + st * n + i
  (s.groups e w0 (jobArow j.op.a + st * n + i) (jobKcol j.op.a) (wGroup wf) ls).map fun gs =>
    (row, (s.coreAt e).chainRow wf gs ((s.coreAt e).accRow acc row))

/-- The mask row of a stream's step, where it no longer lies in the private scratchpad (R201, R225, R243). -/
def State.maskOut (s : State) (e : Nat) (j : TJob) (sts : List Nat) (i : Nat) : Option Word :=
  (sts.map fun st => addOffset j.op.b (BitVec.ofNat 64 (4 * (st * jobN j.op.a + i)))).find? fun p =>
    393216 - s.share (clusterOf e) < offOf p + 4

/-- Step `i` of a job: none where it is skipped, else the rows it gives or its fault: a mask row or a buffer that has left the
private scratchpad, or the decoding (R201, R212, R224). -/
def State.latheRow (s : State) (e : Nat) (j : TJob) (i : Nat) : Option (Except (FCode × Word) State) :=
  match mmaOf j.op.instr with
  | none => none
  | some (acc, t, wf, half, wsk, ask) =>
    let w0 := (s.coreAt e).tileWord t 0
    let sts := if half then [0, 1] else [0]
    let ls := sts.map fun st => s.liveRows e j wf half wsk ask st i
    match if ask then s.maskOut e j sts i else none with
    | some p => some (.error (.range, p))
    | none =>
    if ls.all (·.isEmpty) then none
    else if !s.bufOk e w0 then some (.error (.range, BitVec.ofNat 64 (tBuf w0)))
    else some (((sts.zip ls).mapM fun x => s.streamRow e j acc w0 wf x.1 i x.2).map fun rows =>
      rows.foldl (fun u x => u.modCoreAt e fun k => k.setAccRow acc x.1 x.2) s)

/-- Whether the Lathe stops job `j` before its next row for a freeze (R212); the jobs of a card run on (R335). -/
def Core.stopsAt (k : Core) (j : TJob) : Bool :=
  match k.run with
  | .running | .idle _ => false
  | .draining _ | .frozen _ => j.card.isNone && j.rows % 16 == 0 && 0 < j.rows

/-- The rows of a step: a pair under HALF (R212, R433). -/
def rowsOf (j : TJob) : Nat :=
  match mmaOf j.op.instr with
  | some (_, _, _, true, _, _) => 2
  | _ => 1

/-- The rows that the Lathe passes in this cycle: skipped ones, and one that is processed (R210, R212, R225). Of the rows
skipped in one cycle, `room` are still to be counted: R433 allows at most 2 (DEDUCED, log entry 93). -/
def State.lathe (s : State) (e : Nat) (room : Nat) : Nat → TJob → State
  | 0, j => s.setJob e j
  | fuel + 1, j =>
    if jobN j.op.a ≤ j.rows || (s.coreAt e).stopsAt j then s.setJob e j
    else
      match s.latheRow e j j.rows with
      | none => (s.countAt e 14 (min room (rowsOf j))).lathe e (room - rowsOf j) fuel { j with rows := j.rows + 1 }
      | some r =>
        if s.cycle < j.start.getD 0 + j.live then s.setJob e j
        else
          match r with
          | .error (c, a) => s.failJob e j c a
          | .ok t => (t.countAt e 13 (rowsOf j)).lathe e room fuel { j with rows := j.rows + 1, live := j.live + 1 }

/-- LATHE_STEP. -/
def execLatheStep (s : State) : Out :=
  match s.core.jobs.find? fun j => j.start.isSome && (mmaOf j.op.instr).isSome && j.rows < jobN j.op.a with
  | none => .next s
  | some j => if s.core.frozen && j.card.isNone then .next s else .next (s.lathe s.me 2 (jobN j.op.a + 1) j)

end Sys2Proof.Machine
end

