-- ==== Sys2Proof/Machine/Scarab.lean ====
section
/-! DEFINITION. The Scarab and sampled products (R227 to R239), and how a tensor job starts and completes (R209,
R210). -/

namespace Sys2Proof.Machine

/-! ## Exact quotients and roots -/

/-- x / y as an exact value or one with a sticky bit below 80 places, for a single rounding. -/
def Ex.div (x y : Ex) : Ex :=
  match x, y with
  | .nan, _ => .nan
  | _, .nan => .nan
  | .inf _, .inf _ => .nan
  | .inf a, .fin b _ _ => .inf (a != b)
  | .fin a _ _, .inf b => .fin (a != b) 0 0
  | .fin a m e, .fin b n f =>
    if n = 0 then (if m = 0 then .nan else .inf (a != b))
    else if m = 0 then .fin (a != b) 0 0
    else
      let k := n.log2 + 120
      if m * 2 ^ k % n = 0 then .fin (a != b) (m * 2 ^ k / n) (e - f - k)
      else (stickyEx (a != b) (m * 2 ^ k / n) 0).scale (e - f - k)

/-- √x, with a sticky bit where it is not exact. -/
def Ex.sqrt (x : Ex) : Ex :=
  match x with
  | .nan => .nan
  | .inf n => if n then .nan else .inf false
  | .fin n 0 _ => .fin n 0 0
  | .fin true _ _ => .nan
  | .fin false m e =>
    let m' := if e % 2 = 0 then m else 2 * m
    let e' := if e % 2 = 0 then e else e - 1
    let k : Nat := 80
    let y := isqrt (m' * 2 ^ (2 * k)) ((m' * 2 ^ (2 * k)).log2 / 2 + 1) 0
    if y * y = m' * 2 ^ (2 * k) then .fin false y (e' / 2 - k) else (stickyEx false y 0).scale (e' / 2 - k)

/-- An FP32 pattern as a value. -/
def f32 (x : Nat) : Ex := decodeF .fp32 false x
/-- RoundNE to FP32 (R120). -/
def rne32 (x : Ex) : Nat := roundF .fp32 .rne false false 0 x
/-- RoundNE to FP64. -/
def rne64 (x : Ex) : Nat := roundF .fp64 .rne false false 0 x

/-! ## The slots (R230, R231) -/

/-- NORMK (R232). -/
def execNormk (c : Ctl) (_t : TIdx) (a : IOp) (_sideB _clr : Bool) (s : State) : Out :=
  s.scalarSlot c [a] [] fun u => .next (u.enterJob (u.newJob (u.src .a a) 0 0 0))
/-- ALIAS (R233). -/
def execAliasTab (c : Ctl) (a : IOp) (s : State) : Out :=
  s.scalarSlot c [a] [] fun u => .next (u.enterJob (u.newJob (u.src .a a) 0 0 0))
/-- SEED (R234). -/
def execSeed (c : Ctl) (a : IOp) (s : State) : Out :=
  s.scalarSlot c [a] [] fun u => .next (u.enterJob (u.newJob (u.src .a a) 0 0 0))
/-- SMM (R235). -/
def execSmm (c : Ctl) (_acc : BitVec 2) (_ta _tb : TIdx) (a b : IOp) (s : State) : Out :=
  s.scalarSlot c [a, b] [] fun u => .next (u.enterJob (u.newJob (u.src .a a) (u.src .b b) 0 0))
/-- SMMV (R239). -/
def execSmmv (c : Ctl) (a : IOp) (s : State) : Out :=
  s.scalarSlot c [a] [] fun u => .next (u.enterJob (u.newJob (u.src .a a) 0 0 0))

/-! ## NORMK (R232) -/

/-- NM1, ROW0, K0 and KM1 of NORMK. -/
def normShape (a : Word) : Nat × Nat × Nat × Nat :=
  ((a.extractLsb' 40 8).toNat, (a.extractLsb' 32 8).toNat, (a.extractLsb' 16 12).toNat, (a.extractLsb' 0 12).toNat)

/-- The start checks of NORMK. -/
def State.normCheck (s : State) (e t : Nat) (a : Word) (sideB : Bool) : Check :=
  let k := s.coreAt e
  let w0 := k.tileWord t 0
  let (nm1, row0, k0, km1) := normShape a
  firstOf [k.readable t, fieldsOk a 0xFFFF0FFF0FFF,
    fails (7 ≤ tFmt w0 || 4095 < k0 + km1
      || (if sideB then nm1 != 0 || tRows w0 ≤ row0 + km1 else tRows w0 ≤ row0 + nm1 || tCols w0 ≤ km1)) .tileShape 0,
    s.rangeOk e t]

/-- The squares of some elements added to a norm, each sum rounded (R232). -/
def State.addSquares (s : State) (e : Nat) (w0 : Word) (x : Nat) : List (Nat × Nat) → Except (FCode × Word) Nat
  | [] => .ok x
  | (row, col) :: l =>
    match s.tileElem e w0 row col with
    | .error f => .error f
    | .ok v => s.addSquares e w0 (rne32 ((f32 x).add false (v.mul v))) l

/-- The norm state that NORMK gives one side. -/
def State.norms (s : State) (e : Nat) (w0 : Word) (elems : Nat → List (Nat × Nat)) (k0 : Nat) :
    List Nat → Store Lane → Except (FCode × Word) (Store Lane)
  | [], t => .ok t
  | c :: cs, t =>
    match s.addSquares e w0 (Store.get 0 t (k0 + c)).toNat (elems c) with
    | .error f => .error f
    | .ok x => s.norms e w0 elems k0 cs (Store.set 0 t (k0 + c) (BitVec.ofNat 32 x))

/-- NORMK's effect, with its occupancy, or its decoding fault. -/
def State.normk (s : State) (e t : Nat) (a : Word) (sideB clr : Bool) : Except (FCode × Word) (State × Nat) :=
  let k := s.coreAt e
  let w0 := k.tileWord t 0
  let (nm1, row0, k0, km1) := normShape a
  let elems := fun (c : Nat) =>
    if sideB then (List.range (min (tCols w0) 64)).map fun j => (row0 + c, j)
    else (List.range (nm1 + 1)).map fun i => (row0 + i, c)
  let old := if clr then [] else if sideB then k.scarab.nb2 else k.scarab.na2
  (s.norms e w0 elems k0 (List.range (km1 + 1)) old).map fun x =>
    (s.modCoreAt e fun c =>
      let z := c.scarab
      { c with scarab := { z with
          na2 := if sideB then (if clr then [] else z.na2) else x,
          nb2 := if sideB then x else (if clr then [] else z.nb2), valid := false } },
     if sideB then km1 + 1 else ((nm1 + 1) * (km1 + 1) + 63) / 64)

/-! ## ALIAS (R233) -/

/-- w[k], one rounding of the root of an exact product. -/
def Scarab.weight (z : Scarab) (k : Nat) : Nat :=
  rne32 ((f32 (Store.get 0 z.na2 k).toNat).mul (f32 (Store.get 0 z.nb2 k).toNat)).sqrt

/-- The integer that a finite FP32 value is at the exponent of the smallest. -/
def fixed32 (x : Nat) : Nat :=
  match f32 x with
  | .fin _ m e => m * 2 ^ (e + 149).toNat
  | .inf _ | .nan => 0

/-- The pairing of R233: `q` holds each q[k] times `d`; `small` and `large` are the two queues. The entries made,
then the indices left. -/
def pairEntries (d : Nat) : Nat → Store Nat → List Nat → List Nat → List (Nat × Nat × Nat) × List Nat
  | 0, _, small, large => ([], small ++ large)
  | fuel + 1, q, s :: small, g :: large =>
    let x := Store.get 0 q s
    let y := Store.get 0 q g - (d - x)
    let q' := Store.set 0 q g y
    let r := if y < d then pairEntries d fuel q' (small ++ [g]) large else pairEntries d fuel q' small (g :: large)
    ((s, 2 ^ 32 * x / d, g) :: r.1, r.2)
  | _, _, small, large => ([], small ++ large)

/-- ALIAS's effect; none is SAMPLE_TABLE. -/
def Scarab.buildTable (z : Scarab) (kn : Nat) : Option Scarab :=
  let w := (List.range kn).map z.weight
  let total := (w.map fixed32).sum
  if (w.any fun x => match f32 x with
      | .fin .. => false
      | .inf _ | .nan => true) || total == 0 then none
  else
    let sum := Ex.fin false total (-149)
    let q : Store Nat := (w.zip (List.range kn)).filterMap fun x =>
      if fixed32 x.1 = 0 then none else some (x.2, fixed32 x.1 * kn)
    let small := (List.range kn).filter fun k => Store.get 0 q k < total
    let large := (List.range kn).filter fun k => total ≤ Store.get 0 q k
    let r := pairEntries total (2 * kn) q small large
    let entry := fun (k : Nat) (full : Bool) (thr alix : Nat) =>
      ({ thr := BitVec.ofNat 32 thr, full := full, alix := BitVec.ofNat 12 alix,
         p := BitVec.ofNat 32 (rne32 ((f32 (w.getD k 0)).div sum)),
         r := BitVec.ofNat 32 (rne32 (sum.div (f32 (w.getD k 0)))) } : AliasEntry)
    let t1 := r.1.foldl (fun (t : Store AliasEntry) x => Store.set AliasEntry.none t x.1 (entry x.1 false x.2.1 x.2.2)) []
    let t2 := r.2.foldl (fun (t : Store AliasEntry) k => Store.set AliasEntry.none t k (entry k true 0 k)) t1
    some { z with table := t2, valid := true, kn := BitVec.ofNat 13 kn }

/-! ## SMM (R235 to R237) -/

/-- The start checks of SMM. -/
def State.smmCheck (s : State) (e : Nat) (o : SlotOp) (ta tb : Nat) : Check :=
  let k := s.coreAt e
  let wa := k.tileWord ta 0
  let wb := k.tileWord tb 0
  let n := jobN o.a
  let kn := k.scarab.kn.toNat
  firstOf [k.readable ta, k.readable tb, fieldsOk o.a 0x7F7FFF0000, fails (o.b.extractLsb' 24 40 != 0) .reservedField 0,
    fails (7 ≤ tFmt wa || 7 ≤ tFmt wb || tCols wa < kn || tRows wb < kn || tRows wa < jobArow o.a + n
      || 128 < jobCrow o.a + n) .tileShape 0,
    s.rangeOk e ta, s.rangeOk e tb, fails (!k.scarab.valid) .sampleTable 0]

/-- The index that a draw selects (R236). -/
def Scarab.pick (z : Scarab) (u : Word) : Nat :=
  let c := (u.toNat / 2 ^ 32) * z.kn.toNat / 2 ^ 32
  let x := Store.get AliasEntry.none z.table c
  if x.full || u.toNat % 2 ^ 32 < x.thr.toNat then c else x.alix.toNat

/-- One rank-1 update of a row: S + A × B × R, rounded once. -/
def rankRow (x : VReg) (a r : Ex) (b : List Ex) : VReg :=
  ofLanes fun j => BitVec.ofNat 32 (rne32 ((f32 (lane x j).toNat).add false ((a.mul (b.getD j .nan)).mul r)))

/-- One draw (R236): the state after it, or the fault of an N4X block, which keeps the draw alone. Where one draw meets several
bad blocks, the spec gives no order: A's rows are decoded first, in ascending order, then B's row (DESIGN CHOICE, log entry
46). -/
def State.sample (s : State) (e : Nat) (o : SlotOp) (acc ta tb : Nat) : Except ((FCode × Word) × State) State :=
  let k := s.coreAt e
  let z := k.scarab
  let i := z.pick (gen z.key z.sctr)
  let t := s.modCoreAt e fun c => { c with scarab := { c.scarab with sctr := c.scarab.sctr + 1 } }
  let n := jobN o.a
  let wb := k.tileWord tb 0
  let avals := (List.range n).mapM fun r => s.tileElem e (k.tileWord ta 0) (jobArow o.a + r) i
  let bvals := (List.range 64).mapM fun j => if j < tCols wb then s.tileElem e wb i j else .ok (Ex.fin false 0 0)
  match avals, bvals with
  | .error f, _ => .error (f, t)
  | _, .error f => .error (f, t)
  | .ok as, .ok bs =>
    let r := f32 (Store.get AliasEntry.none z.table i).r.toNat
    let norm := ((f32 (Store.get 0 z.na2 i).toNat).mul (f32 (Store.get 0 z.nb2 i).toNat)).mul (r.mul r)
    .ok (t.modCoreAt e fun c =>
      let d := (List.range n).foldl (fun (x : Core) y =>
        x.setAccRow acc (jobCrow o.a + y) (rankRow (x.accRow acc (jobCrow o.a + y)) (as.getD y .nan) r bs)) c
      { d with scarab := { d.scarab with
          sq := BitVec.ofNat 64 (rne64 ((decodeF .fp64 false d.scarab.sq.toNat).add false norm)) } })

/-- Draws one after another. -/
def State.samples (s : State) (e : Nat) (o : SlotOp) (acc ta tb : Nat) : Nat → Except ((FCode × Word) × State) State
  | 0 => .ok s
  | n + 1 =>
    match s.sample e o acc ta tb with
    | .error x => .error x
    | .ok t => t.samples e o acc ta tb n

/-- ‖S‖² as an exact value (R237). -/
def Core.normSquared (k : Core) (acc row n : Nat) : Ex :=
  (List.range n).foldl (fun x i => (List.range 64).foldl (fun (y : Ex) j =>
    let v := f32 (lane (k.accRow acc (row + i)) j).toNat
    y.add false (v.mul v)) x) (.fin false 0 0)

/-- Whether every element of S is finite. -/
def Core.finiteRows (k : Core) (acc row n : Nat) : Bool :=
  (List.range n).all fun i => (List.range 64).all fun j =>
    match f32 (lane (k.accRow acc (row + i)) j).toNat with
    | .fin .. => true
    | .inf _ | .nan => false

/-- VARX after `n` samples (R237). -/
def varOf (finite : Bool) (n : Nat) (sq norm : Ex) : Nat :=
  if n < 2 then FFmt.inf .fp32
  else if !finite then FFmt.nan .fp32
  else
    let x := ((sq.mul (.fin false n 0)).add false norm.neg).div (.fin false (n * (n - 1)) 0)
    match x with
    | .fin true _ _ => 0
    | .inf true => 0
    | .fin _ 0 _ => 0
    | y => rne32 y

/-- The stop test (R237). -/
def stopTest (n : Nat) (varx thr : Nat) (norm : Ex) : Bool :=
  match f32 varx, f32 thr with
  | .nan, _ => false
  | .inf _, _ => false
  | _, .nan => false
  | .fin .., .inf _ => true
  | v, t => !((t.mul t).mul norm).lt false (v.mul (.fin false n 0))

/-- The registers and latches after a batch (R228, R237, R239). -/
def Core.afterBatch (k : Core) (n varx : Nat) (norm : Ex) : Core :=
  let c : Core := { k with scarab := { k.scarab with
    n := BitVec.ofNat 24 n, cnrm := BitVec.ofNat 64 (if n = 0 then 0 else rne64 (norm.div (.fin false (n * n) 0))) } }
  (c.setSpecial 23 (BitVec.ofNat 64 varx)).setSpecial 24 (BitVec.ofNat 64 n)

/-- S divided by n (R236). -/
def Core.divideRows (k : Core) (acc row n cnt : Nat) : Core :=
  (List.range n).foldl (fun (c : Core) i =>
    c.setAccRow acc (row + i) (ofLanes fun j =>
      BitVec.ofNat 32 (rne32 ((f32 (lane (c.accRow acc (row + i)) j).toNat).div (.fin false cnt 0))))) k

/-- The cycles of a batch of `d` draws. -/
def batchTime (rows d : Nat) : Nat := d * ((rows + 3) / 4) + 32

/-- SMM begins: latches, and rows of +0 (R236). -/
def State.beginSmm (s : State) (e : Nat) (j : TJob) (acc : Nat) : State :=
  let n := jobN j.op.a
  let smax := (j.op.b.extractLsb' 0 24).toNat
  let t := s.modCoreAt e fun k =>
    let c := k.zeroRows acc (jobCrow j.op.a) n
    { c with scarab := { c.scarab with
        key := c.special 21, thr := (c.special 22).extractLsb' 0 32, n := 0, sq := 0 } }
  if smax = 0 then
    (t.modCoreAt e fun k =>
      let c := k.afterBatch 0 (FFmt.inf .fp32) (.fin false 0 0)
      { c with scarab := { c.scarab with reason := 3 } }).setJob e { j with start := some s.cycle, due := s.cycle + 8 }
  else t.setJob e { j with
    start := some s.cycle, due := 0, live := s.cycle + batchTime n (min 16 smax), draw := BitVec.ofNat 64 (s.share (clusterOf e)) }

/-- A tile whose buffer a batch finds outside the private scratchpad, under the share at the batch's start (R201, R247). -/
def Core.batchOut (k : Core) (j : TJob) (ts : List Nat) : Option Word :=
  (ts.map (k.tileWord · 0)).findSome? fun w0 =>
    if tBuf w0 + (tRows w0 - 1) * tPitch w0 + tRowBytes w0 ≤ 393216 - j.draw.toNat then none else some (BitVec.ofNat 64 (tBuf w0))

/-- The end of an SMM's loop: the division, and the reason (R236, R239). -/
def State.endSmm (s : State) (e : Nat) (j : TJob) (acc cnt reason : Nat) : State :=
  let n := jobN j.op.a
  (s.modCoreAt e fun k =>
    let c := k.divideRows acc (jobCrow j.op.a) n cnt
    { c with scarab := { c.scarab with reason := BitVec.ofNat 3 reason } }).setJob e
    { j with due := s.cycle + (n + 3) / 4 + 8 }

/-- SMM_BATCH: one batch of draws, VARX, and the stop test; a freeze stops the job after it, but not the job of a card (R236
to R238, R335). A tile that has left the private scratchpad ends it at the first draw (R201; log entry 46). -/
def execSmmBatch (s : State) : Out :=
  let e := s.me
  match s.core.jobs.find? fun j => j.start.isSome && j.due == 0 && (match j.op.instr with | .smm .. => true | _ => false) with
  | none => .next s
  | some j =>
    match j.op.instr with
    | .smm _ acc ta tb _ _ =>
      if j.live = 0 || s.cycle < j.live || (s.core.frozen && j.card.isNone) then .next s
      else
        let smax := (j.op.b.extractLsb' 0 24).toNat
        let n0 := s.core.scarab.n.toNat
        let d := min 16 (smax - n0)
        let drawn := s.modCoreAt e fun k => { k with scarab := { k.scarab with sctr := k.scarab.sctr + 1 } }
        match s.core.batchOut j [ta.toNat, tb.toNat], s.samples e j.op acc.toNat ta.toNat tb.toNat d with
        | some a, _ =>
          .next ((drawn.modCoreAt e fun k => { k with scarab := { k.scarab with reason := 4 } }).failJob e j .range a)
        | none, .error ((c, a), t) =>
          .next ((t.modCoreAt e fun k => { k with scarab := { k.scarab with reason := 4 } }).failJob e j c a)
        | none, .ok t =>
          let n := n0 + d
          let rows := jobN j.op.a
          let norm := t.core.normSquared acc.toNat (jobCrow j.op.a) rows
          let varx := varOf (t.core.finiteRows acc.toNat (jobCrow j.op.a) rows) n
            (decodeF .fp64 false t.core.scarab.sq.toNat) norm
          let u := t.modCore fun k => k.afterBatch n varx norm
          if stopTest n varx t.core.scarab.thr.toNat norm then .next (u.endSmm e j acc.toNat n 1)
          else if n = smax then .next (u.endSmm e j acc.toNat n 2)
          else .next (u.setJob e { j with
            live := if s.core.freezing && j.card.isNone then 0 else s.cycle + batchTime rows (min 16 (smax - n)),
            draw := BitVec.ofNat 64 (s.share (clusterOf e)) })
    | _ => .next s

/-! ## SMMV (R239) -/

/-- The start checks of SMMV. -/
def State.smmvCheck (s : State) (e : Nat) (a : Word) : Check :=
  firstOf [fails (tagOf a != 5) .spaceTag a, fails (a.extractLsb' 0 5 != 0) .align a,
    fails (393216 - s.share (clusterOf e) < offOf a + 32) .range a]

/-- The record of SMMV. -/
def Core.smmRecord (k : Core) : List Word :=
  [k.scarab.reason.setWidth 64 <<< 56 ||| (k.special 24 &&& 0xFFFFFF), k.special 23 &&& 0xFFFFFFFF, k.scarab.sq,
    k.scarab.cnrm]

/-! ## A job starts (R209, R221 to R226, R232 to R239) -/

/-- The start checks of any job. -/
def State.jobCheck (s : State) (e : Nat) (j : TJob) : Check :=
  match j.op.instr with
  | .normk _ t _ sideB _ => s.normCheck e t.toNat j.op.a sideB
  | .aliasTab .. => fails (j.op.a.extractLsb' 13 51 != 0 || j.op.a == 0 || 4096 < j.op.a.toNat) .reservedField 0
  | .smm _ _ ta tb _ _ => s.smmCheck e j.op ta.toNat tb.toNat
  | .smmv .. => s.smmvCheck e j.op.a
  | _ => s.startCheck e j.op

/-- A started job that completes at a known cycle. -/
def State.runs (s : State) (e : Nat) (j : TJob) (len : Nat) : State :=
  s.setJob e { j with start := some s.cycle, due := s.cycle + len }

/-- A job whose checks have passed starts. -/
def State.launchJob (s : State) (e : Nat) (j : TJob) : State :=
  let n := jobN j.op.a
  match j.op.instr with
  | .tzero _ acc _ => (s.modCoreAt e fun k => k.zeroRows acc.toNat (jobCrow j.op.a) n).runs e j ((n + 3) / 4)
  | .wload _ t _ => (s.loadPlane e t.toNat j.op.a).runs e j 64
  | .wswap _ => (s.modCoreAt e fun k => { k with active := !k.active }).runs e j 1
  | .mma .. | .mmas .. => s.setJob e { j with start := some s.cycle, due := 0 }
  | .tdrain _ t acc _ rm sat clr => (s.drainTile e j t.toNat acc.toNat rm sat clr).runs e j (n + 8)
  | .normk _ t _ sideB clr =>
    match s.normk e t.toNat j.op.a sideB clr with
    | .error (c, a) => s.failJob e j c a
    | .ok (u, occ) => u.runs e j (occ + 8)
  | .aliasTab .. =>
    let kn := j.op.a.toNat
    match (s.coreAt e).scarab.buildTable kn with
    | none => (s.modCoreAt e fun k => { k with scarab := { k.scarab with valid := false } }).failJob e j .sampleTable 0
    | some z => (s.modCoreAt e fun k => { k with scarab := z }).runs e j (2 * kn + 32)
  | .seed .. =>
    (s.modCoreAt e fun k =>
      let c := k.setSpecial 21 j.op.a
      { c with scarab := { c.scarab with rctr := 0, sctr := 0 } }).runs e j 1
  | .smm _ acc .. => s.beginSmm e j acc.toNat
  | .smmv .. =>
    (s.enginePut e 1 ((List.range 32).map fun i => spadKey e (offOf j.op.a + i)) (wordsBytes (s.coreAt e).smmRecord)).runs
      e j 2
  | _ => s

/-- The core's own gated stores to what a job reads are performed first (R298), all of them if it writes memory (R138). -/
def State.beforeJob (s : State) (e : Nat) (j : TJob) : State :=
  if !((s.coreAt e).jobWrites j).isEmpty then s.jobCommit (s.gateCore e j) j.own
  else if (s.coreAt e).gate.isEmpty then s
  else s.flushGate e (((s.coreAt e).jobReads j).flatMap fun r => (List.range r.len).map fun i => spadKey e (r.off + i))

/-- A job starts: its checks, then its effect (R209). -/
def State.startJob (s : State) (e : Nat) (j : TJob) : State :=
  match s.jobCheck e j with
  | some (c, a) => s.failJob e j c a
  | none => (s.beforeJob e j).launchJob e j

/-- The jobs that may start in this cycle, in issue order (R209). -/
def State.startJobs (s : State) (e : Nat) : Nat → State
  | 0 => s
  | fuel + 1 =>
    match (s.coreAt e).jobs.find? fun j => !j.control && s.mayStart e j with
    | none => s
    | some j => (s.startJob e j).startJobs e fuel

/-- Whether a job occupies the array in the present cycle (R210): not one that a freeze has stopped (R212). -/
def Core.occupies (k : Core) (now : Nat) (j : TJob) : Bool :=
  jobPath j.op.instr == some .array && j.start.isSome && !(k.freezing && j.card.isNone && j.stopped) && !j.leaves.any (· ≤ now)

/-- The array occupancy of the cycle counted (R433). -/
def State.countArray (s : State) : State :=
  s.countAt s.me 12 (if s.core.jobs.any (s.core.occupies s.cycle) then 1 else 0)

/-- TENSOR_JOB_START (R208, R209). -/
def execTensorJobStart (s : State) : Out :=
  match s.core.run with
  | .draining _ | .frozen _ => .next s.countArray
  | .running | .idle _ => .next (s.startJobs s.me (s.core.jobs.length + 1)).countArray

/-- Whether a started job completes now (R210). -/
def TJob.completes (now : Nat) (j : TJob) : Bool :=
  match j.start with
  | none => false
  | some c =>
    j.fill.isEmpty &&
      if (mmaOf j.op.instr).isSome then jobN j.op.a ≤ j.rows && c + j.live + 96 ≤ now else j.due != 0 && j.due ≤ now

/-- TENSOR_JOB_COMPLETE: a drained tile is READY, and the barrier goes down (R202, R210). -/
def execTensorJobComplete (id : Nat) (s : State) : Out :=
  match s.core.jobs.find? fun j => j.id == id && j.completes s.cycle with
  | none => .next s
  | some j =>
    let t := match j.op.instr with
      | .tdrain _ t .. => s.modCore fun k => k.setTileState t.toNat 2
      | _ => s
    .next (t.endJob s.me j)

end Sys2Proof.Machine
end

