-- ==== Sys2Proof/Machine/Copy.lean ====
section
/-! DEFINITION. The copy/fabric engine: copy queues, payload in pieces, completion stamps, job cards (R333 to R351). -/

namespace Sys2Proof.Machine

/-! ## Issue (R339, R340, R345) -/

/-- The checks of R345 on source and destination tags. -/
def copyTags (a b : Word) : Check :=
  firstOf [fails (tagOf a == 6 || 8 ≤ tagOf a) .spaceTag a, fails (tagOf b == 2) .decodedViewWrite b,
    fails (tagOf b == 6 || 8 ≤ tagOf b) .spaceTag b]

/-- The stamp set-up of R340: the barrier's expected value rises and gives V; SA is zero for no stamp. -/
def Core.stampUp (k : Core) (cb : BitVec 3) : Core × Word × Word :=
  let b := k.cbOf cb.toNat
  if b.addr = 0 then (k, 0, 0)
  else ({ k with cb := Store.set Cb.none k.cb cb.toNat { b with exp := b.exp + 1 } }, b.addr, b.exp + 1)

/-- An entry is taken of a copy queue, with its stamp and its barrier (R336, R340). -/
def State.enterCopy (s : State) (q : BitVec 2) (cb : BitVec 3) (d a b : Word) (blk : List Word) : State :=
  s.modCore fun k =>
    let (k1, sa, v) := k.stampUp cb
    let c : CopyEntry :=
      { id := k.nextId, op := { k.cur with latched := true, d := d, a := a, b := b }, own := k.owner, q := q, cb := cb, sa := sa,
        v := v, stage := .queued, row := 0, pos := 0, buf := [], share := 0, failed := false, blk := blk, card := none }
    { k1.barUp k.cur.bar with copies := k1.copies ++ [c], nextId := k1.nextId + 1 }

/-- A checked copy enters, or its slot faults. -/
def State.tryCopy (s : State) (q : BitVec 2) (cb : BitVec 3) (d a b : Word) (chk : Check) : Out :=
  match chk with
  | some (c, x) => s.fail c x
  | none => .next (s.enterCopy q cb d a b [])

/-- CPY (R346). -/
def execCpy (c : Ctl) (d a b : IOp) (q : BitVec 2) (cb : BitVec 3) (s : State) : Out :=
  s.scalarSlot c [d, a, b] [] fun t =>
    t.tryCopy q cb (t.src .d d) (t.src .a a) (t.src .b b)
      (firstOf [fails ((t.src .d d).extractLsb' 32 32 != 0) .reservedField 0, copyTags (t.src .a a) (t.src .b b)])

/-- CPY.set (R346). -/
def execCpySet (c : Ctl) (a b : IOp) (_q : BitVec 2) (cb : BitVec 3) (s : State) : Out :=
  s.scalarSlot c [a, b] [] fun t =>
    let p := t.src .a a
    if p ≠ 0 ∧ !stampTag p then t.fail .spaceTag p
    else if p.extractLsb' 0 3 ≠ 0 then t.fail .align p
    else .next (t.modCore fun k => { k with cb := Store.set Cb.none k.cb cb.toNat { addr := p, exp := t.src .b b } })

/-- CPYT (R347). -/
def execCpyt (c : Ctl) (d a b : IOp) (q : BitVec 2) (cb : BitVec 3) (s : State) : Out :=
  s.scalarSlot c [d, a, b] [] fun t =>
    t.tryCopy q cb (t.src .d d) (t.src .a a) (t.src .b b) (copyTags (t.src .a a) (t.src .b b))

/-- The checks of a pointer that a walker or a list reader takes. -/
def listPointer (a : Word) (unit : Nat) : Check :=
  firstOf [fails (tagOf a != 0 && tagOf a != 5 && tagOf a != 7) .spaceTag a, fails (a.toNat % unit != 0) .align a]

/-- CPYL (R348). -/
def execCpyl (c : Ctl) (a : IOp) (q : BitVec 2) (cb : BitVec 3) (s : State) : Out :=
  s.scalarSlot c [a] [] fun t => t.tryCopy q cb 0 (t.src .a a) 0 (listPointer (t.src .a a) 32)

/-- COLL (R358). -/
def execColl (c : Ctl) (a : IOp) (q : BitVec 2) (cb : BitVec 3) (s : State) : Out :=
  s.scalarSlot c [a] [] fun t => t.tryCopy q cb 0 (t.src .a a) 0 (listPointer (t.src .a a) 64)

/-- SEND, memory form (R351). -/
def execSend (c : Ctl) (d a b : IOp) (q : BitVec 2) (cb : BitVec 3) (s : State) : Out :=
  s.scalarSlot c [d, a, b] [] fun t =>
    let x := t.src .b b
    t.tryCopy q cb (t.src .d d) (t.src .a a) x
      (firstOf [fails ((t.src .d d).extractLsb' 32 32 != 0) .reservedField 0, copyTags (t.src .a a) x,
        fails (tagOf x != 3) .spaceTag x, fails (!t.reachable (offOf x / 2 ^ 52)) .remoteUnreachable x])

/-- SEND.rq (R351). -/
def execSendRq (c : Ctl) (d a b : IOp) (q : BitVec 2) (cb : BitVec 3) (s : State) : Out :=
  s.scalarSlot c [d, a, b] [] fun t =>
    let w := t.src .d d
    let x := t.src .b b
    t.tryCopy q cb w (t.src .a a) x
      (firstOf [fails (w.extractLsb' 32 32 != 0 || w.toNat % 8 != 0 || w == 0 || 2048 < w.toNat) .reservedField 0,
        copyTags (t.src .a a) 0, fails (x.extractLsb' 16 48 != 0 || x.extractLsb' 6 2 != 0) .reservedField 0,
        fails (!t.reachable (x.extractLsb' 8 8).toNat) .remoteUnreachable x])

/-! ## The entries of a queue (R337, R338) -/

/-- An entry of core `e` changed. -/
def State.setCopy (s : State) (e : Nat) (c : CopyEntry) : State :=
  s.modCoreAt e fun k => { k with copies := k.copies.map fun x => if x.id = c.id then c else x }
/-- The head of a copy queue: what leads it has not left it. -/
def Core.copyHead (k : Core) (q : BitVec 2) : Option CopyEntry :=
  k.copies.find? fun c => c.q == q && (c.stage == .queued || c.stage == .active)
/-- The core whose local spaces an entry's pointers name: that of the issuing task (log entry 20). -/
def State.localCore (s : State) (e : Nat) (card : Option Nat) : Nat :=
  match card.bind (s.cardOf e) with
  | some x => x.core
  | none => e
/-- A copy ends with a fault: what has been moved stays, nothing more of it is sent, and its stamp tells (R136, R341). -/
def State.failCopy (s : State) (e : Nat) (c : CopyEntry) (f : FCode) (a : Word) : State :=
  let t := (s.modPkg fun p => p.cutOff fun x => x.core == e && x.copyId == c.id).setCopy e
    { c with stage := .performed, failed := true }
  match c.card with
  | none => t.opFault e c.own c.op f a
  | some id => t.failCard e id f a
/-- An entry's payload has been performed. -/
def State.copyDone (s : State) (e : Nat) (c : CopyEntry) : State := s.setCopy e { c with stage := .performed }

/-- The run of bytes that an entry copies next: source, destination, length; a list entry's words stand in `blk`. -/
def CopyEntry.span (c : CopyEntry) : Word × Word × Nat :=
  match c.op.instr with
  | .cpyt .. =>
    let (_, rb, ss, ds) := cpytShape c.op.d
    (addOffset c.op.a (BitVec.ofInt 64 (c.row * ss)), addOffset c.op.b (BitVec.ofInt 64 (c.row * ds)), rb)
  | .cpyl .. => (c.blk.getD 0 0, c.blk.getD 1 0, ((c.blk.getD 2 0).extractLsb' 0 32).toNat)
  | _ => (c.op.a, c.op.b, (c.op.d.extractLsb' 0 32).toNat)

/-- What reading bytes for an engine answers. -/
inductive Got8 where
  | bytes (bs : List Byte)
  | fail (c : FCode) (a : Word)
  | wait

/-- `n` bytes at a pointer as an engine of core `e` reads them. -/
def State.engineBytes (s : State) (e : Nat) (p : Word) (n : Nat) : Got8 × State :=
  match s.engineKeys e .read (n / 4096 + 2) p n with
  | .fail c a => (.fail c a, s)
  | .wait _ => (.wait, s)
  | .keys ks =>
    match s.engineFetch e ks with
    | (.ok bs, t) => (.bytes bs, t)
    | (.error (c, a), t) => (.fail c (BitVec.ofNat 64 a), t)

/-- The source as it stands when a run starts, up to the first place that faults; none while a page of it is not present
(R140, R346). -/
def State.snapshot (s : State) (e : Nat) (p : Word) (len : Nat) : Nat → List Byte → Option (List Byte) × State
  | 0, acc => (some acc, s)
  | fuel + 1, acc =>
    if len ≤ acc.length then (some acc, s)
    else
      match s.engineBytes e (addOffset p (BitVec.ofNat 64 acc.length)) (min 4096 (len - acc.length)) with
      | (.bytes bs, t) => t.snapshot e p len fuel (acc ++ bs)
      | (.fail .., t) => (some acc, t)
      | (.wait, t) => (none, t)

/-- An entry whose run starts reads its source first, and does not start while a page of it is not present. -/
def State.beginSpan (s : State) (e : Nat) (c : CopyEntry) : Option CopyEntry × State :=
  let (p, _, n) := c.span
  let l := s.localCore e c.card
  let (bs, t) := s.snapshot l p n (n / 4096 + 1) []
  (bs.map fun b => { c with stage := .active, pos := 0, buf := b, share := s.share (clusterOf l) }, t)

/-- An entry begins its run and moves from now on, or stays as it is. -/
def State.enterSpan (s : State) (e : Nat) (c : CopyEntry) : State :=
  match s.beginSpan e c with
  | (some d, t) => t.setCopy e d
  | (none, t) => t

/-- The mark of a row whose source has not been read: no share is so large. -/
def rowUnread : Nat := 2 ^ 20

/-- The fault of the entry of a list that its words show (R348). -/
def listFault (row : Nat) (w : List Word) (at_ : Word) : Check :=
  firstOf [fails ((w.getD 2 0).extractLsb' 32 32 != 0 || (w.getD 3 0).extractLsb' 2 62 != 0
      || (row == 65535 && !(w.getD 3 0).getLsbD 0)) .reservedField at_,
    copyTags (w.getD 0 0) (w.getD 1 0)]

/-- A list entry is read as the engine reaches it. -/
def State.nextEntry (s : State) (e : Nat) (c : CopyEntry) : State :=
  let a := addOffset c.op.a (BitVec.ofNat 64 (32 * c.row))
  match s.engineBytes (s.localCore e c.card) a 32 with
  | (.wait, t) => t
  | (.fail f x, t) => t.failCopy e c f x
  | (.bytes bs, t) =>
    let w := (List.range 4).map fun i => BitVec.ofNat 64 (natOf (bs.drop (8 * i) |>.take 8))
    match listFault c.row w a with
    | some (f, x) => t.failCopy e c f x
    | none => t.enterSpan e { c with blk := w }

/-- What follows a run that is over. -/
def State.spanDone (s : State) (e : Nat) (c : CopyEntry) : State :=
  match c.op.instr with
  | .cpyt .. =>
    if c.row + 1 < (cpytShape c.op.d).1 then s.setCopy e { c with row := c.row + 1, pos := 0, buf := [], share := rowUnread }
    else s.copyDone e c
  | .cpyl .. =>
    if (c.blk.getD 3 0).getLsbD 0 then s.copyDone e c
    else s.setCopy e { c with row := c.row + 1, pos := 0, buf := [], blk := [] }
  | _ => s.copyDone e c

/-- The source bytes of the next piece: as they were when the run started, or, where CLSHARE has moved the space they lie
in since then, as the new share maps them (R247, R346). -/
def State.pieceBytes (s : State) (l : Nat) (p : Word) (c : CopyEntry) (n : Nat) : Got8 × State :=
  let moved := (tagOf p == 4 || tagOf p == 5) && s.share (clusterOf l) != c.share
  if moved || c.buf.length < c.pos + n then s.engineBytes l (addOffset p (BitVec.ofNat 64 c.pos)) n
  else (.bytes ((c.buf.drop c.pos).take n), s)

/-- One piece of at most 4 KiB is moved, or its fault is met (R337, R346); a row of a CPYT that has not been read begins
(R347). -/
def State.movePiece (s : State) (e : Nat) (c : CopyEntry) : State :=
  let (p, q, len) := c.span
  let n := min 4096 (len - c.pos)
  let l := s.localCore e c.card
  if c.share = rowUnread then s.enterSpan e c
  else
    match s.pieceBytes l p c n with
    | (.fail f a, t) => t.failCopy e c f a
    | (.wait, t) => t
    | (.bytes bs, t) =>
      match t.engineKeys l .write (n / 4096 + 2) (addOffset q (BitVec.ofNat 64 c.pos)) n with
      | .fail f a => t.failCopy e c f a
      | .wait _ => t
      | .keys ks =>
        let u := (t.enginePut l 1 ks bs).countAt l 15 ((n + 63) / 64)
        let d := { c with pos := c.pos + n }
        if d.pos < len then u.setCopy e d else u.spanDone e d

/-- The place of a receive queue of this package: die × 64 + queue (R350). -/
def rqPlace (x : Word) : Nat := (x.extractLsb' 8 8).toNat % 4 * 64 + (x.extractLsb' 0 6).toNat
/-- Entries pushed into a receive queue together (R350). -/
def State.pushRq (s : State) (q : Nat) (bs : List Byte) : State :=
  s.modPkg fun p =>
    let xs := (List.range (bs.length / 8)).map fun i =>
      ({ val := BitVec.ofNat 64 (natOf ((bs.drop (8 * i)).take 8)), at_ := s.cycle, src := 0 } : QEntry)
    { p with recvq := Store.set [] p.recvq q (Store.get [] p.recvq q ++ xs) }
/-- Whether a receive queue has room for some bytes. -/
def State.rqRoom (s : State) (q n : Nat) : Bool := (Store.get [] s.pkg.recvq q).length + n / 8 ≤ 256

/-- A SEND.rq to the own package is performed once the queue has room (R350, R351). -/
def State.moveRq (s : State) (e : Nat) (c : CopyEntry) : State :=
  let n := (c.op.d.extractLsb' 0 32).toNat
  match s.engineBytes e c.op.a n with
  | (.fail f a, t) => t.failCopy e c f a
  | (.wait, t) => t
  | (.bytes bs, t) =>
    if t.rqRoom (rqPlace c.op.b) n then ((t.pushRq (rqPlace c.op.b) bs).countAt e 15 ((n + 63) / 64)).copyDone e c else t

/-- The node that a SEND names, if it is one of another package. -/
def State.outbound (s : State) (c : CopyEntry) : Option Nat :=
  let n := match c.op.instr with
    | .send .. => some (offOf c.op.b / 2 ^ 52)
    | .sendRq .. => some (c.op.b.extractLsb' 8 8).toNat
    | _ => none
  n.filter fun x => !s.ownNode x

/-- Whether the engine moves an entry's pieces itself. -/
def State.moves (s : State) (c : CopyEntry) : Bool :=
  c.stage == .active &&
    match c.op.instr with
    | .cpy .. | .cpyt .. | .cpyl .. => true
    | .send .. | .sendRq .. => (s.outbound c).isNone
    | _ => false

/-- The next piece of an active entry. -/
def State.pieceOf (s : State) (e : Nat) (c : CopyEntry) : State :=
  match c.op.instr with
  | .sendRq .. => s.moveRq e c
  | .cpyl .. => if c.blk.isEmpty then s.nextEntry e c else s.movePiece e c
  | _ => s.movePiece e c

/-- SEND_QUEUE_ENTER: the head of a copy queue that names another package is handed to its send queue (R349). -/
def execSendQueueEnter (q : BitVec 2) (s : State) : Out :=
  let e := s.me
  match s.core.copyHead q with
  | none => .next s
  | some c =>
    match s.outbound c with
    | none => .next s
    | some n =>
      if c.stage != .active then .next s
      else if (Store.get SendQ.none s.pkg.sendq (n / 4)).descs.length ≥ 64 then .next s
      else
        let len := (c.op.d.extractLsb' 0 32).toNat
        if len = 0 then .next (s.copyDone e c)
        else
          match s.engineBytes e c.op.a len with
          | (.fail f a, t) => .next (t.failCopy e c f a)
          | (.wait, t) => .next t
          | (.bytes bs, t) =>
            let rq := match c.op.instr with
              | .sendRq .. => true
              | _ => false
            let d : Desc := { node := n, dest := c.op.b, rq := rq, bytes := bs, core := e, copyId := c.id, coll := none, red := false, data := [] }
            .next ((t.setCopy e { c with stage := .handed }).modPkg fun p =>
              let x := Store.get SendQ.none p.sendq (n / 4)
              { p with sendq := Store.set SendQ.none p.sendq (n / 4) { x with descs := x.descs ++ [d] } })

/-! ## Stamps (R340, R341, R315) -/

/-- What writing a stamp answers. -/
inductive Stamped where
  | done (s : State)
  | fault (c : FCode) (s : State)
  | wait

/-- A completion stamp: a post where the address is that of a waiting record of the node, else one 8-byte write. -/
def State.writeStamp (s : State) (e : Nat) (p v : Word) : Stamped :=
  if tagOf p = 0 && (s.waitingAt (dieOf e) (offOf p)).isSome then
    match s.post (dieOf e) (offOf p) with
    | (.done, t) | (.kept, t) => .done t
    | (.fault c, t) => .fault c t
    | (.absent, _) => .wait
  else
    match s.engineKeys e .write 2 p 8 with
    | .fail c _ => .fault c s
    | .wait _ => .wait
    | .keys ks => .done (s.enginePut e 3 ks (bytesOf 8 v.toNat))

/-- An entry leaves the engine, and its barrier goes down (R340). -/
def State.endCopy (s : State) (e : Nat) (c : CopyEntry) : State :=
  (s.modCoreAt e fun k => { k with copies := k.copies.filter fun x => x.id != c.id }).lowerBar e c.own c.op.bar

/-- The next entry whose stamp may be written: none of its queue or its barrier is before it (R340). -/
def Core.stampNext (k : Core) : Option CopyEntry :=
  k.copies.find? fun c => c.stage == .performed && c.card.isNone &&
    (c.sa == 0 || k.copies.all fun x => c.id ≤ x.id || x.sa == 0 || x.card.isSome || (x.q != c.q && x.cb != c.cb))

/-- The stamps of a core that are due, in their order. -/
def State.stamps (s : State) (e : Nat) : Nat → State
  | 0 => s
  | fuel + 1 =>
    match (s.coreAt e).stampNext with
    | none => s
    | some c =>
      if c.sa = 0 then (s.endCopy e c).stamps e fuel
      else
        let u := match c.op.instr with
          | .sendRq .. => s.jobCommit e c.own
          | _ => s
        match u.writeStamp e c.sa (if c.failed then 2 ^ 63 + c.v else c.v) with
        | .done t => (t.endCopy e c).stamps e fuel
        | .fault f t => ((t.endCopy e c).opFault e c.own c.op f c.sa).stamps e fuel
        | .wait => s

/-- STAMP_WRITE. -/
def execStampWrite (s : State) : Out := .next (s.stamps s.me (s.core.copies.length + 1))

/-! ## Job cards (R333 to R335) -/

/-- Whether a card's reserved or unused fields are set. -/
def cardReserved (w : List Word) : Bool :=
  let w0 := w.getD 0 0
  let rn := (w0.extractLsb' 58 2).toNat
  let wn := (w0.extractLsb' 56 2).toNat
  let unused := fun (used : Bool) (lo i : Nat) => !used && (w0.extractLsb' lo 14 != 0 || w.getD i 0 != 0)
  2 < (w0.extractLsb' 60 4).toNat || 2 < rn || 2 < wn || unused (1 ≤ rn) 42 4 || unused (2 ≤ rn) 28 5
    || unused (1 ≤ wn) 14 6 || unused (2 ≤ wn) 0 7

/-- Whether a card comes before another in its cluster's order: by the cycle in which its JOBQ performed, then by CORE
(R335). -/
def Card.before (y x : Card) : Bool :=
  y.at_ < x.at_ || (y.at_ == x.at_ && (y.core < x.core || (y.core == x.core && y.id < x.id)))

/-- A card put in its place in that order. -/
def insertCard (x : Card) : List Card → List Card
  | [] => [x]
  | y :: ys => if x.before y then x :: y :: ys else y :: insertCard x ys

/-- JOBQ: the gate is committed, the card is read and enters the cluster's queue; while the card's page is not present it is held (R140, R335). -/
def execJobq (c : Ctl) (a : IOp) (s : State) : Out :=
  s.scalarSlot c [a] [] fun t =>
    let p := t.src .a a
    match listPointer p 64 with
    | some (f, x) => t.fail f x
    | none =>
      let t := t.commitGate t.me
      match t.access t.me p .read 64 0 false with
      | .fail f => t.fail f p
      | .absent => .next (t.hold { t.core.cur with latched := true, guard := 1, a := p, go := false })
      | .at_ l =>
        let u := t.keepLeaf t.me l
        let w := (List.range 8).map fun i => u.viewWord u.me (l.key + 8 * i)
        let u := u.touch u.me ((List.range 64).map (l.key + ·))
        if cardReserved w then u.fail .reservedField p
        else if (w.getD 2 0).extractLsb' 0 3 != 0 || ((List.range 4).any fun i => (w.getD (4 + i) 0).extractLsb' 0 6 != 0) then
          u.fail .align p
        else
          let k := u.core
          .next ((u.modCluster (clusterOf u.me) fun x =>
            let card : Card :=
              { id := x.nextCard, at_ := s.cycle, words := w, core := s.me,
                op := { k.cur with latched := true, a := p, room := k.nextId, fmode := u.fmode },
                own := k.owner, engine := none, pos := 0, failed := false }
            { x with cards := insertCard card x.cards, nextCard := x.nextCard + 1 }).modCore fun y =>
              { y.barUp k.cur.bar with nextId := y.nextId + 1 })

/-- The kind of a card. -/
def Card.kind (x : Card) : Nat := ((x.words.getD 0 0).extractLsb' 60 4).toNat

/-- Whether the edges of a card are met (R298, R335). -/
def State.cardReady (s : State) (k : Nat) (x : Card) : Bool :=
  ((s.clusterAt k).cards.all fun y => !y.before x || y.own.crew != x.own.crew
      || (!meetAny (x.regions false ++ x.regions true) (y.regions true) && !meetAny (x.regions true) (y.regions false)))
    && s.edgesMet x.core x.op.room (x.regions false) (x.regions true)

/-- The core whose engine takes a card: the lowest CORE whose engine is free (R335). -/
def State.freeEngine (s : State) (k kind : Nat) : Option Nat :=
  ((List.range 16).map fun j => k / 9 * 144 + k % 9 * 16 + j).find? fun e =>
    let c := s.coreAt e
    if kind = 1 then !c.owned && c.jobs.isEmpty && !(s.clusterAt k).cards.any (fun y => y.engine == some e && y.kind == 1)
    else c.copies.all fun x => x.stage == .performed || x.stage == .handed

/-- A copy or collective card becomes an entry of a copy queue (R335). -/
def State.cardCopy (s : State) (e : Nat) (x : Card) : State :=
  let cmd := x.words.getD 1 0
  let i : Instr := if x.kind = 0 then .cpyl plainCtl (.s 0) 0 0 else .coll plainCtl (.s 0) 0 0
  let t := s.setCard e { x with engine := some e }
  let t := t.modCoreAt e fun k => { k with
    nextId := k.nextId + 1,
    copies := k.copies ++ [
      { id := k.nextId, op := { x.op with instr := i, a := cmd }, own := x.own, q := 0, cb := 0, sa := 0, v := 0, stage := .active,
        row := 0, pos := 0, buf := [], share := 0, failed := false, blk := [], card := some x.id }] }
  match listPointer cmd (if x.kind = 0 then 32 else 64) with
  | none => t
  | some (f, a) =>
    match (t.coreAt e).copies.find? fun c => c.card == some x.id with
    | some c => t.failCopy e c f a
    | none => t

/-- A tensor entry enters the chosen core's engine, as its slot would (R334). -/
def State.cardJob (s : State) (e : Nat) (x : Card) (i : Instr) (a b : Word) : State :=
  let k := s.coreAt e
  let o : SlotOp := { x.op with instr := i, a := a, b := b, c := k.special 21 }
  let j : TJob :=
    { id := k.nextId, op := o, own := x.own, start := none, due := s.cycle + 1, rows := 0, live := 0, draw := k.scarab.rctr,
      fill := [], card := some x.id }
  let t := (s.setCard e { x with pos := x.pos + 1 }).modCoreAt e fun c => { c with jobs := c.jobs ++ [j], nextId := c.nextId + 1 }
  match i with
  | .tdrain _ _ _ _ rm _ _ =>
    if modeOf rm o.fmode = .rsr then
      t.modCoreAt e fun c => { c with scarab := { c.scarab with rctr := c.scarab.rctr + BitVec.ofNat 64 (64 * jobN a) } }
    else t
  | .tbind _ u _ => t.modCoreAt e fun c => c.setPend u.toNat 0 false none a b o.bundle
  | .tfetch _ u _ _ auto => t.modCoreAt e fun c => c.setPend u.toNat 1 auto none a b o.bundle
  | .trel _ u => t.modCoreAt e fun c => c.setPend u.toNat 2 false none a b o.bundle
  | .tbindUnb _ u => t.modCoreAt e fun c => c.setPend u.toNat 3 false none a b o.bundle
  | _ => t

/-- Whether the chosen engine can take one more entry (R208). -/
def Core.takesJob (k : Core) (i : Instr) : Bool :=
  match jobPath i with
  | some .fetch => (jobTiles i).all fun t => !(k.tileWord t 3).getLsbD 63
  | _ => (k.jobs.filter fun j => j.start.isNone && jobPath j.op.instr != some .fetch).length < 3

/-- The end of a tensor list. -/
def listEnd : Nat := 2 ^ 20

/-- The slot word of a list entry is a job of R215 or R230 with its register fields zero. -/
def entryOk (w : List Word) : Option Instr :=
  let x := w.getD 0 0
  match decodeSlot 6 x with
  | .error _ => none
  | .ok i =>
    match ctlOf i with
    | none => none
    | some c =>
      if (jobPath i).isNone || c.rtag.isSome || c.sticky || c.stepV || c.guard != 0 || c.gneg || w.getD 3 0 != 0
          || x.extractLsb' 23 16 != 0 then none
      else some i

/-- The next entry of a tensor list is read and enters the engine (R334, R335). -/
def State.feedCard (s : State) (e : Nat) (x : Card) : State :=
  if x.failed || x.pos = listEnd then s
  else
    let a := addOffset (x.words.getD 1 0) (BitVec.ofNat 64 (32 * x.pos))
    match s.engineBytes x.core a 32 with
    | (.wait, t) => t
    | (.fail f p, t) => t.failCard e x.id f p
    | (.bytes bs, t) =>
      let w := (List.range 4).map fun i => BitVec.ofNat 64 (natOf (bs.drop (8 * i) |>.take 8))
      if w.getD 0 0 = 0 then t.setCard e { x with pos := listEnd }
      else if 4096 ≤ x.pos then t.failCard e x.id .reservedField a
      else
        match entryOk w with
        | none => t.failCard e x.id .reservedField a
        | some i => if (t.coreAt e).takesJob i then t.cardJob e x i (w.getD 1 0) (w.getD 2 0) else t

/-- JOB_CARD_START: a card starts on a free engine, with the gate committed before it if it writes memory, as every copy and
collective and every stamp does (R138); a tensor task's next entry enters its engine (R335). -/
def execJobCardStart (id : Nat) (s : State) : Out :=
  let k := clusterOf s.me
  match (s.clusterAt k).cards.find? fun x => x.id == id with
  | none => .next s
  | some x =>
    match x.engine with
    | some e => if x.kind = 1 then .next (s.feedCard e x) else .next s
    | none =>
      if !s.cardReady k x then .next s
      else
        match s.freeEngine k x.kind with
        | none => .next s
        | some e =>
          let s := if x.kind = 1 && (x.regions true).isEmpty && x.words.getD 2 0 = 0 then s else s.jobCommit x.core x.own
          if x.kind = 1 then
            match listPointer (x.words.getD 1 0) 32 with
            | some (f, a) => .next ((s.setCard e { x with engine := some e }).failCard e id f a)
            | none => .next (s.setCard e { x with engine := some e })
          else .next (s.cardCopy e x)

/-- Whether a card's payload is over, and whether it failed. -/
def State.cardOver (s : State) (e : Nat) (x : Card) : Option Bool :=
  if x.kind = 1 then
    if ((s.coreAt e).jobs.any fun j => j.card == some x.id) || (!x.failed && x.pos ≠ listEnd) then none else some x.failed
  else
    match (s.coreAt e).copies.find? fun c => c.card == some x.id with
    | some c => if c.stage = .performed then some (c.failed || x.failed) else none
    | none => some x.failed

/-- The card leaves its queue, and the barrier of its JOBQ goes down. -/
def State.endCard (s : State) (e : Nat) (x : Card) : State :=
  ((s.modCluster (clusterOf e) fun k => { k with cards := k.cards.filter fun y => y.id != x.id }).modCoreAt e fun c =>
    { c with copies := c.copies.filter fun y => y.card != some x.id }).lowerBar x.core x.own x.op.bar

/-- JOB_CARD_COMPLETE: the stamp follows the payload, then the barrier goes down (R335, R341). -/
def execJobCardComplete (id : Nat) (s : State) : Out :=
  match (s.clusterAt (clusterOf s.me)).cards.find? fun x => x.id == id with
  | none => .next s
  | some x =>
    match x.engine with
    | none => .next s
    | some e =>
      match s.cardOver e x with
      | none => .next s
      | some failed =>
        let p := x.words.getD 2 0
        if p = 0 then .next (s.endCard e x)
        else
          match s.writeStamp x.core p (if failed then 2 ^ 63 + x.words.getD 3 0 else x.words.getD 3 0) with
          | .done t => .next (t.endCard e x)
          | .fault c t => .next ((t.endCard e x).opFault x.core x.own x.op c p)
          | .wait => .next s

end Sys2Proof.Machine
end

