-- ==== Sys2Proof/Machine/KvTables.lean ====
section
/-! DEFINITION. A die's page pool, speculative windows and prefix table (R403 to R424). -/

namespace Sys2Proof.Machine

/-! ## Issue (R409) -/

/-- STEP and SPECW as an operation latches them at issue (R410, R429). -/
def Core.latchWindow (k : Core) : List Word := [k.special 13 &&& 0xFFFF, k.special 14]

/-- An operation of the die's tables is in flight: the gate is committed, its destination reserved (R409). -/
def State.startTable (s : State) (d : Option IOp) (x a b c : Word) (locs : List (Nat × Word × Loc)) (blk : List Word) : State :=
  let t := s.commitGate s.me
  let vas := locs.map (·.2.1)
  let keys := locs.map fun x => (x.1, x.2.2.key)
  match d with
  | none =>
    let p := t.newPend x a b c
    t.startPend { p with vas := vas, keys := keys, locs := locs, blk := blk }
  | some r =>
    let (w, u) := t.wrI r 0
    let p := u.newPend x a b c
    u.startPend { p with dest := [w], vas := vas, keys := keys, locs := locs, blk := blk }

/-- Whether a draft operation has no window for its draft (R410, R411). -/
def noDraft (w : Word) (spec : Bool) (draft : BitVec 4) : Bool := spec && (!w.getLsbD 8 || (w.extractLsb' 4 4).toNat < draft.toNat)

/-- KVST (R410). -/
def execKvst (c : Ctl) (d : IOp) (a b : VOp) (e : IOp) (spec : Bool) (draft : BitVec 4) (s : State) : Out :=
  s.scalarSlot c [d, e] [] fun t =>
    let x := t.src .d d
    let p := t.src .c e
    let w := t.core.special 14
    if x.extractLsb' 24 40 ≠ 0 then t.fail .reservedField 0
    else if 2 ^ 24 ≤ p.toNat then t.fail .positionRange 0
    else if noDraft w spec draft then t.fail .specWindow 0
    else
      let va := t.srcV .a a
      let vb := t.srcV .b b
      let u := t.commitGate t.me
      let q := u.newPend x 0 0 p
      .next (u.startPend { q with op := { q.op with va := va, vb := vb }, blk := u.core.latchWindow })

/-- KALLOC (R411). -/
def execKalloc (c : Ctl) (d : IOp) (spec : Bool) (draft : BitVec 4) (s : State) : Out :=
  s.scalarSlot c [] [d] fun t =>
    if noDraft (t.core.special 14) spec draft then t.fail .specWindow 0
    else .next (t.startTable (some d) 0 0 0 0 [] t.core.latchWindow)

/-- KFREE (R412). -/
def execKfree (c : Ctl) (a : IOp) (s : State) : Out :=
  s.scalarSlot c [a] [] fun t => .next (t.startTable none 0 (t.src .a a) 0 0 [] [])

/-- A token of PFXH mixed in (R419). -/
def hashToken (h : Word) (i tok : Nat) : Word :=
  mix64 (h ^^^ (0x9E3779B97F4A7C15 * BitVec.ofNat 64 (2 ^ 36 + 2 ^ 32 * i + tok)))
/-- The chained hash of R419. -/
def hashBlock (h : Word) (toks : List Nat) : Word :=
  let x := (toks.zip (List.range 16)).foldl (fun a t => hashToken a t.2 t.1) h
  if x = 0 then 1 else x

/-- The places of 64-byte pieces from a pointer upwards, checked as one access (R257, R263). -/
def State.pieces (s : State) (p : Word) (kind : AccKind) (n unit : Nat) : Got :=
  s.lanesAt kind unit false (fun _ => none) ((List.range n).map fun i => (0, addOffset p (BitVec.ofNat 64 (unit * i))))

/-- PFXH (R419). -/
def execPfxh (c : Ctl) (d a b : IOp) (s : State) : Out :=
  s.scalarSlot c [a, b] [d] fun t =>
    let p := t.src .b b
    match listPointer p 64 with
    | some (f, x) => t.fail f x
    | none =>
      match t.pieces p .read 1 64 with
      | .restart x => t.restartAt x
      | .fail f x => t.fail f x
      | .ok ls =>
        let key := match ls with
          | x :: _ => x.2.2.key
          | [] => 0
        let toks := (List.range 16).map fun i => natOf ((List.range 4).map fun j => t.view t.me (key + 4 * i + j))
        let u := (t.touch t.me ((List.range 64).map (key + ·))).keepLeaves ls
        .next (u.startTable (some d) 0 (t.src .a a) p 0 [] [hashBlock (t.src .a a) toks])

/-- PFXL (R420). -/
def execPfxl (c : Ctl) (d a b : IOp) (_pin : Bool) (s : State) : Out :=
  s.scalarSlot c [a, b] [d] fun t =>
    let p := t.src .a a
    let n := (t.src .b b).toNat
    match listPointer p 16 with
    | some (f, x) => t.fail f x
    | none =>
      if n = 0 ∨ 64 < n then t.fail .reservedField 0
      else
        match t.pieces p .rw n 16 with
        | .restart x => t.restartAt x
        | .fail f x => t.fail f x
        | .ok ls =>
          .next ((t.keepLeaves ls).startTable (some d) 0 p (t.src .b b) 0 ls [])

/-- PFXI (R421). -/
def execPfxi (c : Ctl) (d a b : IOp) (s : State) : Out :=
  s.scalarSlot c [a, b] [d] fun t => .next (t.startTable (some d) 0 (t.src .a a) (t.src .b b) 0 [] [])

/-- PFXP (R422). -/
def execPfxp (c : Ctl) (d a : IOp) (_op : PfxOp) (s : State) : Out :=
  s.scalarSlot c [a] [d] fun t => .next (t.startTable (some d) 0 (t.src .a a) 0 0 [] [])

/-- The reserved bits and ranges of SPECB's descriptor (R415). -/
def descriptorBad (w : List Word) : Bool :=
  let w0 := w.getD 0 0
  let n := (w0.extractLsb' 0 3).toNat
  w0.extractLsb' 3 61 != 0 || 4 < n || ((List.range 4).any fun r =>
    let base := w.getD (1 + 2 * r) 0
    let x := w.getD (2 + 2 * r) 0
    let stride := (x.extractLsb' 32 32).toNat
    let len := (x.extractLsb' 0 32).toNat
    if n ≤ r then base != 0 || x != 0
    else !(tagOf base == 0 || tagOf base == 4 || tagOf base == 5 || tagOf base == 7) || base.toNat % 8 != 0
      || stride % 8 != 0 || len % 8 != 0 || len < 8 || stride < len)
    || (List.range 7).any fun i => w.getD (9 + i) 0 != 0

/-- SPECB (R415). -/
def execSpecb (c : Ctl) (d a b : IOp) (s : State) : Out :=
  s.scalarSlot c [a, b] [d] fun t =>
    let p := t.src .a a
    match listPointer p 64 with
    | some (f, x) => t.fail f x
    | none =>
      match t.pieces p .read 2 64 with
      | .restart x => t.restartAt x
      | .fail f x => t.fail f x
      | .ok ls =>
        let w := ls.flatMap fun x => (List.range 8).map fun i => t.viewWord t.me (x.2.2.key + 8 * i)
        let u := (t.touch t.me (ls.flatMap fun x => (List.range 64).map (x.2.2.key + ·))).keepLeaves ls
        if (t.src .b b).extractLsb' 20 44 != 0 || descriptorBad w then u.fail .reservedField 0
        else if (u.core.special 14).getLsbD 8 then u.fail .specWindow 0
        else .next (u.startTable (some d) 0 p (t.src .b b) 0 [] w)

/-- SPECC (R416). -/
def execSpecc (c : Ctl) (a : IOp) (s : State) : Out :=
  s.scalarSlot c [a] [] fun t =>
    let n := t.src .a a
    let w := t.core.special 14
    if !w.getLsbD 8 || (w.extractLsb' 4 4).toNat + 1 < n.toNat then t.fail .specWindow 0
    else .next (((t.commitGate t.me).releaseLines t.me .die).startTable none 0 n 0 0 [] t.core.latchWindow)

/-- SPECA (R416). -/
def execSpeca (c : Ctl) (s : State) : Out :=
  s.scalarSlot c [] [] fun t =>
    if !(t.core.special 14).getLsbD 8 then t.fail .specWindow 0
    else .next (((t.commitGate t.me).releaseLines t.me .die).startTable none 0 0 0 0 [] t.core.latchWindow)

/-! ## At the die (R406) -/

/-- What an operation answers at the die. -/
inductive KvOut where
  | done (x : Word) (s : State)
  | fault (c : FCode) (a : Word) (s : State)
  | wait

/-- Window `w` of die `d`. -/
def State.window (s : State) (d w : Nat) : Option SpecWin := Store.get none (s.dieAt d).windows w
/-- The window that SPECW named at the issue of an operation, if it is still open and its task's (R414; log entry 54). -/
def State.ownWindow (s : State) (d : Nat) (p : Pend) : Option SpecWin :=
  (s.window d ((p.blk.getD 1 0).toNat % 8)).filter fun x => x.ownedBy s.me p.own.task
/-- Window `w` set. -/
def State.setWindow (s : State) (d w : Nat) (x : Option SpecWin) : State :=
  s.modDie d fun y => { y with windows := Store.set none y.windows w x }

/-- The sideband word of R404. -/
def sideband (pos : Nat) (spec : Bool) (win draft step : Nat) : Word :=
  BitVec.ofNat 64 (2 ^ 31 + 2 ^ 40 * (pos % 2 ^ 24) + 2 ^ 36 * (win % 8) + (if spec then 2 ^ 39 + 2 ^ 32 * (draft % 16) else 0) + step % 2 ^ 16)

/-- KVST at the die (R410). -/
def State.kvStore (s : State) (d : Nat) (p : Pend) (spec : Bool) (draft : Nat) : KvOut :=
  let x := p.op.d
  let id := (x.extractLsb' 0 20).toNat
  let k := (x.extractLsb' 20 4).toNat
  let w := (p.blk.getD 1 0).toNat % 8
  if s.kvPages d ≤ id ∨ !s.allocated d id then .fault .range 0 s
  else
    let sb := s.wordAt (s.sideKey d id k)
    let win := s.ownWindow d p
    if spec ∧ (sb.getLsbD 31 ∨ win.all (256 ≤ ·.writes.length)) then .fault .specWindow 0 s
    else if !spec ∧ sb.getLsbD 31 ∧ sb.getLsbD 39 then .fault .specWindow 0 s
    else
      let n := s.rowB d
      let step := if spec then (win.map (·.base.toNat)).getD 0 else (p.blk.getD 0 0).toNat
      let rows : List (Nat × List Byte) :=
        [(s.pageKey d id + 128 + k * n, bytesOf n p.op.va.toNat), (s.pageKey d id + 128 + (16 + k) * n, bytesOf n p.op.vb.toNat),
          (s.sideKey d id k, bytesOf 8 (sideband p.op.c.toNat spec w draft step).toNat)]
      let t := rows.foldl (fun (u : State) y =>
        (u.flushKeys u.me ((List.range y.2.length).map (y.1 + ·))).perform (some u.me) 1 y.1 y.2) s
      .done 0 (if spec then
          t.setWindow d w (win.map fun y => { y with writes := y.writes ++ [(id, k, draft)] }) else t)

/-- KALLOC at the die (R411). -/
def State.kvAlloc (s : State) (d : Nat) (p : Pend) (spec : Bool) (draft : Nat) : KvOut :=
  let w := (p.blk.getD 1 0).toNat % 8
  let win := s.ownWindow d p
  let free := if (s.dieAt d).kvcfg.getLsbD 0 then (s.dieAt d).kvFree else 0
  if spec ∧ win.all (16 ≤ ·.allocs.length) then .fault .specWindow 0 s
  else if free = 0 then .fault .kvPoolEmpty 0 s
  else
    let id := s.natAt (s.stackKey d (free - 1)) 4
    let t := (s.modDie d fun y => { y with kvFree := free - 1 }).setAllocated d id true
    let u := t.perform none 1 (t.pageKey d id) (List.replicate 128 0)
    .done (BitVec.ofNat 64 id) (if spec then
        u.setWindow d w (win.map fun y => { y with allocs := y.allocs ++ [(id, draft)] }) else u)

/-- Prefix entry `i` of die `d`. -/
def State.pfx (s : State) (d i : Nat) : PfxEntry := Store.get PfxEntry.none (s.dieAt d).prefixes i
/-- Prefix entry `i` set. -/
def State.setPfx (s : State) (d i : Nat) (x : PfxEntry) : State :=
  s.modDie d fun y => { y with prefixes := Store.set PfxEntry.none y.prefixes i x }
/-- VALID (R418). -/
def PfxEntry.valid (x : PfxEntry) : Bool := x.w1.getLsbD 63
/-- PARENT, where PV is set. -/
def PfxEntry.parent (x : PfxEntry) : Option Nat := if x.w1.getLsbD 62 then some (x.w1.extractLsb' 56 6).toNat else Option.none
/-- PAGE. -/
def PfxEntry.page (x : PfxEntry) : Nat := (x.w1.extractLsb' 32 20).toNat
/-- PIN. -/
def PfxEntry.pin (x : PfxEntry) : Nat := (x.w1.extractLsb' 0 16).toNat
/-- PIN set. -/
def PfxEntry.setPin (x : PfxEntry) (n : Nat) : PfxEntry := { x with w1 := insertField x.w1 (BitVec.ofNat 64 n) 0 16 }

/-- The ancestors of an entry, nearest first; `fuel` bounds the chain. -/
def State.ancestors (s : State) (d : Nat) : Nat → Nat → List Nat
  | 0, _ => []
  | fuel + 1, i =>
    match (s.pfx d i).parent with
    | some j => j :: s.ancestors d fuel j
    | none => []

/-- The valid entries of a die's table. -/
def State.validPfx (s : State) (d : Nat) : List Nat := (List.range 64).filter fun i => (s.pfx d i).valid
/-- Some entries with all their descendants. -/
def State.family (s : State) (d : Nat) (l : List Nat) : List Nat :=
  (s.validPfx d).filter fun i => l.contains i || (s.ancestors d 64 i).any l.contains

/-- Entries invalidated. -/
def State.dropPfx (s : State) (d : Nat) (l : List Nat) : State := l.foldl (fun t i => t.setPfx d i PfxEntry.none) s

/-- KFREE at the die (R412). -/
def State.kvFreeOp (s : State) (d : Nat) (a : Word) : KvOut :=
  let id := a.toNat
  if a.extractLsb' 20 44 ≠ 0 then .fault .reservedField 0 s
  else if s.kvPages d ≤ id ∨ !s.allocated d id then .fault .range 0 s
  else if (List.range 8).any fun w => (s.window d w).any fun y => y.allocs.any fun z => z.1 == id then .fault .specWindow 0 s
  else
    let naming := (s.validPfx d).filter fun i => (s.pfx d i).page == id
    let hit := s.family d naming
    if (hit.any fun i => (s.pfx d i).pin != 0) || (naming.any fun i => (s.ancestors d 64 i).any fun j => (s.pfx d j).pin != 0) then
      .fault .range 0 s
    else .done 0 ((s.dropPfx d hit).freePage d id)

/-- The entries that a list of hashes matches, in order (R420). -/
def State.matchPfx (s : State) (d : Nat) : Option Nat → List Word → List Nat
  | _, [] => []
  | prev, h :: hs =>
    match (s.validPfx d).find? fun i => (s.pfx d i).w0 == h && (s.pfx d i).parent == prev with
    | none => []
    | some i => i :: s.matchPfx d (some i) hs

/-- PFXL at the die (R420). -/
def State.pfxLookup (s : State) (d : Nat) (p : Pend) (pin : Bool) : KvOut :=
  let s := s.touch s.me (p.keys.flatMap fun x => (List.range 8).map (x.2 + ·))
  let m := s.matchPfx d none (p.keys.map fun x => s.viewWord s.me x.2)
  if pin && m.any fun i => (s.pfx d i).pin == 0xFFFF then .fault .range 0 s
  else
    let answers := (List.range p.keys.length).map fun j =>
      match m[j]? with
      | some i => BitVec.ofNat 64 (2 ^ 63 + 2 ^ 20 * i + (s.pfx d i).page)
      | none => 0
    let t := if pin then m.foldl (fun (u : State) i => u.setPfx d i ((u.pfx d i).setPin ((u.pfx d i).pin + 1))) s else s
    let u := (p.keys.zip answers).foldl (fun (v : State) x =>
      (v.flushKeys v.me ((List.range 8).map (x.1.2 + 8 + ·))).perform (some v.me) 1 (x.1.2 + 8) (bytesOf 8 x.2.toNat)) t
    .done (BitVec.ofNat 64 m.length) u

/-- PFXI at the die (R421). -/
def State.pfxInsert (s : State) (d : Nat) (a b : Word) : KvOut :=
  let page := (b.extractLsb' 0 20).toNat
  let parent := (b.extractLsb' 20 6).toNat
  if b.extractLsb' 27 37 ≠ 0 then .fault .reservedField 0 s
  else if a = 0 ∨ s.kvPages d ≤ page ∨ !s.allocated d page ∨ (b.getLsbD 26 ∧ !(s.pfx d parent).valid) then .fault .range 0 s
  else
    match (s.validPfx d).find? fun i => (s.pfx d i).w0 == a with
    | some i => .done (BitVec.ofNat 64 (2 ^ 63 + i)) s
    | none =>
      match (List.range 64).find? fun i => !(s.pfx d i).valid with
      | none => .fault .prefixTableFull 0 s
      | some i =>
        .done (BitVec.ofNat 64 i) (s.setPfx d i
          { w0 := a, w1 := BitVec.ofNat 64 (2 ^ 63 + (if b.getLsbD 26 then 2 ^ 62 else 0) + 2 ^ 56 * parent + 2 ^ 32 * page) })

/-- PFXP at the die (R422). -/
def State.pfxPin (s : State) (d : Nat) (a : Word) (op : PfxOp) : KvOut :=
  let i := a.toNat
  let x := s.pfx d i
  if a.extractLsb' 6 58 ≠ 0 then .fault .reservedField 0 s
  else if !x.valid then .fault .range 0 s
  else
    match op with
    | .pin =>
      if x.pin = 0xFFFF then .fault .range 0 s
      else .done (BitVec.ofNat 64 (x.pin + 1)) (s.setPfx d i (x.setPin (x.pin + 1)))
    | .unpin =>
      if x.pin = 0 then .fault .range 0 s
      else .done (BitVec.ofNat 64 (x.pin - 1)) (s.setPfx d i (x.setPin (x.pin - 1)))
    | .inv =>
      if (s.family d [i]).any fun j => (s.pfx d j).pin != 0 then .fault .range 0 s
      else .done 0 (s.dropPfx d (s.family d [i]))

/-- SPECB at the die (R415). -/
def State.specOpen (s : State) (d : Nat) (p : Pend) : KvOut :=
  match (List.range 8).find? fun w => (s.window d w).isNone with
  | none => .fault .specWindow 0 s
  | some w =>
    let nd := (p.op.b.extractLsb' 16 4).toNat
    let win : SpecWin :=
      { core := coreNo s.me, task := p.own.task, base := p.op.b.extractLsb' 0 16, ndraft := nd + 1,
        regions := (List.range ((p.blk.getD 0 0).extractLsb' 0 3).toNat).map fun r =>
          (p.blk.getD (1 + 2 * r) 0, ((p.blk.getD (2 + 2 * r) 0).extractLsb' 32 32).toNat,
            ((p.blk.getD (2 + 2 * r) 0).extractLsb' 0 32).toNat),
        allocs := [], writes := [] }
    if !s.core.owns p.own then .done (BitVec.ofNat 64 w) s
    else .done (BitVec.ofNat 64 w) ((s.setWindow d w (some win)).modCore fun k =>
      k.setSpecial 14 (BitVec.ofNat 64 (256 + nd * 16 + w)))

/-- The region copies of a commit checked in order, as bytes' places (R416). -/
def State.regionKeys (s : State) (n : Nat) : List (Word × Nat × Nat) → Except (Option (FCode × Word)) (List (List Nat × List Nat))
  | [] => .ok []
  | (base, stride, len) :: rs =>
    let src := addOffset base (BitVec.ofNat 64 (n * stride))
    match s.engineKeys s.me .read (len / 4096 + 2) src len, s.engineKeys s.me .write (len / 4096 + 2) base len with
    | .fail c _, _ => .error (some (c, src))
    | .wait _, _ => .error none
    | _, .fail c _ => .error (some (c, base))
    | _, .wait _ => .error none
    | .keys ks, .keys ws =>
      match s.regionKeys n rs with
      | .error x => .error x
      | .ok l => .ok ((ks, ws) :: l)

/-- The region copies of a commit made. -/
def State.copyRegions (s : State) : List (List Nat × List Nat) → State
  | [] => s
  | (ks, ws) :: l =>
    match s.engineFetch s.me ks with
    | (.ok bs, t) => (t.enginePut t.me 1 ws bs).copyRegions l
    | (.error _, t) => t.copyRegions l

/-- SPECC and SPECA at the die (R416); none of drafts for a discard. -/
def State.specClose (s : State) (d : Nat) (p : Pend) (commit : Option Nat) : KvOut :=
  let w := (p.blk.getD 1 0).toNat % 8
  match s.ownWindow d p with
  | none => .done 0 s
  | some win =>
    let shut := fun (copies : State → State) =>
      let u := s.closeWindow d w (commit.map fun n => (n, (p.blk.getD 0 0).toNat)) copies
      if u.core.owns p.own then u.modCore fun k => k.setSpecial 14 0 else u
    match commit with
    | none | some 0 => .done 0 (shut id)
    | some n =>
      match s.regionKeys n win.regions with
      | .error (some (c, a)) => .fault c a s
      | .error none => .wait
      | .ok l => .done 0 (shut fun t => t.copyRegions l)

/-- An operation of the die's tables at its place in the order of R406; none for another operation. -/
def State.tableOp (s : State) (p : Pend) : Option KvOut :=
  let d := dieOf s.me
  match p.op.instr with
  | .kvst _ _ _ _ _ spec draft => some (s.kvStore d p spec draft.toNat)
  | .kalloc _ _ spec draft => some (s.kvAlloc d p spec draft.toNat)
  | .kfree .. => some (s.kvFreeOp d p.op.a)
  | .pfxh .. => some (.done (p.blk.headD 0) s)
  | .pfxl _ _ _ _ pin => some (s.pfxLookup d p pin)
  | .pfxi .. => some (s.pfxInsert d p.op.a p.op.b)
  | .pfxp _ _ _ op => some (s.pfxPin d p.op.a op)
  | .specb .. => some (s.specOpen d p)
  | .specc .. => some (s.specClose d p (some p.op.a.toNat))
  | .speca _ => some (s.specClose d p none)
  | _ => none

/-- Whether an operation of the die's tables must still wait for the core's earlier work: the regions of a SPECC (R298), the
release of SPECC and SPECA (R302, R416). -/
def State.tableHeld (s : State) (p : Pend) : Bool :=
  s.core.relWaits p || match p.op.instr with
    | .specc .. => !s.edgesMet s.me p.id (s.speccRegions s.me p false) (s.speccRegions s.me p true)
    | _ => false

/-- Its performance and completion (R267, R406). -/
def State.completeTable (s : State) (p : Pend) : Option Out :=
  if s.cycle < p.due || s.heldAtHome p || s.tableHeld p then (s.tableOp p).map fun _ => .next s
  else (s.tableOp p).map fun
    | .done x t => .next (t.finishPend p (p.dest.map fun _ => x.setWidth 2048))
    | .fault c a t => .next (t.faultPend p c a)
    | .wait => .next (s.setPend { p with due := 4096 + s.cycle })

/-! ## KVLD (R407, R423, R424) -/

/-- KVLD (R423, R424). -/
def execKvld (c : Ctl) (_t : TIdx) (d a b : IOp) (q : BitVec 2) (cb : BitVec 3) (s : State) : Out :=
  s.scalarSlot c [d, a, b] [] fun u =>
    let x := u.src .d d
    let p := u.src .a a
    let y := u.src .b b
    let chk := firstOf [fails (x.extractLsb' 25 7 != 0 || x.extractLsb' 57 7 != 0 || y.extractLsb' 17 47 != 0) .reservedField 0,
      fails (2 ^ 24 < (x.extractLsb' 32 25).toNat || 2 ^ 24 < (x.extractLsb' 0 25).toNat) .positionRange 0, listPointer p 4]
    match chk with
    | some (f, v) => u.fail f v
    | none => .next (u.enterCopy q cb x p y [if u.core.cur.latched then u.core.cur.c else u.core.special 14])

/-- Whether a token is visible (R407). -/
def visible (sb specw : Word) (snap low len : Nat) : Bool :=
  let pos := (sb.extractLsb' 40 24).toNat
  sb.getLsbD 31 && (!sb.getLsbD 39 || (specw.getLsbD 8 && specw.extractLsb' 0 3 == sb.extractLsb' 36 3))
    && (sb.extractLsb' 0 16).toNat ≤ snap && low ≤ pos && pos < len

/-- Whether a KVLD at its queue's head may start (R209, R298, R424). -/
def State.kvldReady (s : State) (e : Nat) (c : CopyEntry) (t : Nat) : Bool :=
  let k := s.coreAt e
  (k.pend.all fun p => c.id < p.id || match p.op.instr with
    | .kvst .. => false
    | _ => true)
    && (k.jobs.all fun j => c.id < j.id || !(jobTiles j.op.instr).contains t)
    && (k.tileState t == 0 || k.tileState t == 2) && !k.freezing

/-- It starts: its checks, then FILLING (R424). -/
def State.kvldStart (s : State) (e : Nat) (c : CopyEntry) (t : Nat) : State :=
  let w0 := (s.coreAt e).tileWord t 0
  let chk := firstOf [fails (!(s.coreAt e).bound t) .tileUnbound 0,
    fails (tRows w0 % 16 != 0 || tRowBytes w0 != s.rowB (dieOf e)) .tileShape 0, s.rangeOk e t]
  match chk with
  | some (f, a) => s.failCopy e c f a
  | none => (s.modCoreAt e fun k => k.setTileState t 1).setCopy e { c with stage := .active }

/-- Its fill ends with a fault (R202). -/
def State.kvldFail (s : State) (e : Nat) (c : CopyEntry) (t : Nat) (f : FCode) (a : Word) : State :=
  (s.modCoreAt e fun k => ((k.setTileState t 0).setTileField t 0 62 1 0).setTileField t 0 61 1 0).failCopy e c f a

/-- One row, which is one token read of R406; a row of 16 begins with its page's list entry (R424). -/
def State.kvldRow (s : State) (e : Nat) (c : CopyEntry) (t : Nat) : State :=
  let d := dieOf e
  let w0 := (s.coreAt e).tileWord t 0
  let n := s.rowB d
  let a := addOffset c.op.a (BitVec.ofNat 64 (4 * (c.row / 16)))
  let got := if c.row % 16 = 0 then s.engineBytes e a 4 else (Got8.bytes (bytesOf 4 (c.blk.getD 1 0).toNat), s)
  match got with
  | (.fail f x, u) => u.kvldFail e c t f x
  | (.wait, u) => u
  | (.bytes bs, u) =>
    let id := natOf bs
    if !u.bufOk e w0 then u.kvldFail e c t .range (BitVec.ofNat 64 (tBuf w0))
    else if id ≠ 0xFFFFFFFF ∧ (u.kvPages d ≤ id ∨ !u.allocated d id) then u.kvldFail e c t .range 0
    else
      let sb := u.wordAt (u.sideKey d id (c.row % 16))
      let see := id != 0xFFFFFFFF && visible sb (c.blk.getD 0 0) (c.op.b.extractLsb' 0 16).toNat
        (c.op.d.extractLsb' 32 25).toNat (c.op.d.extractLsb' 0 25).toNat
      let src := u.pageKey d id + 128 + ((if c.op.b.getLsbD 16 then 16 else 0) + c.row % 16) * n
      let row := (List.range n).map fun i => if see then u.byteAt (src + i) else 0
      let v := (u.enginePut e 1 ((List.range n).map fun i => spadKey e (tBuf w0 + c.row * tPitch w0 + i)) row).countAt e 15
        ((n + 63) / 64)
      let x := { c with row := c.row + 1, blk := [c.blk.getD 0 0, BitVec.ofNat 64 id] }
      if x.row < tRows w0 then v.setCopy e x else (v.modCoreAt e fun k => k.filled t).copyDone e x

end Sys2Proof.Machine
end

