-- ==== Sys2Proof/Machine/Coll.lean ====
section
/-! DEFINITION. The collective walker: records, the walk, transfers, the combination of values, the status word and
the end of a collective (R352 to R361). -/

namespace Sys2Proof.Machine

/-! ## Combining values (R356, R383) -/

/-- The float format of a FMT code of a collective; none for INT32 (R352). -/
def collFloat (fmt : Nat) : Option FFmt :=
  match fmt with
  | 0 => some .fp32
  | 1 => some .fp16
  | 2 => some .bf16
  | 3 => some .e4m3
  | 4 => some .e5m2
  | _ => none

/-- A value in FP32, NaN canonical. -/
def toF32 (x : Ex) : Nat := roundF .fp32 .rne false false 0 x
/-- The exact value of an FP32 pattern. -/
def ofF32 (p : Nat) : Ex := decodeF .fp32 false p
/-- The larger of two values as VMAX takes it (R189). -/
def maxEx (x y : Ex) : Ex := if y.isNan then x else if x.isNan || x.lt true y then y else x

/-- The values combined in order, each step rounded to FP32 (R356). -/
def combineF32 (mx : Bool) : List Ex → Nat
  | [] => 0
  | x :: xs => xs.foldl (fun p y => toF32 (if mx then maxEx (ofF32 p) y else (ofF32 p).add false y)) (toF32 x)

/-- A finite value below 2^63 in fixed point with 64 fraction bits, the rest dropped towards zero (R356). -/
def fixedOf (x : Ex) : Option Int :=
  match x with
  | .fin n m e =>
    let k := if -64 ≤ e then m * 2 ^ (e + 64).toNat else m / 2 ^ (-64 - e).toNat
    if 2 ^ 127 ≤ k then none else some (if n then -(k : Int) else k)
  | .nan | .inf _ => none

/-- The exact sum of R356; none where a value has no fixed-point form. -/
def exactSum (xs : List Ex) : Option Ex :=
  if xs.any fun x => (fixedOf x).isNone then none
  else
    let t := (xs.filterMap fixedOf).sum
    some (.fin (t < 0) t.natAbs (-64))

/-- A 32-bit pattern as a signed number. -/
def int32 (p : Nat) : Int := (BitVec.ofNat 32 p).toInt

/-- The combination of some values of a collective: the destination's pattern in FMT first, then contributions, exact as
FP64 patterns or INT32 patterns, in ascending source node (R356, R357). -/
def combineElem (fmt op : Nat) (exact : Bool) (old : Nat) (xs : List Nat) : Nat :=
  match collFloat fmt with
  | none =>
    if op = 2 then xs.foldl (fun p y => if int32 p < int32 y then y else p) old
    else (old + xs.sum) % 2 ^ 32
  | some f =>
    let vs := decodeF f false old :: xs.map (decodeF .fp64 false)
    match if exact then exactSum vs else none with
    | some x => roundF f .rne false false 0 x
    | none => roundF f .rne false false 0 (ofF32 (combineF32 (op == 2) vs))

/-! ## Wire mode (R357) -/

/-- The elements in some bytes. -/
def elementsOf (size n : Nat) (bs : List Byte) : List Nat :=
  (List.range n).map fun i => natOf ((bs.drop (size * i)).take size)

/-- The scale exponent of a block: the smallest e from -127 with max |y| ≤ 6 × 2^e; none where there is none up
to 127. -/
def wireScale (ys : List Ex) : Option Int :=
  ((List.range 255).map fun (k : Nat) => (k : Int) - 127).find? fun e =>
    ys.all fun y => match y with
      | .fin _ m x => !(Ex.fin false 6 e).lt false (Ex.fin false m x)
      | .nan | .inf _ => false

/-- A block of 64 values encoded: its wire bytes and its new errors as FP32 (R357). -/
def wireBlock (xs : List Ex) (efb : List Nat) : List Byte × List Nat :=
  let ys := (xs.zip efb).map fun x => ofF32 (toF32 (x.1.add false (ofF32 x.2)))
  match wireScale ys with
  | none => (0xFF :: xs.flatMap fun x => bytesOf 4 (toF32 x), xs.map fun _ => 0)
  | some e =>
    let qs := ys.map fun y => roundF .fp4 .rne false false 0 (y.scale (-e))
    (BitVec.ofInt 8 (e + 127) :: (List.range 32).map fun i => BitVec.ofNat 8 (qs.getD (2 * i) 0 + 16 * qs.getD (2 * i + 1) 0),
     (ys.zip qs).map fun x => toF32 (x.1.add false ((decodeF .fp4 false x.2).scale e).neg))

/-- The blocks of a transfer encoded. -/
def wireEncode : Nat → List Ex → List Nat → List Byte × List Nat
  | 0, _, _ => ([], [])
  | n + 1, xs, efb =>
    let (b, f) := wireBlock (xs.take 64) (efb.take 64)
    let (bs, fs) := wireEncode n (xs.drop 64) (efb.drop 64)
    (b ++ bs, f ++ fs)

/-- The values that a receiver finds in the blocks of a transfer, exactly (R357). -/
def wireDecode : Nat → List Byte → List Ex
  | 0, _ => []
  | n + 1, bs =>
    let s := (bs.getD 0 0).toNat
    if s = 255 then (elementsOf 4 64 (bs.drop 1)).map ofF32 ++ wireDecode n (bs.drop 257)
    else
      ((List.range 64).map fun i =>
        let q := (bs.getD (1 + i / 2) 0).toNat / (if i % 2 = 0 then 1 else 16) % 16
        (decodeF .fp4 false q).scale ((s : Int) - 127)) ++ wireDecode n (bs.drop 33)

/-- What arrives at a receiver: values as FP64 patterns, which hold every one of them exactly, or INT32 patterns. -/
def received (r : List Word) (bs : List Byte) : List Nat :=
  if cWire r then (wireDecode (cCount r / 64) bs).map rne64
  else
    let es := elementsOf (cSize r) (cCount r) bs
    match collFloat (cFmt r) with
    | some f => es.map fun e => rne64 (decodeF f false e)
    | none => es

/-- What a copy transfer leaves at its target. -/
def copyResult (r : List Word) (bs : List Byte) : List Byte :=
  if cWire r then
    match collFloat (cFmt r) with
    | some f => (wireDecode (cCount r / 64) bs).flatMap fun x => bytesOf (cSize r) (roundF f .rne false false 0 x)
    | none => bs
  else bs

/-! ## Ends of a collective (R358 to R361) -/

/-- A collective of die `d` changed. -/
def State.setColl (s : State) (d : Nat) (c : Coll) : State :=
  s.modDie d fun x => { x with colls := x.colls.map fun y => if y.id = c.id then c else y }
/-- A collective of die `d` by its number. -/
def State.collOf (s : State) (d id : Nat) : Option Coll := (s.dieAt d).colls.find? fun c => c.id == id

/-- Whether transfer `t` is over for node `n`: sent and acknowledged, and applied where some node directs it here. -/
def collDone (mesh : Word) (n : Nat) (c : Coll) (t : Nat) : Bool :=
  t < c.emitted && !(c.unacked.any fun u => u.1 == t)
    && ((sourcesOf mesh c.rec_ n t).isEmpty || c.applied.contains t)
/-- BLOCK: the first transfer not completed (R359). -/
def collBlock (mesh : Word) (n : Nat) (c : Coll) : Nat :=
  ((List.range (cTotal c.rec_)).find? fun t => !collDone mesh n c t).getD (cTotal c.rec_)
/-- PHASE at a transfer (R359). -/
def collPhase (r : List Word) (t : Nat) : Nat :=
  (((cUsed r).reverse).find? fun l => (walkIndex r t).getD l 0 ≠ 0).getD 0

/-- The status word of R359. -/
def State.collStatus (s : State) (d : Nat) (c : Coll) (kind lost : Nat) : Word :=
  let b := collBlock s.mesh (s.nodeOf d) c
  BitVec.ofNat 64 (2 ^ 60 * kind + 2 ^ 58 * collPhase c.rec_ b + 2 ^ 50 * lost + b % 2 ^ 32)

/-- The core whose local spaces a collective's pointers name. -/
def State.collCore (s : State) (c : Coll) : Nat :=
  s.localCore c.core (((s.coreAt c.core).copies.find? fun x => x.id == c.copyId).bind (·.card))

/-- The pointer of a collective's record. -/
def State.collRecord (s : State) (c : Coll) : Word :=
  match (s.coreAt c.core).copies.find? fun x => x.id == c.copyId with
  | some y => y.op.a
  | none => 0

/-- The status word written at STAT, with the fault that it meets; none while STAT's page is not present (R140). -/
def State.writeCollStatus (s : State) (d : Nat) (c : Coll) (kind lost : Nat) : Option (Check × State) :=
  let p := c.rec_.getD 5 0
  if p.extractLsb' 0 3 ≠ 0 then some (some (.align, p), s)
  else
    match s.engineKeys (s.collCore c) .write 2 p 8 with
    | .fail f a => some (some (f, a), s)
    | .wait _ => none
    | .keys ks => some (none, s.enginePut (s.collCore c) 1 ks (bytesOf 8 (s.collStatus d c kind lost).toNat))

/-- A collective leaves the walker; what has arrived for it and is not applied is dropped. -/
def State.removeColl (s : State) (d : Nat) (c : Coll) : State :=
  s.modDie d fun x => { x with
    colls := x.colls.filter fun y => y.id != c.id,
    inbox := x.inbox.filter fun a => !(a.rec_ == c.rec_ && a.num == c.num) }

/-- The copy-queue entry of a collective ends, with a fault where one is given. -/
def State.endCollCopy (s : State) (c : Coll) (f : Check) : State :=
  match (s.coreAt c.core).copies.find? fun x => x.id == c.copyId with
  | none => s
  | some y =>
    match f with
    | none => s.copyDone c.core y
    | some (code, a) => s.failCopy c.core y code a

/-- A collective that is over writes its status word and leaves the walker; while STAT's page is not present it waits there
and does nothing else (R140, R358). -/
def State.closeColl (s : State) (d : Nat) (c : Coll) (kind lost : Nat) (f : Check) : State :=
  match s.writeCollStatus d c kind lost with
  | none => s.setColl d { c with ended := some (kind, lost, f) }
  | some (g, t) => (t.removeColl d c).endCollCopy c (f.or g)

/-- A collective ends by a fault or a lost member: nothing more of it is sent, its status word, its stamp as V + 2^63, its
fault (R360). -/
def State.failColl (s : State) (d : Nat) (c : Coll) (kind lost : Nat) (f : FCode) (a : Word) : State :=
  (s.modPkg fun p => p.cutOff fun x => match x.coll with
    | some (die, id, _) => die == d && id == c.id
    | none => false).closeColl d c kind lost (some (f, a))

/-! ## Taking a COLL (R352 to R355, R358) -/

/-- The entries of a die's copy queues that one of its units may take, with their cores. -/
def State.takable (s : State) (d : Nat) (want : Instr → Bool) : List (Nat × CopyEntry) :=
  (s.cores.filter fun x => x.1 / 144 == d).flatMap fun x =>
    (x.2.copies.filter fun c => c.stage == .active && want c.op.instr).map fun c => (x.1, c)

/-- Some words read by an engine. -/
def wordsOf (n : Nat) (bs : List Byte) : List Word :=
  (List.range n).map fun i => BitVec.ofNat 64 (natOf ((bs.drop (8 * i)).take 8))

/-- The number of a key among calls, and the list with it counted. -/
def nextNum (l : List (List Word × Nat)) (k : List Word) : Nat × List (List Word × Nat) :=
  match l.find? fun x => x.1 == k with
  | none => (0, (k, 1) :: l)
  | some x => (x.2, l.map fun y => if y.1 = k then (k, y.2 + 1) else y)

/-- The error words of some transfers read as an engine of core `e` reads them, by element (R357, R358). -/
def State.readEfb (s : State) (e : Nat) (r : List Word) : List Nat → Store (BitVec 32) → Got8 × Store (BitVec 32) × State
  | [], m => (.bytes [], m, s)
  | t :: ts, m =>
    match s.engineBytes e (efbOf r t) (4 * cCount r) with
    | (.bytes bs, u) =>
      u.readEfb e r ts ((elementsOf 4 (cCount r) bs).zipIdx.foldl (fun m x =>
        Store.set 0 m (efbPlace r t x.2) (BitVec.ofNat 32 x.1)) m)
    | (g, u) => (g, m, u)

/-- The transfers of a record by distinct source, for which the error words are read. -/
def efbTransfers (r : List Word) : List Nat :=
  if !cWire r then []
  else (List.range (cTotal r)).filter fun t => (List.range t).all fun u => srcElem r u != srcElem r t

/-- The walker takes an entry whose record it has read. -/
def State.startColl (s : State) (d e : Nat) (c : CopyEntry) (r plan : List Word) (efb : Store (BitVec 32)) : State :=
  (s.setCopy e { c with stage := .handed }).modDie d fun x =>
    let n := nextNum x.collNums r
    let y : Coll :=
      { id := x.nextId, core := e, copyId := c.id, rec_ := r, plan := plan, efb := efb, num := n.1, emitted := 0, unacked := [],
        applied := [], ended := none }
    { x with nextId := x.nextId + 1, collNums := n.2, colls := x.colls ++ [y] }

/-- The walker takes an entry and meets a fault in what its record names: the collective ends with KIND 2 (R360). -/
def State.takeFails (s : State) (d e : Nat) (c : CopyEntry) (r : List Word) (f : FCode) (a : Word) : State :=
  let t := s.startColl d e c r [] []
  match (t.dieAt d).colls.getLast? with
  | some y => t.failColl d y 2 0 f a
  | none => t

/-- COLL_WALKER_TAKE: the record, the plan and the error words are read and checked (R353, R358). -/
def execCollWalkerTake (die : BitVec 2) (s : State) : Out :=
  let d := die.toNat
  let cs := s.takable d fun
    | .coll .. => true
    | _ => false
  if 8 ≤ (s.dieAt d).colls.length then .next s
  else
    match cs with
    | [] => .next s
    | x :: xs =>
      let (n, t) := s.draw
      let (e, c) := (x :: xs).getD (n % (x :: xs).length) x
      let l := t.localCore e c.card
      match t.engineBytes l c.op.a 128 with
      | (.wait, u) => .next u
      | (.fail f a, u) => .next (u.failCopy e c f a)
      | (.bytes bs, u) =>
        let r := wordsOf 16 bs
        if collBad u.mesh r then .next (u.failCopy e c .reservedField c.op.a)
        else if c.card.isNone && !u.edgesMet e c.id (collReach r false) (collReach r true) then .next u
        else
          match u.engineBytes l (r.getD 3 0) 64 with
          | (.wait, v) => .next v
          | (.fail f a, v) => .next (v.takeFails d e c r f a)
          | (.bytes ps, v) =>
            if planBad (wordsOf 8 ps) then .next (v.takeFails d e c r .reservedField c.op.a)
            else
              match v.readEfb l r (efbTransfers r) [] with
              | (.wait, _, w) => .next w
              | (.fail f a, _, w) => .next (w.takeFails d e c r f a)
              | (.bytes _, m, w) => .next (w.startColl d e c r (wordsOf 8 ps) m)

/-! ## Emission (R354, R355, R357) -/

/-- Whether a source may be read: every earlier incoming transfer onto its bytes has been applied (R354). -/
def State.sourceReady (s : State) (d : Nat) (c : Coll) (t : Nat) : Bool :=
  let n := cCount c.rec_ * cSize c.rec_
  (List.range t).all fun u =>
    c.applied.contains u || (sourcesOf s.mesh c.rec_ (s.nodeOf d) u).isEmpty
      || !(region (srcOf c.rec_ t) n).meets (region (dstOf c.rec_ u) n)

/-- What a transfer is on its way: its wire bytes, and the error words it leaves. -/
inductive Built where
  | wire (bs : List Byte) (efb : List Nat)
  | fail (f : FCode) (a : Word)
  | wait

/-- The source of a transfer read and encoded (R354, R357). -/
def State.buildTransfer (s : State) (c : Coll) (t : Nat) : Built × State :=
  let r := c.rec_
  let e := s.collCore c
  match s.engineBytes e (srcOf r t) (cCount r * cSize r) with
  | (.wait, u) => (.wait, u)
  | (.fail f a, u) => (.fail f a, u)
  | (.bytes bs, u) =>
    match cWire r, collFloat (cFmt r) with
    | true, some f =>
      let x := wireEncode (cCount r / 64) ((elementsOf (cSize r) (cCount r) bs).map (decodeF f false))
        ((List.range (cCount r)).map fun i => (Store.get 0 c.efb (efbPlace r t i)).toNat)
      (.wire x.1 x.2, u)
    | _, _ => (.wire bs [], u)

/-- A pointer of one member as core `e` reaches it on a node: a tag-0x0 pointer of another node is a peer pointer. -/
def State.memberKeys (s : State) (e node : Nat) (p : Word) (n : Nat) : Piece :=
  if tagOf p = 7 then
    if 33554432 < offOf p + n then .fail .range p
    else .keys ((List.range n).map fun i => chipKey (node % 4) (offOf p + i))
  else if tagOf p = 2 then .fail .decodedViewWrite p
  else if tagOf p ≠ 0 then .fail .spaceTag p
  else if node = s.nodeOf (dieOf e) then s.engineKeys e .write (n / 4096 + 2) p n
  else s.engineKeys e .write (n / 4096 + 2) (BitVec.ofNat 64 (3 * 2 ^ 60 + 2 ^ 52 * node + p.toNat % 2 ^ 52)) n

/-- A transfer has arrived at a node of this package. -/
def State.landTransfer (s : State) (d : Nat) (a : Arrival) : State := s.modDie d fun x => { x with inbox := x.inbox ++ [a] }

/-- A transfer goes to a node of this package. -/
def State.deliver (s : State) (d : Nat) (c : Coll) (t tn : Nat) (w : List Byte) : State :=
  let own := s.nodeOf d
  let e := s.collCore c
  let c' := { c with emitted := t + 1 }
  if cGovern c.rec_ = 0 then
    let bs := copyResult c.rec_ w
    match s.memberKeys e tn (dstOf c.rec_ t) bs.length with
    | .fail f a => s.failColl d c 2 0 f a
    | .wait _ => s
    | .keys ks =>
      ((s.enginePut e 1 ks bs).setColl d c').landTransfer (tn % 4) { rec_ := c.rec_, num := c.num, t := t, src := own, bytes := [] }
  else
    let a : Arrival :=
      { rec_ := c.rec_, num := c.num, t := t, src := own, bytes := (received c.rec_ w).flatMap (bytesOf 8) }
    if tn = own then (s.setColl d c').landTransfer d a
    else
      match s.memberKeys e tn (slotPointer s.mesh c own t) w.length with
      | .fail f p => s.failColl d c 2 0 f p
      | .wait _ => s
      | .keys ks =>
        ((s.enginePut e 1 ks w).setColl d { c' with unacked := c.unacked ++ [(t, tn)] }).landTransfer (tn % 4) a

/-- A transfer to another package enters its send queue (R349). -/
def State.sendTransfer (s : State) (d : Nat) (c : Coll) (t tn : Nat) (w : List Byte) : State :=
  if 64 ≤ (Store.get SendQ.none s.pkg.sendq (tn / 4)).descs.length then s
  else
    let red := cGovern c.rec_ ≠ 0
    let p := if red then slotPointer s.mesh c (s.nodeOf d) t else dstOf c.rec_ t
    let x : Desc :=
      { node := tn, dest := p, rq := false, bytes := w, core := c.core, copyId := c.copyId, coll := some (d, c.id, t), red := red,
        data := if red then [] else copyResult c.rec_ w }
    (s.setColl d { c with emitted := t + 1, unacked := c.unacked ++ [(t, tn)] }).modPkg fun q =>
      let y := Store.get SendQ.none q.sendq (tn / 4)
      { q with sendq := Store.set SendQ.none q.sendq (tn / 4) { y with descs := y.descs ++ [x] } }

/-- The error words of transfer `t` as its encoding leaves them, kept in the walker and written to the buffer (R357). -/
def State.putEfb (s : State) (d id t : Nat) (ks : List Nat) (efb : List Nat) : State :=
  match s.collOf d id with
  | none => s
  | some c =>
    (s.enginePut (s.collCore c) 1 ks (efb.flatMap (bytesOf 4))).setColl d { c with
      efb := efb.zipIdx.foldl (fun m x => Store.set 0 m (efbPlace c.rec_ t x.2) (BitVec.ofNat 32 x.1)) c.efb }

/-- A transfer goes to its target, and its error words into their buffer once it is emitted; while their page is not
present it is not emitted (R140, R354, R357). -/
def State.emit (s : State) (d : Nat) (c : Coll) (t tn : Nat) (w : List Byte) (efb : List Nat) : State :=
  let go := fun (u : State) => if u.ownNode tn then u.deliver d c t tn w else u.sendTransfer d c t tn w
  if efb.isEmpty then go s
  else
    match s.engineKeys (s.collCore c) .write (4 * efb.length / 4096 + 2) (efbOf c.rec_ t) (4 * efb.length) with
    | .fail f a => s.failColl d c 2 0 f a
    | .wait _ => s
    | .keys ks => if ((go s).collOf d c.id).all (fun x => x.emitted == t) then go s else (go s).putEfb d c.id t ks efb

/-- COLL_TRANSFER_EMIT: the next transfer of the walk (R354, R355). -/
def execCollTransferEmit (die : BitVec 2) (id : Nat) (s : State) : Out :=
  let d := die.toNat
  match s.collOf d id with
  | none => .next s
  | some c =>
    let t := c.emitted
    let tn := targetOf s.mesh c.rec_ (s.nodeOf d) t
    let red := cGovern c.rec_ ≠ 0
    if c.ended.isSome || cTotal c.rec_ ≤ t || (c.rec_.getD 15 0).toNat > (s.timeBase).getD 0 || !s.sourceReady d c t then .next s
    else if red && tn != s.nodeOf d
        && ((c.plan.getD 1 0).extractLsb' 16 16).toNat ≤ (c.unacked.filter fun u => u.2 == tn).length then .next s
    else if !s.reachable tn then .next (s.failColl d c 2 0 .remoteUnreachable (s.collRecord c))
    else
      match s.buildTransfer c t with
      | (.wait, u) => .next u
      | (.fail f a, u) => .next (u.failColl d c 2 0 f a)
      | (.wire w efb, u) =>
        if slotBytes c < w.length then .next (u.failColl d c 2 0 .reservedField (s.collRecord c))
        else .next (u.emit d c t tn w efb)

/-! ## Application (R354, R356) -/

/-- What outside members sent joins what has arrived; a copy transfer's bytes are written, a reduce transfer's lie in
its slot (R355). While a page that it needs is not present it waits and comes again (R140). -/
def State.takeOutside (s : State) (d : Nat) (c : Coll) (t : Nat) (o : BitVec 8 × List Byte) : State :=
  let src := o.1.toNat
  let own := s.nodeOf d
  if s.ownNode src || !(sourcesOf s.mesh c.rec_ own t).contains src
      || (s.dieAt d).inbox.any (fun a => a.rec_ == c.rec_ && a.num == c.num && a.t == t && a.src == src) then s
  else
    let red := cGovern c.rec_ ≠ 0
    let bs := if red then o.2 else copyResult c.rec_ o.2
    match s.memberKeys (s.collCore c) own (if red then slotPointer s.mesh c src t else dstOf c.rec_ t) bs.length with
    | .fail f p => s.failColl d c 2 0 f p
    | .wait _ => s.modPkg fun q => { q with
        foreign := q.foreign ++ [(s.cycle + 1, .collTransferApply (BitVec.ofNat 2 d) c.id t [o])] }
    | .keys ks =>
      (s.enginePut (s.collCore c) 1 ks bs).landTransfer d
        { rec_ := c.rec_, num := c.num, t := t, src := src, bytes := if red then (received c.rec_ o.2).flatMap (bytesOf 8) else [] }

/-- The block that a reduce transfer leaves at its destination (R356). -/
def reducedBlock (r : List Word) (old : List Byte) (as : List Arrival) : List Byte :=
  (List.range (cCount r)).flatMap fun i =>
    bytesOf (cSize r) (combineElem (cFmt r) (cGovern r) (cExact r) (natOf ((old.drop (cSize r * i)).take (cSize r)))
      (as.map fun a => natOf ((a.bytes.drop (8 * i)).take 8)))

/-- A transfer is applied: it no longer waits here, and its senders on this package may use their slots again. -/
def State.markApplied (s : State) (d : Nat) (c : Coll) (t : Nat) : State :=
  let own := s.nodeOf d
  let u := s.modDie d fun x => { x with
    inbox := x.inbox.filter (fun a => !(a.rec_ == c.rec_ && a.num == c.num && a.t == t)),
    colls := x.colls.map fun y => if y.id = c.id then { y with applied := y.applied ++ [t] } else y }
  (List.range 4).foldl (fun (v : State) k => v.modDie k fun x => { x with
    colls := x.colls.map fun y =>
      if y.rec_ = c.rec_ ∧ y.num = c.num then { y with unacked := y.unacked.filter (· != (t, own)) } else y }) u

/-- COLL_TRANSFER_APPLY: transfer `t` is applied at this node once all that the walk directs at it has arrived
(R354, R356). -/
def execCollTransferApply (die : BitVec 2) (id t : Nat) (outside : List (BitVec 8 × List Byte)) (s : State) : Out :=
  let d := die.toNat
  match s.collOf d id with
  | none => .next s
  | some c =>
    if c.ended.isSome || c.applied.contains t || cTotal c.rec_ ≤ t || (sourcesOf s.mesh c.rec_ (s.nodeOf d) t).isEmpty then .next s
    else
      let u := outside.foldl (fun (v : State) o => v.takeOutside d c t o) s
      match u.collOf d id with
      | none => .next u
      | some _ =>
        let as := (sourcesOf s.mesh c.rec_ (s.nodeOf d) t).filterMap fun n =>
          (u.dieAt d).inbox.find? fun a => a.rec_ == c.rec_ && a.num == c.num && a.t == t && a.src == n
        if as.length < (sourcesOf s.mesh c.rec_ (s.nodeOf d) t).length then .next u
        else if cGovern c.rec_ = 0 then .next (u.markApplied d c t)
        else
          let e := u.collCore c
          match u.engineBytes e (dstOf c.rec_ t) (cCount c.rec_ * cSize c.rec_) with
          | (.wait, v) => .next v
          | (.fail f a, v) => .next (v.failColl d c 2 0 f a)
          | (.bytes old, v) =>
            match v.memberKeys e (v.nodeOf d) (dstOf c.rec_ t) old.length with
            | .fail f a => .next (v.failColl d c 2 0 f a)
            | .wait _ => .next v
            | .keys ks => .next ((v.enginePut e 1 ks (reducedBlock c.rec_ old as)).markApplied d c t)

/-- SLOT_FREE_NOTICE: a receiver of another package has applied the oldest reduce transfer sent to it (R355). -/
def execSlotFreeNotice (die : BitVec 2) (id : Nat) (node : BitVec 8) (s : State) : Out :=
  match s.collOf die.toNat id with
  | none => .next s
  | some c =>
    if s.ownNode node.toNat || cGovern c.rec_ = 0 then .next s
    else
      match c.unacked.find? fun u => u.2 == node.toNat with
      | none => .next s
      | some u => .next (s.setColl die.toNat { c with unacked := c.unacked.erase u })

/-- COLL_COMPLETE: every transfer is sent, acknowledged and applied; the status word, then the stamp and the barrier
(R358). One that has ended and waits for STAT's page tries again (R140). -/
def execCollComplete (die : BitVec 2) (id : Nat) (s : State) : Out :=
  let d := die.toNat
  match s.collOf d id with
  | none => .next s
  | some c =>
    match c.ended with
    | some (kind, lost, f) => .next (s.closeColl d c kind lost f)
    | none => if collBlock s.mesh (s.nodeOf d) c < cTotal c.rec_ then .next s else .next (s.closeColl d c 0 0 none)

end Sys2Proof.Machine
end

