-- ==== Sys2Proof/Machine/Sharding.lean ====
section
/-! DEFINITION. SHMLD, SHMST, TLD and TST, and the Jig: plans and the running of a RESHARD (R285 to R287, R373 to R387,
R478). -/

namespace Sys2Proof.Machine

/-! ## Maps in registers (R373 to R376) -/

/-- The check that a map's pointer has one of the tags of R374 and its alignment. -/
def mapPointer (p : Word) : Check :=
  firstOf [fails (8 ≤ tagOf p || [2, 3, 6].contains (tagOf p)) .spaceTag p, fails (p.extractLsb' 0 6 != 0) .align p]

/-- SHMLD: 64 bytes are read as a queued read (R374). -/
def execShmld (c : Ctl) (a : IOp) (_map : BitVec 3) (s : State) : Out :=
  s.scalarSlot c [a] [] fun t =>
    let p := t.src .a a
    match mapPointer p with
    | some (f, x) => t.fail f x
    | none =>
      match t.lanesAt .read 64 false (fun _ => none) [(0, p)] with
      | .restart q => t.restartAt q
      | .fail f q => t.fail f q
      | .ok ls =>
        .next (t.startRead 8 (ls.flatMap fun x => (List.range 8).map fun i =>
          (i, addOffset p (BitVec.ofNat 64 (8 * i)),
            { x.2.2 with key := x.2.2.key + 8 * i, leaf := if i = 0 then x.2.2.leaf else none })) [] [])

/-- SHMST: the map goes out as one ordinary store that no gate holds (R375). -/
def execShmst (c : Ctl) (a : IOp) (map : BitVec 3) (s : State) : Out :=
  s.scalarSlot c [a] [] fun t =>
    let p := t.src .a a
    match mapPointer p with
    | some (f, x) => t.fail f x
    | none =>
      match t.lanesAt .write 64 false (fun _ => none) [(0, p)] with
      | .restart q => t.restartAt q
      | .fail f q => t.fail f q
      | .ok ls =>
        let u := ((t.keepLeaves ls).bindReads (ls.map fun x => (x.2.2.key, 64))).commitGate t.me
        .next (ls.foldl (fun v x => v.coreStore v.me x.2.2.key (wordsBytes (t.core.mapReg map.toNat))) u)

/-- A SHMLD whose bytes have been read: a valid map goes into its register, any other faults (R374). -/
def State.finishMap (s : State) (p : Pend) (k : Nat) : State :=
  if !mapValid s.mesh p.res then s.faultPend p .mapInvalid (p.vas.headD 0)
  else
    (if s.core.owns p.own then s.modCore fun c => c.setMap k (p.res.take 8) else s).dropPend p

/-- The completion of a SHMLD; none for other operations. -/
def State.completeMap (s : State) (p : Pend) : Option Out :=
  match p.op.instr with
  | .shmld _ _ k =>
    some (if s.cycle < p.due then .next s
      else if !p.perf then
        if s.heldAtHome p then .next s else .next (s.readPend p 8)
      else
        match p.fault with
        | some (f, a) => .next (s.faultPend p f a)
        | none => .next (s.finishMap p k.toNat))
  | _ => none

/-! ## Elements by index (R285 to R287) -/

/-- TLD (R286). -/
def execTld (c : Ctl) (d a b e : IOp) (map : BitVec 3) (s : State) : Out :=
  s.scalarSlot c [a, b, e] [d] fun t =>
    match elementAt t.mesh t.node (t.core.mapReg map.toNat) (indexOf (t.src .a a) (t.src .b b) (t.src .c e)) false with
    | .error f => t.fail f 0
    | .ok (p, n) =>
      match t.lanesAt .read n false (fun _ => none) [(0, p)] with
      | .restart q => t.restartAt q
      | .fail f q => t.fail f q
      | .ok ls => .next ((t.wrI d 0).2.startRead n ls [(t.wrI d 0).1] [n])

/-- TST (R287). -/
def execTst (c : Ctl) (d a b e : IOp) (map : BitVec 3) (s : State) : Out :=
  s.scalarSlot c [d, a, b, e] [] fun t =>
    match elementAt t.mesh t.node (t.core.mapReg map.toNat) (indexOf (t.src .a a) (t.src .b b) (t.src .c e)) true with
    | .error f => t.fail f 0
    | .ok (p, n) => t.storeLanes 0x152 n false [(0, p)] fun _ => t.src .d d

/-! ## RESHARD at issue (R385, R386) -/

/-- The eight words of a latched map. -/
def mapWords (v : VReg) : List Word := (List.range 8).map fun i => v.extractLsb' (64 * i) 64

/-- The key of a plan: both maps without TID and BASE (R380). -/
def planKey (src dst : List Word) : List Word :=
  let k := fun (m : List Word) => (m.getD 0 0 &&& (0xFFFFFFFFFF : Word)) :: (m.drop 1).take 6
  k src ++ k dst

/-- RESHARD enters its copy queue with its two maps and its number (R386). -/
def State.enterReshard (s : State) (ms md : List Word) (a : Word) (q : BitVec 2) (cb : BitVec 3) : State :=
  let md' := if a = 0 then md else md.set 7 a
  let key := planKey ms md' ++ [mBase md']
  let n := nextNum (s.dieAt (dieOf s.me)).reshNums key
  (s.modDie (dieOf s.me) fun x => { x with reshNums := n.2 }).enterCopy q cb (BitVec.ofNat 64 (storedSize s.mesh ms)) a
    (BitVec.ofNat 64 (storedSize s.mesh md')) (ms ++ md' ++ [BitVec.ofNat 64 n.1])

/-- RESHARD (R386). -/
def execReshard (c : Ctl) (smS smD : BitVec 3) (a : IOp) (q : BitVec 2) (cb : BitVec 3) (s : State) : Out :=
  s.scalarSlot c [a] [] fun t =>
    let ms := if t.core.cur.latched then mapWords t.core.cur.va else t.core.mapReg smS.toNat
    let md := if t.core.cur.latched then mapWords t.core.cur.vb else t.core.mapReg smD.toNat
    let x := t.src .a a
    match firstOf [fails (!mapValid t.mesh ms || !mapValid t.mesh md) .mapInvalid 0,
        fails (x != 0 && 1 < tagOf x) .spaceTag x,
        fails (x != 0 && (x.extractLsb' 0 6 != 0 || x.extractLsb' 52 8 != 0)) .align x] with
    | some (f, y) => t.fail f y
    | none => .next (t.enterReshard ms md x q cb)

/-! ## Units: the elements of a tensor, or the blocks of N4X (R478) -/

/-- Bits of a unit. -/
def unitBits (fmt : Nat) : Nat := if fmt = 6 then 144 else fmtBits fmt
/-- A list whose last entry is counted in units: blocks of 32 for N4X. -/
def inUnits (fmt : Nat) (es : List Nat) : List Nat :=
  if fmt = 6 then es.dropLast ++ [(es.getLastD 0 + 31) / 32] else es
/-- The extents of a tensor in units. -/
def unitExts (m : List Word) : List Nat := inUnits (mFmt m) ((List.range (mRank m)).map (mExt m))
/-- The stored extents in units. -/
def unitStore (mesh : Word) (m : List Word) : List Nat := inUnits (mFmt m) (storedExts mesh m)

/-- The row-major place of an offset: an index in each dimension, the last varying fastest. -/
def unflatten : List Nat → Nat → List Nat
  | [], _ => []
  | _ :: es, o => (o / es.prod) :: unflatten es (o % es.prod)

/-- The index that a stored position holds on a node; none for padding, a short shard or an outer halo (R371). -/
def indexAt (mesh : Word) (m : List Word) (c pos : List Nat) : Option (List Nat) :=
  let l := layoutOf mesh m
  (List.range (mRank m)).mapM fun d =>
    let n := (unitExts m).getD d 0
    let p := pos.getD d 0
    if (l.splits d).isEmpty then (if p < n then some p else none)
    else
      let (s, k) := l.shard mesh n c d
      if p < mLo m d + k + mHi m d && mLo m d ≤ s + p && s + p - mLo m d < n then some (s + p - mLo m d) else none

/-! ## Plans (R377 to R379) -/

/-- A step: its order in the vocabulary of R377, its axis and its dimension. -/
abbrev PlanStep := Nat × Nat × Nat

/-- Whether a step uses the fabric. -/
def stepFabric (p : PlanStep) : Bool := p.1 != 1

/-- Whether the boundaries of every split dimension agree (R377). -/
def sameCuts (mesh : Word) (exts : List Nat) (l k : Layout) : Bool :=
  (List.range exts.length).all fun d =>
    (k.splits d).isEmpty || (List.range (k.parts mesh d)).all fun u =>
      shardOf (l.modes.getD d false) (exts.getD d 0) (k.parts mesh d) u
        == shardOf (k.modes.getD d false) (exts.getD d 0) (k.parts mesh d) u
/-- Whether the halos of a state reach the destination's. -/
def haloEnough (l k : Layout) : Bool :=
  (List.range k.modes.length).all fun d => k.lo.getD d 0 ≤ l.lo.getD d 0 && k.hi.getD d 0 ≤ l.hi.getD d 0
/-- Whether a state is final for a destination (R377). -/
def layoutFinal (mesh : Word) (exts : List Nat) (l k : Layout) : Bool :=
  l.codes == k.codes && sameCuts mesh exts l k && haloEnough l k

/-- No halo in any dimension. -/
def Layout.bare (l : Layout) : Layout := { l with lo := l.modes.map fun _ => 0, hi := l.modes.map fun _ => 0 }
/-- Dimension `d` newly split on axis `a`: it keeps its mode where it is split already, else takes one (R377). -/
def Layout.split (l : Layout) (a d : Nat) (mode : Bool) : Layout :=
  let l' := if (l.splits d).isEmpty then { l with modes := l.modes.set d mode } else l
  ({ l' with codes := l.codes.set a (d + 1) } : Layout).bare

/-- The state after a step towards a destination (R377). -/
def applyStep (l k : Layout) (p : PlanStep) : Layout :=
  let (o, a, d) := p
  match o with
  | 1 | 3 => l.split a d (k.modes.getD d false)
  | 2 => ({ l with codes := l.codes.set a 0 } : Layout).bare
  | 4 => l.split a d (l.modes.getD (l.codes.getD a 0 - 1) false)
  | 5 => { l with modes := k.modes, lo := k.lo, hi := k.hi }
  | _ => { l with lo := k.lo, hi := k.hi }

/-- The steps that apply to a state (R377, R478). -/
def stepsFrom (mesh : Word) (fmt : Nat) (exts : List Nat) (l k : Layout) : List PlanStep :=
  let dims := List.range exts.length
  let used := axes.filter (axisUsed mesh)
  let own := used.flatMap fun a =>
    match l.codes.getD a 0 with
    | 0 => dims.map fun d => (1, a, d)
    | 8 => if fmt = 6 then [] else dims.map fun d => (3, a, d)
    | x => (2, a, 0) :: (dims.filter (· + 1 ≠ x)).map fun d => (4, a, d)
  own ++ (if l.codes != k.codes then []
    else if !sameCuts mesh exts l k then [(5, 0, 0)]
    else if !haloEnough l k then [(6, 0, 0)] else [])

/-- Every plan of at most `fuel` steps and `fab` fabric steps from a state (R379). -/
def plansFrom (mesh : Word) (fmt : Nat) (exts : List Nat) (k : Layout) : Nat → Nat → Layout → List (List PlanStep)
  | fuel, fab, l =>
    if layoutFinal mesh exts l k then [[]]
    else
      match fuel with
      | 0 => []
      | n + 1 =>
        ((stepsFrom mesh fmt exts l k).filter fun p => !stepFabric p || 0 < fab).flatMap fun p =>
          (plansFrom mesh fmt exts k n (if stepFabric p then fab - 1 else fab) (applyStep l k p)).map (p :: ·)

/-- The interval of indices that a node holds in dimension `d`, halos counted (R378). -/
def Layout.span (mesh : Word) (l : Layout) (exts c : List Nat) (d : Nat) : Nat × Nat :=
  let n := exts.getD d 0
  if (l.splits d).isEmpty then (0, n)
  else
    let (s, k) := l.shard mesh n c d
    (s - l.lo.getD d 0, min n (s + k + l.hi.getD d 0))

/-- The elements that a node holds in both of two states. -/
def heldBoth (mesh : Word) (l k : Layout) (exts c : List Nat) : Nat :=
  ((List.range exts.length).map fun d =>
    min (l.span mesh exts c d).2 (k.span mesh exts c d).2 - max (l.span mesh exts c d).1 (k.span mesh exts c d).1).prod

/-- The elements that a fabric step moves: its bytes up to the constant size of an element (R378). -/
def stepCost (mesh : Word) (exts : List Nat) (l k : Layout) (p : PlanStep) : Nat :=
  if !stepFabric p then 0
  else
    ((List.range (meshNodes mesh)).map fun n =>
      let c := coordsOf mesh n
      if p.1 = 3 then (axisLen mesh p.2.1 - 1) * heldBoth mesh k k exts c
      else heldBoth mesh k k exts c - heldBoth mesh l k exts c).sum

/-- The states of a plan, each with the step taken from it. -/
def planStates (k : Layout) : List PlanStep → Layout → List (Layout × PlanStep)
  | [], _ => []
  | p :: ps, l => (l, p) :: planStates k ps (applyStep l k p)

/-- The elements that a plan moves. -/
def planCost (mesh : Word) (exts : List Nat) (l k : Layout) (ps : List PlanStep) : Nat :=
  ((planStates k ps l).map fun x => stepCost mesh exts x.1 (applyStep x.1 k x.2) x.2).sum

/-- The order of R379, comparison 3: step by step, a prefix before what it begins. -/
def seqLess : List PlanStep → List PlanStep → Bool
  | [], _ => true
  | _ :: _, [] => false
  | p :: ps, q :: qs =>
    if p = q then seqLess ps qs
    else p.1 < q.1 || (p.1 == q.1 && (p.2.1 < q.2.1 || (p.2.1 == q.2.1 && p.2.2 < q.2.2)))

/-- The better of two plans (R379). -/
def betterPlan (mesh : Word) (exts : List Nat) (l k : Layout) (x y : List PlanStep) : List PlanStep :=
  let f := fun (ps : List PlanStep) => (ps.filter stepFabric).length
  let cx := planCost mesh exts l k x
  let cy := planCost mesh exts l k y
  if f x < f y || (f x == f y && (cx < cy || (cx == cy && seqLess x y))) then x else y

/-- The plan that R379 chooses; none where there is none, as for an N4X source with a partial-sum axis (R478). -/
def derivePlan (mesh : Word) (src dst : List Word) : Option (List PlanStep) :=
  let exts := unitExts dst
  let l := layoutOf mesh src
  let k := layoutOf mesh dst
  if mFmt src = 6 && l.codes.contains 8 then none
  else match plansFrom mesh (mFmt dst) exts k 8 4 l with
  | [] => none
  | p :: ps => some (ps.foldl (betterPlan mesh exts l k) p)

/-! ## Where a value comes from (R382, R383) -/

/-- The float format of a map's FMT; none for the integers (R367). -/
def mapFloat (fmt : Nat) : Option FFmt := if fmt = 5 then some .fp4 else if fmt ≤ 4 then collFloat fmt else none

/-- The contributions of a reduce-scatter combined (R383). -/
def reduceUnits (fmt : Nat) (vs : List Nat) : Nat :=
  match mapFloat fmt with
  | some f => roundF f .rne false false 0 (ofF32 (combineF32 false (vs.map (decodeF f false))))
  | none => vs.sum % 2 ^ fmtBits fmt

/-- The node that supplies an index to another before a step: itself where it holds it, else its owner. -/
def supplier (mesh : Word) (l : Layout) (exts idx c : List Nat) : List Nat :=
  if l.holds mesh true exts idx c then c else l.owner mesh exts idx c

/-- The value of an index on a node after a plan, the plan's last step first; none where a source value has not
come. -/
def unitValue (rd : List Nat → List Nat → Option Nat) (mesh : Word) (fmt : Nat) (exts idx : List Nat) :
    List (Layout × PlanStep) → List Nat → Option Nat
  | [], c => rd c idx
  | (l, p) :: rest, c =>
    if p.1 = 3 then
      ((List.range (axisLen mesh p.2.1)).mapM fun j =>
        unitValue rd mesh fmt exts idx rest (supplier mesh l exts idx (c.set p.2.1 j))).map (reduceUnits fmt)
    else unitValue rd mesh fmt exts idx rest (supplier mesh l exts idx c)

/-- Who sends what an index needs to whom, along a plan. -/
def unitLinks (mesh : Word) (exts idx : List Nat) : List (Layout × PlanStep) → List Nat → List (Nat × Nat)
  | [], _ => []
  | (l, p) :: rest, c =>
    let from_ := if p.1 = 3 then (List.range (axisLen mesh p.2.1)).map fun j => supplier mesh l exts idx (c.set p.2.1 j)
      else [supplier mesh l exts idx c]
    from_.flatMap fun b => (nodeAt mesh b, nodeAt mesh c) :: unitLinks mesh exts idx rest b

/-! ## The Jig (R380 to R387) -/

/-- The key by which the nodes match a RESHARD, its number apart (R381). -/
def Resh.key (r : Resh) : List Word := planKey r.src r.dst ++ [mBase r.dst]
/-- A plan's states, last step first. -/
def Resh.states (mesh : Word) (r : Resh) : List (Layout × PlanStep) :=
  (planStates (layoutOf mesh r.dst) r.steps (layoutOf mesh r.src)).reverse
/-- A RESHARD of die `d` by its number. -/
def State.reshOf (s : State) (d id : Nat) : Option Resh := (s.dieAt d).reshards.find? fun r => r.id == id
/-- Whether a node has announced a RESHARD, as die `d` knows (R381). -/
def State.announcedBy (s : State) (d node : Nat) (r : Resh) : Bool :=
  (s.dieAt d).announced.any fun a => a.1 == node && a.2.1 == r.key && a.2.2 == r.num

/-- A RESHARD leaves the Jig, its copy-queue entry ended with a fault where one is given. -/
def State.endReshard (s : State) (d : Nat) (r : Resh) (f : Check) : State :=
  let t := s.modDie d fun x => { x with reshards := x.reshards.filter fun y => y.id != r.id }
  match (t.coreAt r.core).copies.find? fun x => x.id == r.copyId with
  | none => t
  | some y =>
    match f with
    | none => t.copyDone r.core y
    | some (code, a) => t.failCopy r.core y code a

/-- A plan from the cache or derived, with the cache afterwards and whether it was a hit (R380). -/
def planFor (mesh : Word) (cache : List Plan) (src dst : List Word) : Option (List PlanStep × List Plan × Bool) :=
  match cache.find? fun p => p.key == planKey src dst with
  | some p => some (p.steps, p :: cache.filter (fun q => q.key != p.key), true)
  | none =>
    match derivePlan mesh src dst with
    | none => none
    | some ps => some (ps, ({ key := planKey src dst, steps := ps } : Plan) :: cache.take 15, false)

/-- Whether two maps differ in RANK, FMT or an extent (R386). -/
def mapsDiffer (a b : List Word) : Bool :=
  mRank a != mRank b || mFmt a != mFmt b || (List.range (mRank a)).any fun d => mExt a d != mExt b d

/-- The Jig starts a RESHARD and announces it to every die of the package (R381). -/
def State.startReshard (s : State) (d e : Nat) (c : CopyEntry) (steps : List PlanStep) (plans : List Plan) (wait : Nat) :
    State :=
  let r : Resh :=
    { id := (s.dieAt d).nextId, core := e, copyId := c.id, src := c.blk.take 8, dst := (c.blk.drop 8).take 8,
      num := (c.blk.getD 16 0).toNat, due := s.cycle + wait, pieces := [], flying := [0, 1, 2, 3], staged := [], steps := steps }
  let t := (s.setCopy e { c with stage := .handed }).modDie d fun x => { x with
    nextId := x.nextId + 1, plans := plans, reshards := x.reshards ++ [r] }
  let a := (t.nodeOf d, r.key, r.num)
  (List.range 4).foldl (fun (u : State) k => u.modDie k fun x => { x with announced := a :: x.announced }) t

/-- JIG_TAKE: a RESHARD at the head of its queue is checked and gets its plan; four run at once (R386). -/
def execJigTake (die : BitVec 2) (s : State) : Out :=
  let d := die.toNat
  let cs := s.takable d fun
    | .reshard .. => true
    | _ => false
  if 4 ≤ (s.dieAt d).reshards.length then .next s
  else
    match cs with
    | [] => .next s
    | x :: xs =>
      let (n, t) := s.draw
      let (e, c) := (x :: xs).getD (n % (x :: xs).length) x
      let src := c.blk.take 8
      let dst := (c.blk.drop 8).take 8
      if mapsDiffer src dst || (region (mBase src) c.op.d.toNat).meets (region (mBase dst) c.op.b.toNat) then
        .next (t.failCopy e c .reshardUnplannable 0)
      else
        match planFor t.mesh (t.dieAt d).plans src dst with
        | none => .next (t.failCopy e c .reshardUnplannable 0)
        | some (ps, plans, hit) =>
          match t.engineBytes e (mBase src) c.op.d.toNat with
          | (.wait, u) => .next u
          | (.fail f a, u) => .next (u.failCopy e c f a)
          | (.bytes _, u) =>
            let (k, v) := u.draw
            .next (v.startReshard d e c ps plans (if hit then 16 else 16 + k % 4081))

/-- RESHARD_ANNOUNCE: a node of another package announces its next RESHARD of a key (R381). -/
def execReshardAnnounce (node : BitVec 8) (key : List Word) (base : Word) (s : State) : Out :=
  if s.ownNode node.toNat || !s.member node.toNat then .next s
  else
    let k := key ++ [base]
    .next ((List.range 4).foldl (fun (t : State) d => t.modDie d fun x =>
      let n := (x.announced.filter fun a => a.1 == node.toNat && a.2.1 == k).length
      { x with announced := (node.toNat, k, n) :: x.announced }) s)

/-- What completed members of this package have left for a RESHARD (R381). -/
def State.leftFor (s : State) (r : Resh) : List (Nat × Nat × Nat) :=
  (s.pkg.staged.filter fun x => x.key == r.key && x.num == r.num).flatMap (·.vals)

/-- The value of a unit in a source shard, as it stands there or as its completed node left it; none where its node has not
started (R381). -/
def State.sourceUnit (s : State) (d : Nat) (r : Resh) (c idx : List Nat) : Option Nat :=
  let mesh := s.mesh
  let node := nodeAt mesh c
  let ub := unitBits (mFmt r.src)
  let o := elemOffset (unitStore mesh r.src) (storedPos mesh r.src c idx)
  let place := (elemOffset (unitExts r.src) idx)
  match (r.staged ++ s.leftFor r).find? fun x => x.1 == node && x.2.1 == place with
  | some x => some x.2.2
  | none =>
    let at_ : Option (Nat × Word) :=
      if s.ownNode node then
        ((s.dieAt (node % 4)).reshards.find? fun y => y.key == r.key && y.num == r.num).map fun y => (y.core, mBase y.src)
      else if s.announcedBy d node r then
        some (r.core, BitVec.ofNat 64 (3 * 2 ^ 60 + 2 ^ 52 * node + (mBase r.src).toNat % 2 ^ 52))
      else none
    match at_ with
    | none => none
    | some (e, p) =>
      match s.engineKeys e .read 2 (addOffset p (BitVec.ofNat 64 (o * ub / 8))) ((ub + 7) / 8) with
      | .keys ks =>
        let x := natOf (ks.map s.byteAt)
        some (if ub = 4 then x / (if o % 2 = 0 then 1 else 16) % 16 else x)
      | .fail .. | .wait _ => none

/-- The unit at an offset of the destination's stored region: zero where it holds none (R382). -/
def State.destUnit (s : State) (d : Nat) (r : Resh) (o : Nat) : Option Nat :=
  let mesh := s.mesh
  let c := coordsOf mesh (s.nodeOf d)
  match indexAt mesh r.dst c (unflatten (unitStore mesh r.dst) o) with
  | none => some 0
  | some idx => unitValue (s.sourceUnit d r) mesh (mFmt r.dst) (unitExts r.dst) idx (r.states mesh) c

/-- Byte `k` of the destination's stored region. -/
def State.destByte (s : State) (d : Nat) (r : Resh) (k : Nat) : Option Byte :=
  let ub := unitBits (mFmt r.dst)
  if ub = 4 then
    match s.destUnit d r (2 * k), s.destUnit d r (2 * k + 1) with
    | some x, some y => some (BitVec.ofNat 8 (x + 16 * y))
    | _, _ => none
  else (s.destUnit d r (k / (ub / 8))).map fun x => BitVec.ofNat 8 (x / 256 ^ (k % (ub / 8)))

/-- A RESHARD with the values that nodes of other packages have sent it for a piece: node, element and value (R381). -/
def State.withOutside (s : State) (r : Resh) (outside : List (Nat × Nat × Nat)) : Resh :=
  { r with staged := ((outside.filter fun x => !s.ownNode x.1).map fun x =>
      (x.1, x.2.1, x.2.2 % 2 ^ unitBits (mFmt r.src))) ++ r.staged }

/-- The pieces of a destination: 64 KiB each (R382). -/
def State.pieceCount (s : State) (r : Resh) : Nat := (65535 + storedSize s.mesh r.dst) / 65536

/-- Whether the core of a RESHARD is pre-empted or being pre-empted (R387). -/
def State.reshPaused (s : State) (r : Resh) : Bool := (s.coreAt r.core).frozen || (s.coreAt r.core).freezing

/-- The pieces of a RESHARD that are in flight: the four lowest that are not written (R382); while its core is pre-empted, those
that were in flight before, and no next one (R387). -/
def State.inFlight (s : State) (r : Resh) : List Nat :=
  if s.reshPaused r then r.flying.filter (· < s.pieceCount r)
  else ((List.range (s.pieceCount r)).filter fun i => !r.pieces.contains i).take 4

/-- Piece `k` is written: what is in flight after it. -/
def State.pieceWritten (s : State) (r : Resh) (k : Nat) : Resh :=
  let t := { r with pieces := r.pieces ++ [k], flying := r.flying.filter (· ≠ k) }
  { t with flying := s.inFlight t }

/-- RESHARD_PIECE_WRITE: a piece whose elements have all arrived is written (R382); `outside` brings values of nodes of other
packages. -/
def execReshardPieceWrite (die : BitVec 2) (id piece : Nat) (outside : List (Nat × Nat × Nat)) (s : State) : Out :=
  let d := die.toNat
  match s.reshOf d id with
  | none => .next s
  | some r =>
    if s.cycle < r.due || !(s.inFlight r).contains piece then .next s
    else
      let n := min 65536 (storedSize s.mesh r.dst - 65536 * piece)
      match (List.range n).mapM fun i => s.destByte d (s.withOutside r outside) (65536 * piece + i) with
      | none => .next s
      | some bs =>
        match s.engineKeys r.core .write (n / 4096 + 2) (addOffset (mBase r.dst) (BitVec.ofNat 64 (65536 * piece))) n with
        | .fail f a => .next (s.endReshard d r (some (f, a)))
        | .wait _ => .next s
        | .keys ks =>
          .next ((s.enginePut r.core 1 ks bs).modDie d fun x => { x with
            reshards := x.reshards.map fun y => if y.id = id then s.pieceWritten (s.withOutside y outside) piece else y })

/-- The indices of a tensor, in units. -/
def allIndices (exts : List Nat) : List (List Nat) := (List.range exts.prod).map (unflatten exts)

/-- The nodes to which a node sends in the course of a plan. -/
def receivers (mesh : Word) (r : Resh) (own : Nat) : List Nat :=
  let exts := unitExts r.dst
  let k := layoutOf mesh r.dst
  ((List.range (meshNodes mesh)).flatMap fun n =>
    ((allIndices exts).filter fun i => k.holds mesh true exts i (coordsOf mesh n)).flatMap fun i =>
      (unitLinks mesh exts i (r.states mesh) (coordsOf mesh n)).filterMap fun x =>
        if x.1 = own ∧ x.2 ≠ own then some x.2 else none).dedup

/-- What a member that completes leaves with the members of the package that have not (R381): the values it has sent, its
own and those it passes on. The last of them leaves nothing. -/
def State.stageFor (s : State) (d : Nat) (r : Resh) : State :=
  let mesh := s.mesh
  let own := s.nodeOf d
  let c := coordsOf mesh own
  let l := layoutOf mesh r.src
  let exts := unitExts r.src
  let vals := ((allIndices exts).filter fun i => l.holds mesh true exts i c).filterMap fun i =>
    (s.sourceUnit d r c i).map fun x => (own, elemOffset exts i, x)
  let mine := fun (x : Staged) => x.key == r.key && x.num == r.num
  s.modPkg fun p =>
    if ((List.range (meshNodes mesh)).filter s.ownNode).all fun n => n == own || p.staged.any fun x => mine x && x.node == n then
      { p with staged := p.staged.filter fun x => !mine x }
    else { p with staged := { key := r.key, num := r.num, node := own, vals := vals ++ r.staged } :: p.staged }

/-- Whether a node of this package cannot take what is sent to its RESHARD: its core is pre-empted before its last piece (R387). -/
def State.holdsUp (s : State) (r : Resh) (node : Nat) : Bool :=
  s.ownNode node && (s.dieAt (node % 4)).reshards.any fun y =>
    y.key == r.key && y.num == r.num && s.reshPaused y && y.pieces.length < s.pieceCount y

/-- RESHARD_COMPLETE: the own destination is written and every byte sent has been acknowledged (R381, R386, R387): nodes of this
package have it once they have announced and while they are not pre-empted, and the oracle says whether those of others have
acknowledged theirs (log entry 1). -/
def execReshardComplete (die : BitVec 2) (id : Nat) (s : State) : Out :=
  let d := die.toNat
  match s.reshOf d id with
  | none => .next s
  | some r =>
    let dests := receivers s.mesh r (s.nodeOf d)
    if r.pieces.length < s.pieceCount r || !(dests.all fun n => s.announcedBy d n r && !s.holdsUp r n) then .next s
    else if dests.all s.ownNode then .next ((s.stageFor d r).endReshard d r none)
    else if s.draw.1 % 2 = 1 then .next s.draw.2
    else .next ((s.draw.2.stageFor d r).endReshard d r none)

end Sys2Proof.Machine
end

