-- ==== Sys2Proof/Machine/Cycle.lean ====
section
/-! DEFINITION. The turns of a cycle: whose turn comes next, which events of the engines, tables and queues are offered
to the core or the package whose turn it is, and how a program is placed for a single instruction (log entries 1
and 6). -/

namespace Sys2Proof.Machine

/-- The next turn: every core in each of the five passes of a cycle, then the next cycle. -/
def State.turn (s : State) : State :=
  if s.me + 1 < 576 then { s with me := s.me + 1 }
  else if s.pass + 1 < 5 then { s with me := 0, pass := s.pass + 1 }
  else { s.settleCtrs with me := 0, pass := 0, cycle := s.cycle + 1 }

/-- What comes from outside at the beginning of the present cycle. -/
def State.outside (s : State) : Option (Instr × State) :=
  match s.agenda with
  | [] => none
  | (c, i) :: rest =>
    if s.pass = 0 && s.me = 0 && c ≤ s.cycle then some (i, { s with agenda := rest }) else none

/-- The events that move an operation in flight along. -/
def pendEvents (p : Pend) : List Instr :=
  match p.op.instr with
  | .atom .. | .cas .. =>
    if p.peer then [.mantisRequest (.own p.id), .mantisRetransmit p.id, .variableOpComplete p.id]
    else [.atomicPerform p.id, .variableOpComplete p.id]
  | .ropMcas .. | .ropEnq .. | .ropChase .. => [.mantisRequest (.own p.id), .mantisRetransmit p.id, .variableOpComplete p.id]
  | .st .. | .stv .. | .stvs .. | .stvx .. | .tst .. => [.peerRequest (.own p.id), .remoteWriteAck p.id]
  | .tlbi .. => (if p.left.isEmpty then [0] else p.left).map (.tlbiInvalidate p.id)
  | _ => [.peerRequest (.own p.id), .variableOpComplete p.id]

/-- The events of a tensor job: a row of its fill, its completion. -/
def jobEvents (pick : Nat) (j : TJob) : List Instr :=
  match j.fill, jobTiles j.op.instr with
  | r :: rs, t :: _ => [Instr.fillRow (BitVec.ofNat 5 t) ((r :: rs).getD (pick % (r :: rs).length) r), Instr.tensorJobComplete j.id]
  | _, _ => [Instr.tensorJobComplete j.id]

/-- The events of a core's tensor engine: completions come before starts, so that a job starts in the cycle in which
what it waits for completes (R209). -/
def Core.tensorEvents (c : Core) (pick : Nat) : List Instr :=
  let waiting := (List.range 32).filter fun t => (c.tileWord t 3).getLsbD 63
  let l : List (List Instr) := [
    c.jobs.flatMap (jobEvents pick),
    waiting.map fun t => Instr.tileControlPerform (BitVec.ofNat 5 t),
    if c.jobs.isEmpty then [] else [Instr.tensorJobStart, Instr.latheStep, Instr.smmBatch]]
  l.flatten

/-- The four copy queues. -/
def copyQueues : List (BitVec 2) := [0, 1, 2, 3]

/-- The events of a core's copy/fabric engine. -/
def Core.copyEvents (c : Core) : List Instr :=
  if c.copies.isEmpty then []
  else
    let l : List (List Instr) := [copyQueues.map Instr.copyEntryStart, [Instr.copyPiece],
      copyQueues.map Instr.sendQueueEnter, [Instr.stampWrite]]
    l.flatten

/-- The events of a FENCEX under way, which come after the faults of the cycle's issues (R309), when the oracle says so (log
entry 1). -/
def State.fenceTurn (s : State) : List Instr × State :=
  match s.core.mwait with
  | some (.fence a _ true) => (if s.draw.1 = 0 then [Instr.forcedBoundary (fenceTarget a), Instr.fencexAck] else [], s.draw.2)
  | _ => ([], s)

/-- The events of a wait for a page. -/
def pageEvents (w : Option Wait) : List Instr :=
  match w with
  | some (.rewalk _) => [Instr.rewalk]
  | some (.fetch _) => [Instr.pageWaitRewalk]
  | _ => []

/-- The events that follow the core's own boundaries: write-backs, evictions, waits for pages. -/
def State.boundaryEvents (s : State) (pick : Nat) : List Instr :=
  let c := s.core
  let l : List (List Instr) := [
    if pick = 0 then c.backing.map fun x => Instr.dirtyWriteback x.1 else [],
    if 1024 < c.curLines.length then [Instr.dirtyWriteback (c.curLines.getD (pick % c.curLines.length) 0)] else [],
    pageEvents c.wait]
  l.flatten

/-- The events of a job card (R335). -/
def cardEvents (c : Card) : List Instr := [Instr.jobCardStart c.id, Instr.jobCardComplete c.id]

/-- The transfers of a running collective that may be applied next: the first 64 that the walk directs at its node. -/
def State.collNext (s : State) (d : Nat) (c : Coll) : List Nat :=
  nextDirected s.mesh c.rec_ (s.nodeOf d) c.applied (cTotal c.rec_) 0 64

/-- The events of a running collective; `pick` says at which transfer its applications begin. -/
def State.collEvents (s : State) (pick : Nat) (b : BitVec 2) (c : Coll) : List Instr :=
  let ts := s.collNext b.toNat c
  let k := pick % ts.length
  Instr.collTransferEmit b c.id :: ((ts.drop k ++ ts.take k).map fun t => Instr.collTransferApply b c.id t [])
    ++ [Instr.collComplete b c.id]

/-- The events of a running RESHARD: one of the pieces in flight. -/
def State.reshEvents (s : State) (pick : Nat) (b : BitVec 2) (r : Resh) : List Instr :=
  let ps := s.inFlight r
  (if ps.isEmpty then [] else [Instr.reshardPieceWrite b r.id (ps.getD (pick % ps.length) 0) []])
    ++ [Instr.reshardComplete b r.id]

/-- Whether records of die `d` wait for a pool node. -/
def State.anyReady (s : State) (d : Nat) : Bool := (List.range 9).any fun k => !(s.clusterAt (9 * d + k)).ready.isEmpty

/-- The events of the cluster and of the die whose first core has its turn: cards, walker, Jig, device writes and records that
wait, faults of tasks that no core runs. -/
def State.tableEvents (s : State) (pick : Nat) : List Instr :=
  let cards := if s.me % 16 = 0 then (s.clusterAt (clusterOf s.me)).cards.flatMap cardEvents else []
  if s.me % 144 ≠ 0 then cards
  else
    let b := BitVec.ofNat 2 (dieOf s.me)
    let x := s.dieAt (dieOf s.me)
    let l : List (List Instr) := [cards, x.colls.flatMap (s.collEvents pick b), x.reshards.flatMap (s.reshEvents pick b),
      if x.owed.isEmpty && !s.anyReady (dieOf s.me) then [] else [Instr.pageWaitRewalk],
      if x.orphans.isEmpty then [] else [Instr.faultResolveAtBoundary],
      [Instr.collWalkerTake b, Instr.jigTake b]]
    l.flatten

/-- The events of a band that is not steady. -/
def bandEvents (b : Nat × Band) : List Instr :=
  match b.2 with
  | .parking => [Instr.bandParked (BitVec.ofNat 3 b.1)]
  | .waking _ => [Instr.bandWakeComplete (BitVec.ofNat 3 b.1)]
  | .on | .parked => []

/-- The events of the package, offered on the turn of core 0. -/
def State.packageEvents (s : State) (pick : Nat) : List Instr :=
  if s.me ≠ 0 then []
  else
    let p := s.pkg
    let l : List (List Instr) := [
      if p.launchq.isEmpty && p.grid.isNone then [] else [Instr.launchEvaluate, Instr.priorityRaise, Instr.gridEnd],
      if p.fabops.isEmpty then [] else [Instr.fabricOpApply],
      if s.timeBase.isNone then [] else [Instr.rotationSwitch, Instr.slotStart],
      p.bands.flatMap bandEvents,
      p.waiting.map fun w => Instr.packetReceive w.1 w.2,
      if p.withhold ≠ 0 || s.overLimit then [Instr.powerLimitWithhold (BitVec.ofNat 4 pick)] else [],
      (p.foreign.filter (·.1 ≤ s.cycle)).map (·.2),
      p.later,
      match p.busy with
      | some (h, e) => [Instr.preempt h e]
      | none => []]
    l.flatten

/-- The events of the send queues, which come after all that enters them in a cycle: the armed threshold, resends and new packets
(R393, R395). -/
def State.sendEvents (s : State) : List Instr :=
  if s.me ≠ 0 || s.timeBase.isNone then []
  else
    let qs := s.pkg.sendq.map fun q => BitVec.ofNat 6 q.1
    Instr.thresholdFire :: (qs.map Instr.packetResend ++ qs.map Instr.packetStart)

/-- Whether the scheduler may leave an idle core idle for this cycle (R45). -/
def State.mayIdle (s : State) (pick : Nat) : Bool :=
  match s.core.run with
  | .idle since => pick != 0 && s.cycle < 2047 + since
  | .running | .draining _ | .frozen _ => true

/-- The events of the core itself: faults at a boundary, the watchdog, a dispatch. -/
def State.taskEvents (s : State) (pick : Nat) : List Instr :=
  let c := s.core
  let l : List (List Instr) := [
    if s.seen.any fun w => w.core == s.me then [Instr.stampMonitor] else [],
    if c.late.isEmpty then [] else [Instr.faultResolveAtBoundary],
    if c.owned && 2 ^ 28 + c.lastIssue < s.cycle then [Instr.watchdog] else [],
    if s.pkg.grid.isNone || s.mayIdle pick || !s.enabled s.me then [] else [Instr.dispatch]]
  l.flatten

/-- The events offered on the turn of core `me` in pass 1, with the choices among them drawn (log entry 1). -/
def State.events (s : State) : List Instr × State :=
  let x := if s.core = Core.reset then (0, s) else s.draw
  let c := s.core
  let l : List (List Instr) := [s.packageEvents x.1, s.tableEvents x.1, c.pend.flatMap pendEvents, c.tensorEvents x.1, c.copyEvents,
    s.boundaryEvents x.1, s.taskEvents x.1]
  let t := if s.me = 0 then x.2.modPkg fun p => { p with later := [], foreign := p.foreign.filter fun x => s.cycle < x.1 } else x.2
  (l.flatten, t)

/-- The progress of what the core waits for, between two issues, once no fault waits for that boundary (R136); a freeze lets
a boundary under way alone complete, also past a fault that waits for the resume (R136, R304). -/
def State.progress (s : State) : State :=
  if !s.core.late.isEmpty && s.core.issuing then s
  else if s.core.issuing && s.core.nextIssue ≤ s.cycle && (s.core.wait.isSome || s.core.mwait.isSome) then
    s.advance.settle.resolveRaised
  else if s.core.running && s.core.mwait.isSome then s.advanceMs.settle.resolveRaised
  else s

/-- Whether an issue or a held slot is under way on the core. -/
def State.underWay (s t : State) : Bool :=
  t.core.issues != s.core.issues || !t.core.todo.isEmpty || !t.core.raised.isEmpty

/-! ## One instruction placed (log entry 6) -/

/-- A word of memory of this package's node 0. -/
def State.placeWord (s : State) (pa : Nat) (w : Word) : State := s.pokeBytes (s.nk (s.nodeOf 0) pa) (bytesOf 8 w.toNat)

/-- Page tables that map offsets below 1 GiB to themselves, with every permission and class 2 (R251). -/
def State.placeTables (s : State) : State :=
  ((s.placeWord 0x8000 0x10001).placeWord 0x10000 0x11001).placeWord 0x11000 0x0200000000000073

/-- The header of a bundle that holds slot S`k` alone (R53). -/
def oneSlot (k : Nat) : Word := (1 : Word) <<< (56 + k)

/-- The slot in which a slot word is placed: the lowest its class may stand in (R55). -/
def placeSlot (w : Word) : Nat :=
  match opClass (w.extractLsb' 54 10).toNat with
  | some k => k.slot
  | none => 0

/-- A start vector whose translation tables lie at 0x8000. -/
def placedVector : StartVector := { w0 := 0, w1 := 0, w2 := 0, w3 := 0, w4 := 0, w5 := 0x8000, w6 := 0, w7 := 0 }

/-- A grid that runs with those tables. -/
def placedGrid : Grid :=
  { vec := placedVector, started := 0, dealt := [], live := 1, fault := none, bare := false, ended := 0, killed := [] }

/-- A task on core 0 whose next bundle, at 0x20000, holds one slot word, on the turn in which it issues. -/
def State.place (s : State) (w : Word) : State :=
  let t := (s.placeTables.placeWord 0x20000 (oneSlot (placeSlot w))).placeWord 0x20008 w
  { t with
    me := 0, pass := 2, pkg := { t.pkg with grid := some placedGrid },
    cores := Store.set Core.reset t.cores 0
      { t.coreAt 0 with run := .running, pc := 0x20000, nextIssue := s.cycle, wait := none, mwait := none } }

end Sys2Proof.Machine
end

