-- ==== Sys2Proof/Machine/Launch.lean ====
section
/-! DEFINITION. Launch, dispatch and the end of a grid (R32, R35, R39 to R47, R99, R435). -/

namespace Sys2Proof.Machine

/-! ## The launch queue (R40, R41) -/

/-- N of a start vector. -/
def vecCount (v : StartVector) : Nat := (v.w1.extractLsb' 0 32).toNat
/-- Whether a reserved field of a start vector is set (R39). -/
def vecReserved (v : StartVector) : Bool :=
  v.w0.extractLsb' 0 12 != 0 || v.w3.extractLsb' 0 6 != 0 || v.w4.extractLsb' 0 3 != 0 || v.w5.extractLsb' 52 12 != 0
    || v.w5.extractLsb' 0 15 != 0 || v.w6.extractLsb' 10 54 != 0 || v.w7 != 0

/-- The launch status word (R43). -/
def statusWord (kind : Nat) (f : Option FaultNotice) : Word :=
  match f with
  | none => BitVec.ofNat 64 (2 ^ 60 * kind)
  | some f => BitVec.ofNat 64 (2 ^ 60 * kind + 2 ^ 52 * f.code.toNat + 2 ^ 44 * f.node.toNat + 2 ^ 36 * f.core.toNat
      + 2 ^ 16 * f.task.toNat)

/-- The first word of a message's header: MAGIC, VERSION 1, KIND, OPCODE and LENGTH (R443). -/
def headerWord (kind opc len : Nat) : Word := BitVec.ofNat 64 (0x534C01 * 2 ^ 40 + 2 ^ 32 * kind + 2 ^ 16 * opc + len)

/-- The header of a response or a notice (R443). -/
def Msg.header (m : Msg) : List Word :=
  [headerWord (if m.notice then 2 else 1) m.opcode (8 * m.payload.length), m.seq ++ m.host, BitVec.ofNat 64 (2 ^ 32 * m.status), 0]

/-- A response or a notice goes out through the port, closed by its tag (R443). -/
def State.sendMsg (s : State) (m : Msg) : State :=
  s.modPkg fun p => { p with
    port := .message m.header m.payload (p.session.elim 0 fun k => Config.messageTag k m.header (wordsBytes m.payload)) }

/-- A response or a notice gets the next device number, is stored with the last 256, and is sent (R444). -/
def State.issueMsg (s : State) (m : Msg) : State :=
  let x := { m with seq := s.pkg.dlast + 1 }
  (s.modPkg fun p => { p with dlast := x.seq, msgs := (p.msgs ++ [x]).drop (p.msgs.length + 1 - 256) }).sendMsg x

/-- A notice to the host (R444). -/
def State.sendNotice (s : State) (payload : List Word) : State :=
  s.issueMsg { seq := 0, opcode := 0, notice := true, host := 0, status := 0, payload := payload }

/-- The status word written at STATADDR, or the notice that replaces it (R43, R44). -/
def State.writeStatus (s : State) (v : StartVector) (w : Word) : State :=
  let p := v.w4 &&& ~~~7#64
  let r := if tagOf p = 2 then Reach.fail .decodedViewWrite
    else if 3 ≤ tagOf p then .fail .spaceTag
    else
      let g : Grid := { vec := v, started := 0, dealt := [], live := 0, fault := none, bare := false, ended := 0, killed := [] }
      (s.modPkg fun q => { q with grid := some g }).translate none (s.nodeOf 0) (tagOf p) (offOf p) .write
  match r with
  | .at_ l => (s.perform none 1 l.key (bytesOf 8 w.toNat)).sendNotice [w]
  | .fail c => (s.countError 0 c).sendNotice [w, BitVec.ofNat 64 c.num]
  | .absent => (s.countError 0 .pageNotPresent).sendNotice [w, BitVec.ofNat 64 FCode.pageNotPresent.num]

/-- The crew table of cluster `k` as the deal of a launch makes it (R42, R316). -/
def State.dealCrews (s : State) (v : StartVector) (k : Nat) : Store Crew :=
  (List.range ((vecCount v + s.coresAll - 1) / s.coresAll)).filterMap fun r =>
    let n := (s.rootsOf (vecCount v) k r).length
    if n = 0 then none
    else some (r, { live := n, arr := 0, cpol := v.w6.extractLsb' 0 2, made := true, waiters := [] })

/-- The stage and receive queues are emptied (R320, R350). -/
def State.emptyQueues (s : State) : State :=
  { s with
    clusters := (s.clusters.map fun x => (x.1, { x.2 with stageq := [], reserved := [] })).filter fun x => x.2 ≠ Cluster.reset,
    pkg := { s.pkg with recvq := [] } }

/-- The grid starts: crews are made, and the plan caches are emptied, with the counts by which the nodes match
their collectives and RESHARDs (R41, R42, R380). -/
def State.startGrid (s : State) (v : StartVector) : State :=
  let t := s.emptyQueues
  let t := (List.range 36).foldl (fun (u : State) k => u.modCluster k fun c => { c with crews := s.dealCrews v k }) t
  let live := (((List.range 36).map fun k => ((s.dealCrews v k).map fun x => x.2.live).sum)).sum
  let g : Grid := { vec := v, started := s.cycle, dealt := [], live := live, fault := none, bare := false, ended := 0, killed := [] }
  let t := (List.range 4).foldl (fun (u : State) d => u.modDie d fun x => { x with
    plans := [], reshNums := [], announced := [], collNums := [], inbox := [] }) t
  t.modPkg fun p => { p with grid := some g, staged := [] }

/-- LAUNCH_EVALUATE: the start vector at the head of the queue is evaluated, once no grid runs (R41). -/
def execLaunchEvaluate (s : State) : Out :=
  match s.pkg.launchq, s.pkg.grid with
  | v :: rest, none =>
    if !s.pkg.booted || s.pkg.shutdown then .next s
    else
      let gone := fun (t : State) => t.modPkg fun p => { p with launchq := rest }
      if vecReserved v then
        .next (gone ((s.countError 0 .reservedField).writeStatus v
          (statusWord 3 (some { code := 3, node := 0, core := 0, task := 0, stamp := 0 }))))
      else if 2 ^ 20 < vecCount v || 4096 < (vecCount v + s.coresAll - 1) / s.coresAll then
        .next (gone (s.writeStatus v (statusWord 2 none)))
      else if vecCount v = 0 then .next (gone (s.writeStatus v (statusWord 1 none)))
      else .next (s.startGrid v)
  | _, _ => .next s

/-! ## Dispatch (R32, R35, R45, R99) -/

/-- The next root of core `e` that has not started, as its round; rounds of killed crews are passed over (R42,
R50). -/
def State.nextRoot (s : State) (g : Grid) (e : Nat) : Option Nat :=
  if g.fault.isSome then none
  else
    ((List.range (g.killed.length + 1)).map (Store.get 0 g.dealt e + ·)).find? fun r =>
      !g.killed.contains (clusterOf e, r) |>.and (s.dealtTo (vecCount g.vec) e r)

/-- The better of two ready nodes: the higher list, then the older (R45); of two of equal age, the lower number (DESIGN CHOICE,
log entry 43). -/
def betterNode (x y : Nat × PoolNode) : Nat × PoolNode :=
  if x.2.list < y.2.list || (x.2.list == y.2.list && y.2.enq < x.2.enq) then y else x

/-- The ready record that the scheduler would give (R45). -/
def Cluster.best (c : Cluster) : Option (Nat × PoolNode) :=
  match c.nodes.filter fun x => !x.2.waiting with
  | [] => none
  | x :: xs => some (xs.foldl betterNode x)

/-- The effective priority of a root since the launch (R45, R47). -/
def State.rootPrio (s : State) (g : Grid) : Nat :=
  min 7 ((g.vec.w6.extractLsb' 4 3).toNat + (s.cycle - g.started) / 65536)

/-- A task takes core `me`: its registers, an acquire at crew scope, and its state for a retry (R35, R50, R150). -/
def State.takeCore (s : State) (crew : Nat) (task : BitVec 20) (stage : BitVec 4) (rec_ : Word) (d : Dispatched) : State :=
  let t := s.modCore fun c =>
    let k : Core := { c.dispatchRegs with
      run := .running, info := d.info, start := d, pc := d.pc, nextIssue := s.cycle + 1, issues := 0, lastIssue := s.cycle,
      db := [], wait := none, mwait := none, todo := [], raised := [], late := [], restart := none, transfer := false,
      popped := [], marking := none, runs := c.runs + 1,
      s := Store.set 0 (Store.set 0 (Store.set 0 (Store.set 0 [] 0 d.s0) 1 d.s1) 2 d.s2) 3 d.s3 }
    ((((k.setSpecial 1 ((s.vector.w1 &&& ~~~(0xFFFFFFFF : Word)) ||| task.setWidth 64)).setSpecial 2
      (BitVec.ofNat 64 crew)).setSpecial 4 (stage.setWidth 64)).setSpecial 27 rec_).setSpecial 30 (d.tpol.setWidth 64)
  t.acquire t.me

/-- A check of a dispatch fails: a hard fault of no slot (R32, R50, R99). -/
def State.dispatchFault (s : State) (c : FCode) (a : Word) : State :=
  s.resolveAll s.me [{ code := c, addr := a, slot := 9, bundle := s.core.pc, hard := true }]

/-- A record as its eight words. -/
def State.readRecord (s : State) (l : Loc) : List Word := (List.range 8).map fun i => s.wordAt (l.key + 8 * i)

/-- The first failure of steps 1 and 2 of R32. -/
def recordFault (w : List Word) (a : Word) : Option (FCode × Word) :=
  let w0 := w.getD 0 0
  let w1 := w.getD 1 0
  if w0.extractLsb' 0 3 != 0 || w1.getLsbD 40 || w1.extractLsb' 16 2 != 0 || 2 ≤ (w1.extractLsb' 60 4).toNat
      || 6 ≤ (w1.extractLsb' 12 4).toNat then some (.reservedField, a)
  else if tagOf w0 ≠ 0 then some (.spaceTag, w0)
  else none

/-- A record is dispatched: its node is freed, its task takes the core with the ids of the record, and the record is checked
(R32, R35, R45). While the record's page is migratable and not present the core stays idle, and a task whose record cannot be
read has policy and stage 0, with the STAMPADDR that its scheduler knows (DESIGN CHOICE, log entry 43). -/
def State.dispatchRecord (s : State) (i : Nat) (n : PoolNode) : State :=
  let k := clusterOf s.me
  let a := BitVec.ofNat 64 n.rec_
  let freed := (s.modCluster k fun c => { c with pool := Store.set none c.pool i none }).enterReady k
  match s.translate none s.node 0 n.rec_ .read with
  | .absent => s
  | .fail c =>
    (freed.takeCore n.crew n.task 0 a { Dispatched.none with
      info := { TaskInfo.none with saved := true, prio := BitVec.ofNat 3 n.prio, stamp := BitVec.ofNat 48 n.stamp } }).dispatchFault c a
  | .at_ l =>
    let w := s.readRecord l
    let w1 := w.getD 1 0
    let w2 := w.getD 2 0
    let info : TaskInfo :=
      { kind := w1.extractLsb' 60 4, prio := w1.extractLsb' 57 3, waitcnt := w2.extractLsb' 48 16,
        stamp := w2.extractLsb' 0 48, argp := w.getD 3 0, retries := w1.extractLsb' 8 4, lastf := w1.extractLsb' 0 8,
        saved := true }
    let t := freed.takeCore (w1.extractLsb' 41 12).toNat (w1.extractLsb' 20 20) (w1.extractLsb' 53 4) a
      { pc := w.getD 0 0 &&& ~~~7#64, s0 := w.getD 4 0, s1 := w.getD 5 0, s2 := w.getD 6 0, s3 := w.getD 7 0, info := info,
        tpol := w1.extractLsb' 18 2 }
    match recordFault w a with
    | some (c, x) => t.dispatchFault c x
    | none => t

/-- The address of the start-table entry of core `me` (R97). -/
def State.startAddr (s : State) (v : StartVector) : Word := (v.w0 &&& ~~~(0xFFF : Word)) + BitVec.ofNat 64 (64 + 8 * s.me)

/-- The start-table entry at an address, read as Translate gives its place (R99, R255): a decoded view is decoded, and an entry at
a decoded address that no window covers faults with the entry's own address (DESIGN CHOICE, log entry 43). -/
def State.startEntry (s : State) (va : Word) : Except Piece Word :=
  let at_ := match s.access s.me va .read 8 0 false with
    | .fail c => Piece.fail c va
    | .absent => .wait va
    | .at_ l => if l.tag = 6 then .keys ((List.range 8).map (l.key + ·)) else s.engineKeys s.me .read 2 va 8
  match at_ with
  | .keys ks =>
    match s.keyBytes ks with
    | .ok bs => .ok (BitVec.ofNat 64 (natOf bs))
    | .error x => .error (.fail x.1 (if x.1 = .pageNotPresent then va else BitVec.ofNat 64 x.2))
  | p => .error p

/-- A root is dispatched in round `r` (R42, R99). FBUNDLE of a fault of its entry is the entry's value, zero where it could
not be read; while the entry's page is migratable and not present the core stays idle (DESIGN CHOICE, log entry 43). -/
def State.dispatchRoot (s : State) (g : Grid) (r : Nat) : State :=
  let i := s.coreIndex s.me + s.coresAll * r
  let v := g.vec
  let gone := s.modPkg fun p => { p with grid := some { g with dealt := Store.set 0 g.dealt s.me (r + 1) } }
  let info : TaskInfo :=
    { kind := 0, prio := v.w6.extractLsb' 4 3, waitcnt := 0, stamp := 0, argp := v.w2, retries := 0, lastf := 0, saved := false }
  let take := fun (pc : Word) => gone.takeCore r (BitVec.ofNat 20 i) 0 ((v.w3 &&& ~~~(0x3F : Word)) + BitVec.ofNat 64 (64 * i))
    { pc := pc, s0 := v.w2, s1 := BitVec.ofNat 64 (vecCount v), s2 := 0, s3 := 0, info := info, tpol := v.w6.extractLsb' 8 2 }
  let va := s.startAddr v
  match s.startEntry va with
  | .error (.fail c a) => (take 0).dispatchFault c a
  | .error _ => s
  | .ok x =>
    if x.extractLsb' 0 3 ≠ 0 then (take x).dispatchFault .reservedField va
    else if tagOf x ≠ 0 then (take x).dispatchFault .spaceTag x
    else take x

/-- Whether the tensor engine of core `e` runs a tensor task of its cluster (R335). -/
def State.lent (s : State) (e : Nat) : Bool :=
  (s.clusterAt (clusterOf e)).cards.any fun x => x.engine == some e && (x.words.getD 0 0).extractLsb' 60 4 == 1

/-- DISPATCH: an idle core takes the oldest candidate of the highest effective priority (R45). -/
def execDispatch (s : State) : Out :=
  match s.core.run, s.pkg.grid with
  | .idle _, some g =>
    if g.fault.isSome || !s.enabled s.me || s.core.jobs.any (·.card.isSome) || s.lent s.me then .next s
    else
      match (s.clusterAt (clusterOf s.me)).best, s.nextRoot g s.me with
      | none, none => .next s
      | some x, none => .next (s.dispatchRecord x.1 x.2)
      | none, some r => .next (s.dispatchRoot g r)
      | some x, some r =>
        if s.rootPrio g < x.2.list || (s.rootPrio g == x.2.list && x.2.enq ≤ g.started) then .next (s.dispatchRecord x.1 x.2)
        else .next (s.dispatchRoot g r)
  | _, _ => .next s

/-- A node whose task has waited 65,536 cycles at its effective priority (R47). -/
def PoolNode.raised (n : PoolNode) (now : Nat) : PoolNode :=
  if !n.waiting && n.list < 7 && 65536 + n.since ≤ now then { n with list := n.list + 1, since := 65536 + n.since } else n

/-- PRIORITY_RAISE (R47). -/
def execPriorityRaise (s : State) : Out :=
  .next { s with clusters := s.clusters.map fun x => (x.1, { x.2 with
    pool := x.2.pool.map fun y => (y.1, y.2.map (·.raised s.cycle)) }) }

/-! ## The end of a grid (R37, R43, R44, R48) -/

/-- Whether nothing of the grid's work is left on this package, device writes that wait for a page and packets on their way
with it (R43, R48). -/
def State.gridQuiet (s : State) : Bool :=
  (s.cores.all fun x => !x.2.owned && x.2.pend.isEmpty && x.2.jobs.isEmpty && x.2.copies.isEmpty)
    && (s.clusters.all fun x => x.2.cards.isEmpty) && (s.dies.all fun x =>
      x.2.colls.isEmpty && x.2.reshards.isEmpty && x.2.owed.isEmpty && x.2.orphans.isEmpty) && (s.pkg.sendq.all fun q =>
        q.2.descs.isEmpty && q.2.flight.isEmpty)

/-- Every core's writes are performed: the release that the status word follows (R43). -/
def State.releaseAll (s : State) : State :=
  (s.cores.map (·.1)).foldl (fun t e => t.releaseLines e .part) s

/-- GRID_END: once the grid has ended here, its status word is written and the launch queue advances (R40, R43,
R44). -/
def execGridEnd (s : State) : Out :=
  match s.pkg.grid with
  | none => .next s
  | some g =>
    if (g.fault.isNone && g.live ≠ 0) || !s.gridQuiet then .next s
    else
      let w := match g.fault with
        | none => statusWord 0 none
        | some f => statusWord 3 (some f)
      let t := (s.releaseAll.writeStatus g.vec w).emptyQueues
      .next { t with
        clusters := (t.clusters.map fun x => (x.1, { x.2 with pool := [], crews := [] })).filter fun x => x.2 ≠ Cluster.reset,
        pkg := { t.pkg with grid := none, launchq := t.pkg.launchq.tail } }

/-- GRID_ABORT_NOTICE: a package of the partition has ended the grid (R48). -/
def execGridAbortNotice (f : FaultNotice) (s : State) : Out := .next (s.abortGrid f false)

end Sys2Proof.Machine
end

