-- ==== Sys2Proof/Machine/Fabric.lean ====
section
/-! DEFINITION. The fabric: the slot table and its rotation, bands, send queues and packets, link state, and the
fabric instructions (R388 to R402, R437, R438). -/

namespace Sys2Proof.Machine

/-! ## Time and occupancy (R427, R438) -/

/-- The partition time base, 0 before a partition is formed. -/
def State.tb (s : State) : Nat := (s.timeBase).getD 0
/-- A band's state. -/
def State.band (s : State) (b : Nat) : Band := Store.get .on s.pkg.bands b
/-- Whether a band counts as ON: a band that PARK has named is ON until it is parked (R394). -/
def Band.isOn : Band → Bool
  | .on | .parking => true
  | .parked | .waking _ => false
/-- The numbers of eight bands. -/
def bandNos : List Nat := List.range 8
/-- Whether a band is enabled (R25). -/
def State.bandOk (s : State) (b : Nat) : Bool := s.fuses.bands.getLsbD b

/-- The carrier-nanoseconds that a packet in flight has spent on band `b` between two times (R389, R438). -/
def Flight.spent (f : Flight) (b since now : Nat) : Nat :=
  if f.bands.getLsbD b then (min now f.stop - max since f.start) * (f.width / popcount f.bands) else 0

/-- What ONNS (2b) and TXNS (2b + 1) of band b have gained since they were last settled (R438). -/
def State.occGain (s : State) (i : Nat) : Nat :=
  let p := s.pkg
  if i % 2 = 0 then if s.bandOk (i / 2) && (s.band (i / 2)).isOn then s.tb - p.occAt else 0
  else ((p.sendq.flatMap fun q => q.2.flight).map fun f => f.spent (i / 2) p.occAt s.tb).sum

/-- The occupancy counters brought up to the present time base: index 2b is ONNS of band b and 2b + 1 its TXNS (R438). -/
def State.settleOcc (s : State) : State :=
  s.modPkg fun p => { p with
    occ := (List.range 16).foldl (fun o i => if s.occGain i = 0 then o else Store.set 0 o i (Store.get 0 o i + BitVec.ofNat 64 (s.occGain i))) p.occ,
    occAt := s.tb }

/-- A band changes its state. -/
def State.setBand (s : State) (b : Nat) (x : Band) : State :=
  s.settleOcc.modPkg fun p => { p with bands := Store.set .on p.bands b x }

/-- The occupancy counter with an index as it reads now. -/
def State.occNow (s : State) (i : Nat) : Word := Store.get 0 s.settleOcc.pkg.occ i

/-- A port counter of a fibre advances (R437): 0 TXPKT, 1 RXPKT, 2 RESEND, 3 DISCARD, 4 INTFAIL, 5 FECCOR. -/
def State.countPort (s : State) (fibre k : Nat) : State :=
  s.modPkg fun p => { p with
    fab := Store.set 0 p.fab (6 * fibre + k) (Store.get 0 p.fab (6 * fibre + k) + 1), moved := (2, fibre, k) :: p.moved }

/-- The fibres of a mask. -/
def fibresOf (m : BitVec 32) : List Nat := (List.range 32).filter fun f => m.getLsbD f
/-- A port counter advances on each of some fibres: a striped packet counts on every fibre that carries part of it (R437). -/
def State.countPorts (s : State) (fs : List Nat) (k : Nat) : State := fs.foldl (fun t f => t.countPort f k) s

/-! ## The rotation (R390 to R392) -/

/-- FIRST, LAST, PFIRST, PLAST and PV of SLOTCFG (R391). -/
def cfgFirst (w : Word) : Nat := (w.extractLsb' 0 6).toNat
/-- LAST. -/
def cfgLast (w : Word) : Nat := (w.extractLsb' 8 6).toNat
/-- Guard and whole span of an entry in ns (R390). -/
def entryGuard (w1 : Word) : Nat := (w1.extractLsb' 32 12).toNat * 10
/-- The whole span of an entry. -/
def entrySpan (w1 : Word) : Nat := ((w1.extractLsb' 44 20).toNat + (w1.extractLsb' 32 12).toNat) * 10
/-- QUOTA of an entry. -/
def entryQuota (w1 : Word) : Nat := (w1.extractLsb' 0 32).toNat

/-- The entries of the rotation, with their words. -/
def State.rotation (s : State) : List (Nat × Word × Word) :=
  ((List.range 64).filter fun k => cfgFirst s.pkg.slotcfg ≤ k && k ≤ cfgLast s.pkg.slotcfg).map fun k =>
    (k, (Store.get (0, 0) s.pkg.slots k).1, (Store.get (0, 0) s.pkg.slots k).2)
/-- The period of the rotation (R392). -/
def State.period (s : State) : Nat := (s.rotation.map fun x => entrySpan x.2.2).sum

/-- The entry whose span holds an offset of the rotation, and where the span begins. -/
def findEntry : List (Nat × Word × Word) → Nat → Nat → Option (Nat × Word × Word × Nat)
  | [], _, _ => none
  | (k, w0, w1) :: es, at_, off =>
    if off < at_ + entrySpan w1 then some (k, w0, w1, at_) else findEntry es (at_ + entrySpan w1) off

/-- Whether the entry in progress has run its span. -/
def State.slotOver (s : State) : Bool :=
  match s.pkg.slot with
  | none => true
  | some (_, start, _, w1) => start + entrySpan w1 ≤ s.tb

/-- SLOT_START: the span of the next entry begins, and its entry is read (R390, R392). -/
def execSlotStart (s : State) : Out :=
  let e := s.pkg.epoch.toNat
  if s.timeBase.isNone || !s.slotOver || s.tb < e then .next s
  else if s.period = 0 then .next (s.modPkg fun p => { p with slot := none })
  else
    let off := (s.tb - e) % s.period
    match findEntry s.rotation 0 off with
    | none => .next s
    | some (k, w0, w1, at_) =>
      .next (s.modPkg fun p => { p with slot := some (k, s.tb - (off - at_), w0, w1), accept := [] })

/-- The switch of the rotation, when it is due: at PEPOCH the pending selection is the rotation, and the slot in progress ends
(R392, R401). -/
def State.switchRotation (s : State) : State :=
  let w := s.pkg.slotcfg
  if s.timeBase.isNone || !w.getLsbD 63 || s.tb < s.pkg.pepoch.toNat then s
  else s.modPkg fun p => { p with
    slotcfg := (w &&& (0x3F3F0000 : Word)) ||| (w >>> 16 &&& (0x3F3F : Word)), epoch := p.pepoch, slot := none,
    switched := some s.cycle }

/-- ROTATION_SWITCH. -/
def execRotationSwitch (s : State) : Out := .next s.switchRotation

/-- SLOTCFG, EPOCH and PEPOCH written by software: in the cycle of a switch the hardware's update of PV, FIRST, LAST and EPOCH
stands, and the write is lost for those fields (R6, R391; log entry 97). -/
def State.putSlotcfg (s : State) (w0 w1 w2 : Word) : State :=
  let t := s.switchRotation
  let lost := t.pkg.switched = some t.cycle
  t.modPkg fun p => { p with
    slotcfg := if lost then (p.slotcfg &&& (0x3F3F : Word)) ||| (w0 &&& (0x3F3F0000 : Word)) else w0,
    epoch := if lost then p.epoch else w1, pepoch := w2 }

/-! ## Bands (R394, R395) -/

/-- DEPTH of a send queue (R349). -/
def SendQ.depth (q : SendQ) : Nat := (q.descs.map fun d => d.bytes.length).sum
/-- Whether the condition of the armed threshold holds: any queue, one that holds nothing too, has DEPTH ≥ THR (R395). -/
def State.overThreshold (s : State) : Bool := s.pkg.thr = 0 || s.pkg.sendq.any fun q => s.pkg.thr.toNat ≤ q.2.depth
/-- A band is parked; an armed one wakes at once while the threshold's condition holds (R395). -/
def State.parkNow (s : State) (b : Nat) : State :=
  s.setBand b (if s.pkg.armed.getLsbD b && s.overThreshold then .waking s.cycle else .parked)
/-- Whether a band still carries packets in flight. -/
def State.bandBusy (s : State) (b : Nat) : Bool :=
  s.pkg.sendq.any fun q => q.2.flight.any fun f => f.bands.getLsbD b && s.tb < f.stop

/-- PARK names a band (R394). -/
def State.parkBand (s : State) (b : Nat) : State :=
  match s.band b with
  | .on => if s.bandBusy b then s.setBand b .parking else s.parkNow b
  | .waking _ => s.parkNow b
  | .parking | .parked => s
/-- WAKE names a band (R394). -/
def State.wakeBand (s : State) (b : Nat) : State :=
  match s.band b with
  | .parked => s.setBand b (.waking s.cycle)
  | .on | .parking | .waking _ => s
/-- Every enabled band of a mask changed. -/
def State.eachBand (s : State) (m : BitVec 8) (f : State → Nat → State) : State :=
  (bandNos.filter fun b => m.getLsbD b && s.bandOk b).foldl f s

/-- BAND_PARKED (R394). -/
def execBandParked (band : BitVec 3) (s : State) : Out :=
  match s.band band.toNat with
  | .parking => if s.bandBusy band.toNat then .next s else .next (s.parkNow band.toNat)
  | .on | .parked | .waking _ => .next s

/-- BAND_WAKE_COMPLETE: relock and retrain have taken 2400 ns, which is 2520 cycles (R4, R394). -/
def execBandWakeComplete (band : BitVec 3) (s : State) : Out :=
  match s.band band.toNat with
  | .waking t => if s.cycle < 2520 + t then .next s else .next (s.setBand band.toNat .on)
  | .on | .parking | .parked => .next s

/-- THRESHOLD_FIRE (R395). -/
def execThresholdFire (s : State) : Out :=
  if s.pkg.armed = 0 || !s.overThreshold then .next s else .next (s.eachBand s.pkg.armed State.wakeBand)

/-! ## The instructions (R400 to R402) -/

/-- Whether the slot that performs is in supervisor mode, as at its bundle's issue (R82). -/
def State.supNow (s : State) : Bool := if s.core.cur.latched then s.core.cur.sup else s.core.sup

/-- A slot of supervisor mode: after its guard, and before any operand is taken, user mode faults PRIV (R401). -/
def State.supSlot (s : State) (c : Ctl) (rd : List IOp) (k : State → Out) : Out :=
  s.scalarSlot c [] [] fun t => if !t.supNow then t.fail .priv 0 else t.withOperands rd [] k

/-- An operation sets out for the fabric controller (R396). -/
def State.toController (s : State) (a b : Word) : State :=
  let p := s.newPend 0 a b 0
  let x : FabricOp := { node := s.node, core := s.me, pend := p.id, reach := p.due }
  (s.startPend p).modPkg fun q => { q with fabops := q.fabops ++ [x] }

/-- SLOTSEL (R401). -/
def execSlotsel (c : Ctl) (a b : IOp) (s : State) : Out :=
  s.supSlot c [a, b] fun t =>
    let x := t.src .a a
    if x.extractLsb' 14 50 != 0 || x.extractLsb' 6 2 != 0 || cfgLast x < cfgFirst x then t.fail .reservedField 0
    else .next (t.toController x (t.src .b b))

/-- PARK (R401). -/
def execPark (c : Ctl) (_mask : BitVec 8) (s : State) : Out := s.supSlot c [] fun t => .next (t.toController 0 0)

/-- WAKE (R401). -/
def execWake (c : Ctl) (_mask : BitVec 8) (s : State) : Out := s.supSlot c [] fun t => .next (t.toController 0 0)

/-- WAKE.thr (R401). -/
def execWakeThr (c : Ctl) (_mask : BitVec 8) (a : IOp) (s : State) : Out :=
  s.supSlot c [a] fun t =>
    if (t.src .a a).extractLsb' 32 32 != 0 then t.fail .reservedField 0
    else .next (t.toController (t.src .a a) 0)

/-- LINKST (R401). -/
def execLinkst (c : Ctl) (d a : IOp) (s : State) : Out :=
  s.scalarSlot c [a] [d] fun t =>
    let x := t.src .a a
    if x.extractLsb' 5 59 != 0 then t.fail .reservedField 0
    else
      let (w, u) := t.wrI d 0
      let p := u.newPend 0 x 0 0
      .next (u.startPend { p with dest := [w], perf := true })

/-- A mask of the bands that satisfy a test. -/
def State.bandMask (s : State) (f : Band → Bool) : Nat :=
  ((bandNos.filter fun b => s.bandOk b && f (s.band b)).map fun b => 2 ^ b).sum

/-- The link word of a fibre (R402). -/
def State.linkWord (s : State) (f : Nat) : Word :=
  let up := s.fuses.fibres.getLsbD f && s.pkg.up.getLsbD f
  let isWaking := fun (b : Band) => match b with
    | .waking _ => true
    | .on | .parking | .parked => false
  let (k, guard) := match s.pkg.slot with
    | none => (0, false)
    | some (k, start, _, w1) => (k, s.tb < start + entryGuard w1)
  BitVec.ofNat 64 ((if up then 2 ^ 63 else 0) + 2 ^ 48 * s.bandMask Band.isOn + 2 ^ 40 * s.bandMask isWaking
    + 2 ^ 32 * s.bandMask (· == .parked) + 2 ^ 24 * s.pkg.armed.toNat + 2 ^ 18 * k + (if guard then 2 ^ 17 else 0))

/-- The completion of a LINKST; none for other operations. -/
def State.completeLink (s : State) (p : Pend) : Option Out :=
  match p.op.instr with
  | .linkst .. =>
    some (if s.cycle < p.due then .next s
      else .next (s.finishPend p [(s.linkWord (p.op.a.extractLsb' 0 5).toNat).setWidth 2048]))
  | _ => none

/-- What an operation does at the controller (R394, R395, R401). -/
def State.applyFabric (s : State) (p : Pend) : State :=
  match p.op.instr with
  | .slotsel .. =>
    if p.op.b.toNat ≤ s.tb then s.faultPend p .range p.op.b
    else
      (s.putSlotcfg ((s.pkg.slotcfg &&& (0x3F3F : Word)) ||| (p.op.a &&& (0x3F3F : Word)) <<< 16 ||| (1 : Word) <<< 63)
        s.pkg.epoch p.op.b).dropPend p
  | .park _ m => (s.eachBand m State.parkBand).dropPend p
  | .wake _ m => (s.eachBand m State.wakeBand).dropPend p
  | .wakeThr _ m _ => (s.modPkg fun q => { q with armed := m, thr := p.op.a.extractLsb' 0 32 }).dropPend p
  | _ => s

/-- One operation that has reached the controller is applied and completes. -/
def State.applyOp (s : State) (x : FabricOp) : State :=
  match (s.coreAt x.core).pendOf x.pend with
  | none => s
  | some p => s.asCore x.core fun t => t.applyFabric p

/-- FABRIC_OP_APPLY: operations in the order in which they reach the controller, then by node and CORE (R396). -/
def execFabricOpApply (s : State) : Out :=
  let due := s.pkg.fabops.filter fun x => x.reach ≤ s.cycle
  let before := fun (x y : FabricOp) => x.reach < y.reach || (x.reach == y.reach && x.core ≤ y.core)
  let t := s.modPkg fun p => { p with fabops := p.fabops.filter fun x => s.cycle < x.reach }
  .next ((due.mergeSort before).foldl State.applyOp t)

/-! ## Packets out (R389, R392, R393, R399) -/

/-- The wire time of `f` flits over `c` carriers, in ns (R389). -/
def wireTime (f c : Nat) : Nat := ((64 * f + 16) * 8 * 16 + 1625 * c - 1) / (1625 * c)
/-- The flits of a payload. -/
def flitsOf (n : Nat) : Nat := (n + 63) / 64

/-- The bands that the slot in progress aims at a package (R392). -/
def State.aimed (s : State) (dest : Nat) : BitVec 8 :=
  match s.pkg.slot with
  | none => 0
  | some (_, _, w0, _) =>
    if dest = s.pkgIndex then 0
    else
      BitVec.ofNat 8 ((bandNos.filter fun b => w0.getLsbD (8 + b) && s.bandOk b && s.band b == .on
        && (w0.extractLsb' (16 + 6 * b) 6).toNat == dest).map fun b => 2 ^ b).sum
/-- The fibres over which packets to a package are striped (R392, R397). -/
def State.fibresTo (s : State) (dest : Nat) : List Nat :=
  (List.range 32).filter fun f => s.fuses.fibres.getLsbD f && s.pkg.up.getLsbD f && !s.pkg.avoid.contains (dest, f)

/-- The channel to which a carrier towards a package is tuned: w = (D - i) mod 64 (R388). -/
def State.channelTo (s : State) (dest : Nat) : BitVec 6 := BitVec.ofNat 6 (64 + dest - s.pkgIndex)

/-- What a queue may send now: the time at which a packet must have ended, the bytes of QUOTA left, and the carriers. -/
def State.sendWindow (s : State) (dest : Nat) : Option (Nat × Nat × Nat) :=
  let q := Store.get SendQ.none s.pkg.sendq dest
  let c := popcount (s.aimed dest) * (s.fibresTo dest).length
  match s.pkg.slot with
  | none => none
  | some (_, start, _, w1) =>
    let z := start + entrySpan w1
    let z := if s.pkg.slotcfg.getLsbD 63 then min z s.pkg.pepoch.toNat else z
    let sent := if q.slotAt = start then q.sent else 0
    if c = 0 || s.tb < start + entryGuard w1 || z ≤ s.tb || s.tb < q.busy || (q.shut && q.slotAt = start) then none
    else some (z, entryQuota w1 - sent, c)

/-- The payload of the next packet (R393). -/
def nextPayload (t z quota c left : Nat) : Nat :=
  let n := min 1024 (min left quota)
  if t + wireTime (flitsOf n) c ≤ z then n
  else
    match ((List.range 17).reverse).find? fun f => t + wireTime f c ≤ z with
    | some f => min n (64 * f)
    | none => 0

/-- A descriptor cut after `n` bytes: what goes now, and what is left. -/
def Desc.cut (d : Desc) (n : Nat) : Desc × Desc :=
  ({ d with bytes := d.bytes.take n },
   { d with bytes := d.bytes.drop n, dest := if d.rq then d.dest else addOffset d.dest (BitVec.ofNat 64 n) })

/-- The key of the partition's packets: the installed one of its job (R398, R399); log entry 95 where there is none. -/
def State.packetKey (s : State) : BitVec 256 :=
  let job := s.pkg.part.map (·.id)
  (((List.range 4).filterMap fun k => Store.get none s.pkg.keys k).find? fun x => some x.1 == job).elim Config.noKey (·.2)
/-- The IV of a packet: source package × 64 + destination package, then the send queue's counter (R399). -/
def packetIv (src dest : Nat) (ctr : Word) : BitVec 96 := BitVec.ofNat 32 (src * 64 + dest) ++ ctr
/-- What a packet is on the wire: its header authenticated, its payload encrypted, and the tag (R399). -/
def State.sealPacket (s : State) (iv : BitVec 96) (seq : Nat) (dest : Word) (rq : Bool) (bs : List Byte) : List Byte :=
  Config.aesGcm s.packetKey iv (Config.packetHeader seq dest rq) bs

/-- When the slot in progress began; 0 where there is none. -/
def State.slotStart (s : State) : Nat :=
  match s.pkg.slot with
  | some (_, x, _, _) => x
  | none => 0

/-- A packet sets out: its IV, its wire form, its channel and its carriers, and the port counters (R388, R393, R399, R437). -/
def State.sendPacket (s : State) (dest seq c : Nat) (d : Desc) (resend : Bool) : State :=
  let q := Store.get SendQ.none s.pkg.sendq dest
  let start := s.slotStart
  let iv := packetIv s.pkgIndex dest q.iv
  let f : Flight :=
    { seq := seq, iv := iv, wire := s.sealPacket iv seq d.dest d.rq d.bytes, start := s.tb,
      stop := s.tb + wireTime (flitsOf d.bytes.length) c, width := c, bands := s.aimed dest, chan := s.channelTo dest, desc := d }
  let q' : SendQ :=
    { q with flight := if resend then q.flight.map (fun x => if x.seq = seq then f else x) else q.flight ++ [f],
             iv := q.iv + 1, busy := f.stop, sent := (if q.slotAt = start then q.sent else 0) + d.bytes.length, shut := false,
             slotAt := start }
  let t := (s.settleOcc.modPkg fun p => { p with sendq := Store.set SendQ.none p.sendq dest q' }).countPorts (s.fibresTo dest) 0
  if resend then t.countPorts (s.fibresTo dest) 2 else t

/-- The oldest packet of a queue that is not acknowledged within two periods (R393). -/
def State.overdue (s : State) (dest : Nat) : Option Flight :=
  (Store.get SendQ.none s.pkg.sendq dest).flight.find? fun f => f.stop + 2 * s.period ≤ s.tb

/-- PACKET_START: the next packet of a send queue; where nothing of it fits, the queue sends nothing more until the slot's
end (R393). -/
def execPacketStart (dest : BitVec 6) (s : State) : Out :=
  let k := dest.toNat
  let q := Store.get SendQ.none s.pkg.sendq k
  match q.descs, s.sendWindow k with
  | d :: ds, some (z, quota, c) =>
    let n := nextPayload s.tb z quota c d.bytes.length
    if (s.overdue k).isSome then .next s
    else if n = 0 then .next (s.modPkg fun p => { p with sendq := Store.set SendQ.none p.sendq k { q with
      sent := if q.slotAt = s.slotStart then q.sent else 0, shut := true, slotAt := s.slotStart } })
    else if q.iv = ones then .next (s.bareFault .integrity)
    else
      let (x, y) := d.cut n
      let rest := if y.bytes.isEmpty then ds else y :: ds
      let t := s.sendPacket k q.seq c x false
      .next (t.modPkg fun p =>
        let r := Store.get SendQ.none p.sendq k
        { p with sendq := Store.set SendQ.none p.sendq k { r with descs := rest, seq := q.seq + 1 } })
  | _, _ => .next s

/-- PACKET_RESEND: an overdue packet goes again before every later one (R393). -/
def execPacketResend (dest : BitVec 6) (s : State) : Out :=
  let k := dest.toNat
  match s.overdue k, s.sendWindow k with
  | some f, some (z, quota, c) =>
    let n := f.desc.bytes.length
    if quota < n || z < s.tb + wireTime (flitsOf n) c then .next s
    else if (Store.get SendQ.none s.pkg.sendq k).iv = ones then .next (s.bareFault .integrity)
    else .next (s.sendPacket k f.seq c f.desc true)
  | _, _ => .next s

/-- Whether anything of a copy or transfer is still to be sent or acknowledged. -/
def SendQ.owes (q : SendQ) (d : Desc) : Bool :=
  let same := fun (x : Desc) => x.core == d.core && x.copyId == d.copyId && x.coll == d.coll
  q.descs.any same || q.flight.any fun f => same f.desc

/-- The last packet of a transfer of a collective has been acknowledged (R355, R358); none while its target's page is not
present (R140). -/
def State.transferAcked (s : State) (d : Desc) (die id t : Nat) : Option State :=
  match s.collOf die id with
  | none => some s
  | some c =>
    if d.red then some s
    else
      let u := s.setColl die { c with unacked := c.unacked.filter fun x => x.1 != t }
      match u.memberKeys (u.collCore c) d.node (dstOf c.rec_ t) d.data.length with
      | .keys ks => some (u.enginePut (u.collCore c) 1 ks d.data)
      | .fail f a => some (u.failColl die c 2 0 f a)
      | .wait _ => none

/-- The payload of a packet is performed at its target, or its fault comes back (R351); none while the target's page is not
present (R140). -/
def State.performPacket (s : State) (d : Desc) : Option State :=
  if d.rq || d.coll.isSome then some s
  else
    match s.engineKeys d.core .write 2 d.dest d.bytes.length with
    | .keys ks => some (s.enginePut d.core 1 ks d.bytes)
    | .wait _ => none
    | .fail f a =>
      match (s.coreAt d.core).copies.find? fun x => x.id == d.copyId && x.stage == .handed with
      | none => some s
      | some y => some (s.failCopy d.core y f a)

/-- A packet that its target has taken leaves its queue, and a SEND's payload counts as performed (R433); the last of an operation
ends it (R351, R358). -/
def State.packetTaken (s : State) (k seq : Nat) (d : Desc) : State :=
  let t := (if d.coll.isSome then s.settleOcc else s.settleOcc.countAt d.core 15 (flitsOf d.bytes.length)).modPkg fun p =>
    let q := Store.get SendQ.none p.sendq k
    { p with sendq := Store.set SendQ.none p.sendq k { q with flight := q.flight.filter fun x => x.seq != seq } }
  if (Store.get SendQ.none t.pkg.sendq k).owes d then t
  else
    match d.coll with
    | some (die, id, w) => (t.transferAcked d die id w).getD s
    | none =>
      match (t.coreAt d.core).copies.find? fun x => x.id == d.copyId && x.stage == .handed with
      | none => t
      | some y => t.copyDone d.core y

/-- PACKET_ACK: the receiver has acknowledged a packet (R393); one whose target waits for a page stays in flight. -/
def execPacketAck (dest : BitVec 6) (seq : Nat) (s : State) : Out :=
  let k := dest.toNat
  match (Store.get SendQ.none s.pkg.sendq k).flight.find? fun f => f.seq == seq with
  | none => .next s
  | some f =>
    if s.tb < f.stop then .next s
    else
      match s.performPacket f.desc with
      | none => .next s
      | some t => .next (t.packetTaken k seq f.desc)

/-! ## Packets in (R350, R388, R397) -/

/-- What a packet's payload meets at its node: it has been entered, or it must wait. -/
def State.enterPacket (s : State) (node : Nat) (p : Packet) : Option State :=
  if p.rq then
    let q := node % 4 * 64 + (p.dest.extractLsb' 0 6).toNat
    if s.rqRoom q p.bytes.length then some (s.pushRq q p.bytes) else none
  else
    match s.engineKeys (node % 4 * 144) .write 2 (BitVec.ofNat 64 (p.dest.toNat % 2 ^ 52)) p.bytes.length with
    | .keys ks => some ((keyRuns (ks.zip p.bytes)).foldl (fun t x => t.perform none 1 x.1 x.2) s)
    | .fail .. => some s
    | .wait _ => none

/-- A packet from a package is acknowledged (R393). -/
def State.acknowledge (s : State) (src seq : Nat) : State := s.modPkg fun p => { p with acks := Store.set 0 p.acks src (seq + 1) }

/-- Packets that wait enter in send order, as long as their targets take them; copies of one by a resend go with it (R350,
R393). -/
def State.enterWaiting (s : State) (src : Nat) : Nat → State
  | 0 => s
  | fuel + 1 =>
    let n := Store.get 0 s.pkg.gotSeq src
    match s.pkg.waiting.find? fun x => x.2.src.toNat == src && x.2.seq == n with
    | none => s
    | some x =>
      match s.enterPacket x.1.toNat x.2 with
      | none => s
      | some t => ((t.modPkg fun p => { p with
          waiting := p.waiting.filter fun y => y.2.src != x.2.src || y.2.seq != n,
          gotSeq := Store.set 0 p.gotSeq src (n + 1) }).acknowledge src n).enterWaiting src fuel

/-- A fibre goes down, and the host is told (R397, R444). -/
def State.fibreDown (s : State) (f : Nat) : State :=
  (s.modPkg fun p => { p with up := p.up &&& ~~~((1 : BitVec 32) <<< f) }).sendNotice [BitVec.ofNat 64 f]

/-- An integrity failure at some ports: each is counted and goes down, and the grid faults once (R397, R435, R437; log entry
95). -/
def State.failPorts (s : State) (fs : List Nat) : State :=
  (fs.foldl (fun t f => (t.countPort f 4).fibreDown f) s).bareFault .integrity

/-- The ports (fibre × 8 + band) that take part of a packet. -/
def packetPorts (p : Packet) : List Nat :=
  (fibresOf p.fibres).flatMap fun f => (bandNos.filter fun b => p.bands.getLsbD b).map fun b => f * 8 + b

/-- Whether a packet comes to this package at all: its channel ends here, and its carriers are there and up (R28, R388). -/
def State.arrives (s : State) (p : Packet) : Bool :=
  (p.src.toNat + p.chan.toNat) % 64 == s.pkgIndex && !(packetPorts p).isEmpty
    && (fibresOf p.fibres).all (fun f => s.fuses.fibres.getLsbD f && s.pkg.up.getLsbD f)
    && bandNos.all fun b => !p.bands.getLsbD b || s.bandOk b

/-- Whether a port takes a channel: the first of its band whose packet begins after the guard (R388). -/
def State.portTakes (s : State) (chan : BitVec 6) (port : Nat) : Bool :=
  match s.pkg.slot with
  | none => true
  | some (_, start, _, w1) =>
    start + entryGuard w1 ≤ s.tb &&
      match s.pkg.accept.find? fun x => x.1 == port with
      | none => true
      | some x => x.2 == chan.toNat

/-- The ports that take a packet keep its channel for the rest of the slot (R388). -/
def State.keepChannel (s : State) (p : Packet) : State :=
  let ps := (packetPorts p).filter (s.portTakes p.chan)
  s.modPkg fun q => { q with accept := ps.map (·, p.chan.toNat) ++ q.accept.filter fun x => !ps.contains x.1 }

/-- Whether what came over the wire is what the key of the partition makes of the packet (R399). -/
def State.authentic (s : State) (p : Packet) : Bool :=
  s.sealPacket (packetIv p.src.toNat s.pkgIndex p.ctr) p.seq p.dest p.rq p.bytes == p.wire

/-- The corrected codewords of a packet counted on their fibres (R437). -/
def State.countFec (s : State) (p : Packet) : State :=
  p.fec.foldl (fun t x => (List.range x.2).foldl (fun u _ => u.countPort x.1.toNat 5) t) s

/-- PACKET_RECEIVE: the ports accept a packet for a node, or discard it; an accepted one enters memory or a receive
queue in the order of its send queue, and is acknowledged (R350, R388, R393). A packet is accepted where every port that takes
part of it accepts its channel. -/
def execPacketReceive (node : BitVec 8) (p : Packet) (s : State) : Out :=
  let src := p.src.toNat
  if s.pkg.waiting.contains (node, p) then .next (s.enterWaiting src (s.pkg.waiting.length + 1))
  else if !s.ownNode node.toNat || !s.arrives p then .next s
  else
    let s := s.countFec p
    let closed := (packetPorts p).filter fun x => !s.portTakes p.chan x
    if !s.authentic p then .next (s.failPorts (fibresOf p.fibres))
    else if !closed.isEmpty then .next ((s.keepChannel p).countPorts (closed.map (· / 8)).dedup 3)
    else
      let t := (s.keepChannel p).countPorts (fibresOf p.fibres) 1
      if p.seq < Store.get 0 t.pkg.gotSeq src then .next (t.acknowledge src p.seq)
      else
        let u := t.modPkg fun q => { q with waiting := q.waiting ++ [(node, p)] }
        .next (u.enterWaiting src (u.pkg.waiting.length + 1))

/-- INTEGRITY_FAILURE (R397). -/
def execIntegrityFailure (fibre : BitVec 5) (s : State) : Out :=
  if !s.fuses.fibres.getLsbD fibre.toNat || !s.pkg.up.getLsbD fibre.toNat then .next s else .next (s.failPorts [fibre.toNat])

/-- LINK_LAYER_NOTICE: this package no longer stripes over a fibre towards the package where it failed (R397). -/
def execLinkLayerNotice (pkg : BitVec 6) (fibre : BitVec 5) (s : State) : Out :=
  .next (s.modPkg fun p => { p with
    avoid := if p.avoid.contains (pkg.toNat, fibre.toNat) then p.avoid else (pkg.toNat, fibre.toNat) :: p.avoid })

/-! ## A member leaves (R279, R360, R387) -/

/-- The operations of a core that are outstanding towards a package end with REMOTE_INDETERMINATE (R279). -/
def State.losePends (s : State) (e pkg : Nat) : State :=
  ((s.coreAt e).pend.filter fun p => p.peer && p.vas.any fun v => offOf v / 2 ^ 52 / 4 == pkg).foldl
    (fun t p => t.asCore e fun u => u.failAccess p .remoteIndeterminate (p.vas.headD 0)) s

/-- The node of a package that the walk of a collective targets (R360; log entry 94). -/
def State.lostNode (s : State) (pkg : Nat) (c : Coll) : Option Nat :=
  if c.ended.isSome then none else ((List.range 4).map (4 * pkg + ·)).find? (walkTargets s.mesh c.rec_)

/-- The collectives of die `d` whose walk targets a node of a lost package end, whatever this node's own part in the walk
(R360). -/
def State.loseColls (s : State) (d pkg : Nat) : State :=
  (s.dieAt d).colls.foldl (fun t c =>
    match s.lostNode pkg c with
    | some n => t.failColl d c 1 n .memberLost 0
    | none => t) s

/-- Its RESHARDs end (R387). -/
def State.loseReshards (s : State) (d : Nat) : State :=
  (s.dieAt d).reshards.foldl (fun t r => t.endReshard d r (some (.memberLost, 0))) s

/-- A send queue that holds nothing; its IV counter goes on, which only the installation of a key sets to zero (R399, R440). -/
def SendQ.emptied (q : SendQ) : SendQ := { SendQ.none with iv := q.iv }

/-- The copies handed to the send queue of a lost package end, and the queue is empty. -/
def State.loseSends (s : State) (pkg : Nat) : State :=
  let q := Store.get SendQ.none s.pkg.sendq pkg
  let ds := q.descs ++ q.flight.map (·.desc)
  let t := s.settleOcc.modPkg fun p => { p with sendq := Store.set SendQ.none p.sendq pkg q.emptied }
  ds.foldl (fun u d =>
    match (u.coreAt d.core).copies.find? fun x => x.id == d.copyId && x.stage == .handed && d.coll.isNone with
    | none => u
    | some y => u.failCopy d.core y .remoteUnreachable d.dest) t

/-- MEMBER_LOST is counted once at every die where it faults the grid (R435). -/
def State.countLost (s : State) (pkg : Nat) : State :=
  if (List.range 4).any fun d => !(s.dieAt d).reshards.isEmpty || (s.dieAt d).colls.any fun c => (s.lostNode pkg c).isSome then
    s.countAll .memberLost
  else s

/-- A package has left the partition: everything of this package that needs it ends, and it is no member. -/
def State.loseMember (s : State) (pkg : Nat) : State :=
  let t := (s.cores.map (·.1)).foldl (fun u e => u.losePends e pkg) (s.countLost pkg)
  let t := (List.range 4).foldl (fun (u : State) d => (u.loseColls d pkg).loseReshards d) t
  (t.loseSends pkg).modPkg fun p => { p with
    part := p.part.map fun x => { x with others := x.others.filter fun m => m.pkg.toNat != pkg } }

/-- MEMBER_LOST_NOTICE (R360). -/
def execMemberLostNotice (pkg : BitVec 6) (s : State) : Out :=
  if s.others.any fun m => m.pkg == pkg then .next (s.loseMember pkg.toNat) else .next s

end Sys2Proof.Machine
end

