-- ==== Sys2Proof/Machine/Preempt.lean ====
section
/-! DEFINITION. Pre-emption and resume: the freeze of a core's task, the writing of its save area, and the task that a
resume loads from one (R144 to R147, R212 to R214, R238). -/

namespace Sys2Proof.Machine

/-! ## The freeze (R144, R147) -/

/-- Whether a fault or a trap of the core comes before a request (R147). -/
def Core.beforeFreeze (c : Core) : Bool :=
  !c.late.isEmpty || !c.raised.isEmpty || !c.todo.isEmpty || c.restart.isSome || match c.wait with
    | some (.trap _) | some .eret => true
    | _ => false

/-- The request is taken in the present cycle: fetch freezes and the translations are held (R144, step 1). -/
def State.takeFreeze (s : State) (h : HostHdr) (e : Nat) (heads : List Nat) : State :=
  (s.modPkg fun p => { p with
    freeze := some { h := h, core := e, at_ := s.cycle, heads := heads, db := s.readSpecial e 28 } }).modCoreAt e
      fun c => { c with run := .draining s.cycle }

/-- Whether a started job is over or stands at its pre-emption point, tail included (R212). -/
def TJob.rests (now : Nat) (j : TJob) : Bool :=
  j.card.isSome || j.start.isNone || (j.stopped && ((mmaOf j.op.instr).isNone || j.start.getD 0 + j.live + 96 ≤ now))

/-- Whether the drain of a freeze is over (R144, steps 2 and 3, R212, R304). -/
def Core.freezeReady (c : Core) (f now : Nat) : Bool :=
  (c.land.all fun l => f < l.due) && c.raised.isEmpty && c.todo.isEmpty && c.restart.isNone
    && c.mwait.isNone
    && c.jobs.all (·.rests now) && (List.range 32).all fun t => c.tileState t == 0 || c.tileState t == 2

/-- The save area is written under the translations held, and the area is then the one copy of what it holds (R144,
step 4). -/
def State.writeArea (s : State) (z : Freeze) : State :=
  let bs := (s.coreAt z.core).areaBytes z (s.areaSpecials z)
  let t := s.modCoreAt z.core fun c => { c with run := .frozen z.at_, land := [], kept := c.landKept z.at_, gate := [] }
  let t : State := { t with
    monitors := t.monitors.filter fun m => m.core != z.core, seen := t.seen.filter fun m => m.core != z.core }
  t.areaPut z.core z.heads 0 bs

/-! ## What an area holds (R145, R146) -/

/-- Entries of a region: a count and where the n-th stands. -/
def entries (n base size : Nat) : List Nat := (List.range n).map fun i => base + size * i

/-- LATN, GATEN, HELDN, LLBN and LQN of a header's w2. -/
def areaCounts (w2 : Word) : Nat × Nat × Nat × Nat × Nat :=
  ((w2.extractLsb' 32 4).toNat, gateCount w2, (w2.extractLsb' 20 5).toNat, (w2.extractLsb' 13 7).toNat,
    (w2.extractLsb' 7 6).toNat)

/-- Whether a sticky entry has a fault of form. -/
def badSticky (rd : AreaRead) (o slot : Nat) : Bool :=
  (areaWord rd o 7).extractLsb' 5 59 != 0
    || ((areaWord rd o 7).getLsbD 0 && match decodeSlot slot (areaWord rd o 0) with
      | .ok _ => false
      | .error _ => true)
/-- Whether a landing entry has one. -/
def badLanding (rd : AreaRead) (o : Nat) : Bool :=
  let w1 := areaWord rd o 1
  let w3 := areaWord rd o 3
  w1.extractLsb' 16 48 != 0 || 6 ≤ (w1.extractLsb' 8 8).toNat
    || (if w1.extractLsb' 8 8 = 4 then w3.extractLsb' 6 58 != 0 else w3 != 0)
    || (4 ≤ (w1.extractLsb' 8 8).toNat && rd (o + 40) 248 != 0)
/-- Whether a held entry has one. -/
def badHeld (rd : AreaRead) (o : Nat) : Bool :=
  (areaWord rd o 1).extractLsb' 0 3 != 0 || (areaWord rd o 3).extractLsb' 8 56 != 0
    || (decodeTableWord 64 (areaWord rd o 0).toNat).isNone
/-- The bits of a gated lane's address that no field of its tag holds (R146). -/
def gateSpare (tag : Nat) : Word :=
  if tag ≤ 1 then 0x03F0000000000000 else if tag = 4 then 0x00FFFFFFFFF80000 else 0
/-- Whether a gate entry has one. -/
def badGate (rd : AreaRead) (o : Nat) : Bool :=
  (areaWord rd o 0 &&& ~~~(0x303FF : Word)) != 0 || ((List.range 4).any fun i => areaWord rd o (4 + i) != 0)
    || (List.range 64).any fun j => (areaWord rd o 3).getLsbD j
        && areaWord rd (o + 64) j &&& gateSpare (tagOf (areaWord rd (o + 64) j)) != 0
/-- Whether a LATHE entry has one. -/
def badLathe (rd : AreaRead) (o : Nat) : Bool :=
  (areaWord rd o 2).extractLsb' 0 3 != 0 || (areaWord rd o 3).extractLsb' 0 28 != 0
    || ((areaWord rd o 3).getLsbD 63 && (decodeTableWord 64 (areaWord rd o 0).toNat).isNone)

/-- Whether a tile image has a non-zero reserved field (R200). -/
def badTile (rd : AreaRead) (t : Nat) : Bool :=
  let w := areaWord rd (0x20100 + 64 * t)
  (w 0).getLsbD 60 || (w 0).getLsbD 53 || (w 3).extractLsb' 32 24 != 0 || (w 6).extractLsb' 0 3 != 0 || w 7 != 0

/-- The special registers that resume reloads: those that are not RO, but for CLSHARE, which is the cluster's, and SPECW,
which stays live (R144, R145, R150). -/
def reloaded : List Nat := [6, 7, 8, 9, 10, 11, 13, 16, 17, 18, 19, 20, 21, 22, 23, 24, 26, 29, 30, 31]

/-- A non-zero reserved field, or a count above its limit (R145). -/
def badArea (rd : AreaRead) : Bool :=
  let w := areaWord rd 0
  let n := areaCounts (w 2)
  (w 0).extractLsb' 1 47 != 0 || (w 2).extractLsb' 36 28 != 0 || (w 2).extractLsb' 0 7 != 0 || (w 3).extractLsb' 11 53 != 0
    || ((List.range 4).any fun i => w (4 + i) != 0)
    || 8 < n.1 || 64 < n.2.1 || 16 < n.2.2.1 || 64 < n.2.2.2.1 || 32 < n.2.2.2.2
    || rd 0x2C8 56 != 0 || rd 0x44900 0x3700 != 0
    || (reloaded.any fun i => specialRefuses i (areaWord rd 0x40 i))
    || ((List.range 4).any fun j => badSticky rd (0x380 + 64 * j) (4 + j))
    || ((w 3).getLsbD 0 && (List.range 4).any fun j => badSticky rd (0xF000 + 64 * j) (4 + j))
    || ((List.range 4).any fun j => badLathe rd (0x480 + 32 * j))
    || (entries (min 16 n.2.2.1) 0x4500 0x340).any (badHeld rd)
    || (entries (min 32 n.2.2.2.2) 0x7900 0x120 ++ entries (min 64 n.2.2.2.1) 0x9D00 0x120
        ++ entries (min 8 n.1) 0xE500 0x120).any (badLanding rd)
    || (entries (min 64 n.2.1) 0x13100 0x340).any (badGate rd) || (List.range 32).any (badTile rd)

/-- A sparse file of `n` items. -/
def storeOf {α : Type} [DecidableEq α] (d : α) (n : Nat) (f : Nat → α) : Store α :=
  (List.range n).foldl (fun m i => Store.set d m i (f i)) []

/-- SREG at an offset. -/
def loadSreg (rd : AreaRead) (o : Nat) : Store Word := storeOf 0 32 (areaWord rd o)
/-- PREG at an offset; p0 is not held. -/
def loadPreg (rd : AreaRead) (o : Nat) : Store Word := storeOf 0 16 fun i => if i = 0 then 0 else areaWord rd o i
/-- VREG at an offset. -/
def loadVreg (rd : AreaRead) (o : Nat) : Store VReg := storeOf 0 64 fun i => areaVec rd (o + 256 * i)

/-- A sticky entry of a slot; what the area has no place for is the core's own (log entry 24). -/
def loadSticky (rd : AreaRead) (o slot : Nat) (own : List Sticky) : Option Sticky :=
  let w := areaWord rd o
  if !(w 7).getLsbD 0 then none
  else
    match decodeSlot slot (w 0) with
    | .error _ => none
    | .ok i =>
      let base := ((own.find? fun x => x.op.slot == slot).map (·.op)).getD SlotOp.none
      some { op := { base with
               slot := slot, instr := i, latched := 6 ≤ slot, d := w 1, a := w 2, b := w 3,
               bar := barOf ((w 7).getLsbD 1) ((w 7).extractLsb' 2 3) },
             stepA := w 4, stepB := w 5, k := (w 6).toNat }
/-- The STICKY region at an offset. -/
def loadStickies (rd : AreaRead) (o : Nat) (own : List Sticky) : List Sticky :=
  (List.range 4).filterMap fun j => loadSticky rd (o + 64 * j) (4 + j) own

/-- A landing that the core kept nothing of. -/
def Landing.none : Landing :=
  { due := 0, placed := 0, slot := 0, num := 0, bundle := 0, llb := false, latch := false, writes := [], vas := [] }

/-- A landing entry, due at cycle `g` plus its offset. What the area has no place for is the core's own: the issue and slot
that order it (R71), its bundle, and the pages of a load (R259; log entry 24). -/
def loadLanding (rd : AreaRead) (g : Nat) (llb latch : Bool) (o : Nat) (own : Landing) : Landing :=
  let w := areaWord rd o
  { own with
    due := g + (w 0).toNat, placed := 0, llb := llb, latch := latch,
    writes := [{ kind := wrKindOf ((w 1).extractLsb' 8 8).toNat, idx := ((w 1).extractLsb' 0 8).toNat, mask := w 2,
                 val := areaVec rd (o + 32), room := ((w 3).extractLsb' 0 6).toNat }] }
/-- The landing entries of a region. -/
def loadLandings (c : Core) (rd : AreaRead) (g n base : Nat) (llb latch : Bool) : List Landing :=
  let own := c.kept.filter fun l => l.llb == llb && l.latch == latch
  (entries n base 0x120).zipIdx.map fun x => loadLanding rd g llb latch x.1 (own.getD x.2 Landing.none)

/-- A held entry; its slot and its bases are the core's own (log entry 24). -/
def loadHeld (rd : AreaRead) (o : Nat) (own : Nat × SlotOp) : Nat × SlotOp :=
  let w := areaWord rd o
  let x := own.2
  let vector := x.slot == 4 || x.slot == 5
  let i := (decodeTableWord 64 (w 0).toNat).getD x.instr
  (own.1, { x with
    instr := i, bundle := w 1 &&& ~~~7#64,
    guard := if vector then w 2 else if (w 2).getLsbD 0 then ones else 0,
    fmode := BitVec.ofNat 64 ((w 3).extractLsb' 4 4).toNat, bar := barOf ((w 3).getLsbD 3) ((w 3).extractLsb' 0 3),
    d := if scalarAt i .d then w 4 else x.d, a := if scalarAt i .a then w 5 else x.a,
    b := if scalarAt i .b then w 6 else x.b, c := if scalarAt i .c then w 7 else x.c,
    va := if vector then areaVec rd (o + 64) else x.va, vb := if vector then areaVec rd (o + 320) else x.vb,
    vc := if vector then areaVec rd (o + 576) else x.vc })

/-- The slot in which a held operation without a live copy stands. -/
def heldBase (c : Core) (rd : AreaRead) (o : Nat) : Nat × SlotOp :=
  (c.issues, { SlotOp.none with
    latched := true, slot := match opClass ((areaWord rd o 0).extractLsb' 54 10).toNat with
      | some k => k.slot
      | none => 4 })

/-- A LATHE entry on top of the core's own job (R213, R214, R238; log entry 24). -/
def loadLathe (c : Core) (rd : AreaRead) (g share o : Nat) (j : TJob) : TJob :=
  let w := areaWord rd o
  let i := (decodeTableWord 64 (w 0).toNat).getD j.op.instr
  let b := match i with
    | .mmas .. => insertField j.op.b ((w 3).extractLsb' 28 19 |>.setWidth 64) 0 19
    | _ => j.op.b
  let stop := (w 3).getLsbD 62
  let left := (j.op.b.extractLsb' 0 24).toNat - c.scarab.n.toNat
  { j with
    op := { j.op with
      instr := i, a := w 1, b := b, bundle := w 2 &&& ~~~7#64,
      fmode := BitVec.ofNat 64 ((w 3).extractLsb' 51 4).toNat,
      bar := barOf ((w 3).getLsbD 50) ((w 3).extractLsb' 47 3) },
    draw := match i with
      | .smm .. => BitVec.ofNat 64 share
      | _ => j.draw,
    start := if stop then some g else none, due := if stop then 0 else g,
    rows := if stop then ((w 3).extractLsb' 55 7).toNat else 0,
    live := match i with
      | .smm .. => if stop then g + batchTime (jobN (w 1)) (min 16 left) else 0
      | _ => 0 }

/-- A job without a live copy. -/
def latheBase (c : Core) (k : Nat) : TJob :=
  { id := c.nextId + k, op := { SlotOp.none with latched := true, slot := 6, b := 0x5000000000000000 }, own := c.owner, start := none, due := 0,
    rows := 0, live := 0, draw := 0, fill := [], card := none }

/-- The tile-control job that tile `t` of an area holds in PEND, on top of the core's own where it has one (R200, R214). -/
def loadControl (c : Core) (rd : AreaRead) (t : Nat) : Option TJob :=
  let w := areaWord rd (0x20100 + 64 * t)
  if !(w 3).getLsbD 63 then none
  else
    let own := c.jobs.find? fun j => j.start.isNone && jobPath j.op.instr == some .fetch && (jobTiles j.op.instr).contains t
    let j := own.getD (latheBase c (4 + t))
    let k : Ctl := (ctlOf j.op.instr).getD plainCtl
    let i : BitVec 5 := BitVec.ofNat 5 t
    some { j with op := { j.op with
      instr := match ((w 3).extractLsb' 61 2).toNat with
        | 0 => .tbind k i (.s 0)
        | 1 => .tfetch k i (.s 0) (.s 0) ((w 3).getLsbD 60)
        | 2 => .trel k i
        | _ => .tbindUnb k i,
      a := w 4, b := w 5, bundle := w 6 &&& ~~~7#64, bar := barOf ((w 3).getLsbD 59) ((w 3).extractLsb' 56 3) } }

/-- The jobs after a resume: those of the area in the place of the core's own, the waiting tile-control jobs of its tile
images, and those that no entry holds. -/
def loadJobs (c : Core) (rd : AreaRead) (g share : Nat) : List TJob :=
  let own := c.latheJobs
  let valid := fun (k : Nat) => (areaWord rd (0x480 + 32 * k) 3).getLsbD 63
  (c.jobs.filterMap fun j =>
    match own.findIdx? fun x => x.id == j.id with
    | none => if j.start.isNone && j.card.isNone then none else some j
    | some k => if k < 4 && valid k then some (loadLathe c rd g share (0x480 + 32 * k) j) else none)
  ++ (List.range 32).filterMap (loadControl c rd)
  ++ ((List.range 4).filter fun k => own.length ≤ k && valid k).map fun k =>
    loadLathe c rd g share (0x480 + 32 * k) (latheBase c k)

/-- A wait that resumes: a stamp wait translates and reads again (R362, R363). -/
def Wait.again : Wait → Wait
  | .stamp p e acq _ => .stamp p e acq false
  | .any m acq clr _ => .any m acq clr false
  | w => w

/-- The mark's snapshot of an area; the mark bundle's address is the core's own. -/
def loadShadow (c : Core) (rd : AreaRead) : Snapshot :=
  let w := areaWord rd 0xEF80
  { pc := (c.shadow.map (·.pc)).getD c.pc, s := loadSreg rd 0xEE00, p := loadPreg rd 0xEF00, vrb := w 0, prb := w 1,
    lc := w 2, ec := w 3, fmode := w 4,
    sticky := loadStickies rd 0xF000 ((c.shadow.map (·.sticky)).getD []), v := loadVreg rd 0xF100 }

/-- The core that a resume in cycle `g` makes of its area (R145, R214). -/
def State.loadCore (s : State) (e : Nat) (rd : AreaRead) (g : Nat) : Core :=
  let c := s.coreAt e
  let n := areaCounts (areaWord rd 0 2)
  let w3 := areaWord rd 0 3
  let rep := (w3.extractLsb' 5 6).toNat
  let lands := c.land ++ loadLandings c rd g (min 32 n.2.2.2.2) 0x7900 false false
    ++ loadLandings c rd g (min 64 n.2.2.2.1) 0x9D00 true false ++ loadLandings c rd g (min 8 n.1) 0xE500 false true
  let held := (List.range (min 16 n.2.2.1)).map fun i =>
    loadHeld rd (0x4500 + 0x340 * i) (c.held.getD i (heldBase c rd (0x4500 + 0x340 * i)))
  let plane := fun (i : Nat) => areaVec rd (0x40900 + 256 * ((if c.active == decide (32 ≤ i) then 0 else 1) * 32 + i % 32))
  let k : Core := { c with
    run := .running, s := loadSreg rd 0x140, p := loadPreg rd 0x240, v := loadVreg rd 0x500,
    cb := storeOf Cb.none 8 fun i => { addr := areaWord rd (0x300 + 16 * i) 0, exp := areaWord rd (0x300 + 16 * i) 1 },
    sticky := loadStickies rd 0x380 c.sticky, held := held, land := lands, kept := [], thaw := [], gate := gateEntries e rd,
    marked := w3.getLsbD 0, shadow := if w3.getLsbD 0 then some (loadShadow c rd) else none,
    tiles := storeOf 0 256 (areaWord rd 0x20100), acc := storeOf 0 512 fun i => areaVec rd (0x20900 + 256 * i),
    planes := storeOf 0 64 plane, jobs := loadJobs c rd g (s.share (clusterOf e)), stallTo := g + (w3.extractLsb' 1 4).toNat, nextIssue := g + (w3.extractLsb' 1 4).toNat, lastIssue := g,
    rep := if rep = 0 then none else some rep, wait := c.wait.map Wait.again, nextId := c.nextId + 36 }
  let k := reloaded.foldl (fun (x : Core) i => x.setSpecial i
    (if i = 30 then areaWord rd 0x40 30 &&& 3 else areaWord rd 0x40 i)) k
  { k with tready := if k.tiles.isEmpty then 0 else k.readyNow }

/-- RESUME's effect in cycle `g`: the task runs again, and an area that is malformed is its fault (R145); restart events that
a migration raised meanwhile meet it now (R140, R141). -/
def State.resumeFrom (s : State) (e : Nat) (heads : List Nat) : State :=
  let t := s.flushKeys e ((List.range areaSize).map (areaKey heads))
  let rd := t.areaNat heads
  let c := t.loadCore e rd s.cycle
  (t.setCoreAt e { c with
    late := c.late ++ (if badArea rd then
      [{ code := .reservedField, addr := 0, slot := 9, bundle := c.pc, hard := false }] else []) }).migrate e
    ((s.coreAt e).thaw.map fun x => { va := x.1, bundle := x.2.1, mig := true, num := x.2.2 })

end Sys2Proof.Machine
end

