-- ==== Sys2Proof/Machine/Commands.lean ====
section
/-! DEFINITION. The host link: the command protocol, the registers it reads and writes, and its commands (R443 to R449,
with the refusal rules of R127, R250, R312, R366, R390, R391, R398, R403, R431, R450). -/

namespace Sys2Proof.Machine

/-! ## The protocol (R443 to R445, R447) -/

/-- The status values of R447. -/
inductive Status where
  | ok | busy | value | state | stale | gap | auth | opcode
  deriving DecidableEq, Repr

/-- The number of a status. -/
def Status.num : Status → Nat
  | .ok => 0
  | .busy => 1
  | .value => 2
  | .state => 3
  | .stale => 4
  | .gap => 5
  | .auth => 6
  | .opcode => 7

/-- A response with the next device number (R444). -/
def State.respond (s : State) (h : HostHdr) (opc : Nat) (st : Status) (payload : List Word) : State :=
  s.issueMsg { seq := 0, opcode := opc, notice := false, host := h.seq, status := st.num, payload := payload }

/-! ### The messages of the host (R441, R443) -/

/-- The IPv6 link-local address formed from the MAC address by EUI-64 (R441). -/
def linkLocal : BitVec 128 :=
  let m := Config.macAddress
  (0xFE80000000000000 : BitVec 64) ++ (m.extractLsb' 24 24 ^^^ (0x020000 : BitVec 24)) ++ (0xFFFE : BitVec 16) ++ m.extractLsb' 0 24

/-- Whether the port answers on an address: the link-local one, or one that the host has assigned (R441). -/
def State.answersOn (s : State) : HostAddr → Bool
  | .v6 a => a == linkLocal || (a != 0 && a == s.pkg.addr6)
  | .v4 a => a != 0 && a == s.pkg.addr4

/-- The four words of a header. -/
def headerWords (h : HostHdr) : List Word := [h.w0, h.w1, h.w2, h.w3]
/-- Whether a header is that of a message from the host of one kind and opcode with some payload: MAGIC, VERSION and LENGTH as
R443 says, STATUS and the reserved fields zero. -/
def headerFits (h : HostHdr) (kind opc : Nat) (pay : List Byte) : Bool :=
  h.w0 == headerWord kind opc pay.length && pay.length ≤ 8192 && h.w2 == 0 && h.w3 == 0
/-- Whether the tag of a message is that of the session (R443). -/
def State.tagOk (s : State) (h : HostHdr) (pay : List Byte) : Bool :=
  s.pkg.session.any fun k => h.tag == Config.messageTag k (headerWords h) pay
/-- A malformed message is counted and not answered (R443). -/
def State.discardMsg (s : State) : State := s.modPkg fun p => { p with discards := p.discards + 1 }

/-- The word by which REGRD and REGWR name a register (R446). -/
def regWord (r : RegName) : Word := (0 : BitVec 32) ++ r.space ++ r.inst ++ r.index

/-- The payload of a command (R446; log entry 96). -/
def payloadOf (i : Instr) : List Byte :=
  match i with
  | .session m => bytesOf 96 m.2.toNat
  | .regrd _ r => wordsBytes [regWord r]
  | .regwr _ r v => wordsBytes (regWord r :: v)
  | .formatWindowWrite _ d w v => wordsBytes (regWord { space := 2, inst := BitVec.ofNat 12 (16 * d.toNat + w.toNat), index := 0 } :: v)
  | .l2lockWrite _ d v => wordsBytes [regWord { space := 3, inst := d.setWidth 12, index := 0 }, v]
  | .kvcfgWrite _ d w0 w12 => wordsBytes [regWord { space := 5, inst := d.setWidth 12, index := 0 }, w0, w12.1, w12.2]
  | .slotcfgWrite _ w0 w1 w2 => wordsBytes [regWord { space := 6, inst := 0, index := 64 }, w0, w1, w2]
  | .keyInstall _ e job peer wrapped =>
    wordsBytes [regWord { space := 7, inst := 0, index := e.setWidth 12 }, job.setWidth 64] ++ bytesOf 96 peer.toNat ++ bytesOf 40 wrapped.toNat
  | .launch _ v => wordsBytes [v.w0, v.w1, v.w2, v.w3, v.w4, v.w5, v.w6, v.w7]
  | .preempt _ e | .resume _ e => wordsBytes [BitVec.ofNat 64 e]
  | .partform _ id p m tb others =>
    wordsBytes ([id.setWidth 64, p.setWidth 64, m, tb] ++ others.flatMap fun x => x.pkg.setWidth 64 :: x.clmask.map (·.setWidth 64))
  | .detach _ p => wordsBytes [p.setWidth 64]
  | .retrain _ f _ => wordsBytes [f.setWidth 64]
  | .attest _ n r => bytesOf 48 n.toNat ++ r.elim [] fun x => wordsBytes [x.1.setWidth 64, BitVec.ofNat 64 x.2.1, BitVec.ofNat 64 x.2.2]
  | .recall _ n => wordsBytes [n.setWidth 64]
  | _ => []

/-- Whether a message to the port is a good command (R443). -/
def State.takes (s : State) (i : Instr) (h : HostHdr) (opc : Nat) : Bool := headerFits h 0 opc (payloadOf i) && s.tagOk h (payloadOf i)

/-- The next of the messages that reach the port whole, for RESYNC and HOST_MESSAGE_DISCARD; none for any other address than the
port's (R441; log entry 96). -/
def State.nextMail (s : State) : Option (HostHdr × List Byte) × State :=
  match s.mail with
  | [] => (none, s)
  | m :: ms => (if s.answersOn m.1.dst then some m else none, { s with mail := ms })

/-- What a command answers: a status, its payload and the state after it, or nothing yet. -/
inductive Answer where
  | now (st : Status) (payload : List Word) (s : State)
  | later (s : State)

/-- A refused command changes nothing (R447). -/
def State.refuse (s : State) (st : Status) : Answer := .now st [] s
/-- A command that took effect. -/
def State.done (s : State) : Answer := .now .ok [] s

/-- The stored response of the command that was executed under a number: the newest that answers it, a GAP apart (R444). -/
def State.stored (s : State) (num : BitVec 32) : Option Msg :=
  s.pkg.msgs.reverse.find? fun m => !m.notice && m.host == num && m.status != Status.gap.num

/-- A command by its number (R444): executed when it is the next, answered from the store when it was, else STALE or
GAP. -/
def State.byNumber (s : State) (h : HostHdr) (opc : Nat) (k : State → Answer) : Out :=
  let ahead := (h.seq - s.pkg.nexp).toNat
  if ahead = 0 then
    match k (s.modPkg fun p => { p with nexp := p.nexp + 1 }) with
    | .now st payload t => .next (t.respond h opc st payload)
    | .later t => .next t
  else if ahead < 2 ^ 31 then .next (s.respond h opc .gap [s.pkg.nexp.setWidth 64])
  else if 2 ^ 32 - ahead ≤ 256 then .next ((s.stored h.seq).elim s s.sendMsg)
  else .next (s.respond h opc .stale [])

/-- A command to the port: it is discarded where it is malformed, waits while another executes, and goes by its number (R443,
R444). -/
def State.command (s : State) (i : Instr) (h : HostHdr) (opc : Nat) (k : State → Answer) : Out :=
  if !s.answersOn h.dst then .next s
  else if !s.takes i h opc then .next s.discardMsg
  else if s.pkg.busy.isSome || !s.pkg.later.isEmpty then .next (s.modPkg fun p => { p with later := p.later ++ [i] })
  else s.byNumber h opc k

/-- Words from bytes (R1). -/
def bytesWords (bs : List Byte) : List Word :=
  (List.range ((bs.length + 7) / 8)).map fun i => BitVec.ofNat 64 (natOf ((bs.drop (8 * i)).take 8))

/-! ## Registers (R446; log entry 25) -/

/-- Whether a launch is queued or running (R312, R403). -/
def State.launching (s : State) : Bool := !s.pkg.launchq.isEmpty || s.pkg.grid.isSome

/-- The special register of space 0x01. -/
def coreReg (i : Nat) : Option Nat :=
  match i with
  | 0 => some 11
  | 1 => some 20
  | 2 => some 26
  | _ => none

/-- The words of a counter block as sampled now (R431). -/
def State.block (s : State) (b inst : Nat) : Option (List Word) :=
  match b with
  | 0 => if s.enabled inst then some ((List.range 6).map fun k => Store.get 0 (s.coreAt inst).pm k) else none
  | 1 =>
    if 4 ≤ inst then none
    else some (((List.range 33).map fun k => (Store.get 0 (s.dieAt inst).errcnt (k + 1)).setWidth 64)
      ++ (List.range 6).map fun k => (Store.get 0 (s.dieAt inst).secnt k).setWidth 64)
  | 2 => if 32 ≤ inst then none else some ((List.range 6).map fun k => Store.get 0 s.pkg.fab (6 * inst + k))
  | 3 => if 8 ≤ inst then none else some [s.occNow (2 * inst), s.occNow (2 * inst + 1)]
  | 4 => if inst = 0 then some ((List.range 6).map fun k => Store.get 0 s.pkg.engy k) else none
  | 5 =>
    if inst ≠ 0 then none
    else some [BitVec.ofNat 64 s.tb, BitVec.ofNat 64 s.cycle]
  | _ => none

/-- Window `inst` = die × 16 + window as five words, as they read: reserved fields zero (R7, R127). -/
def State.fmtWords (s : State) (inst : Nat) : List Word :=
  let f := Store.get FmtWin.none (s.dieAt (inst / 16)).fmtwin (inst % 16)
  [f.src &&& 0xFFFFFFFFFFF00, f.scl &&& 0xFFFFFFFFFFFFF, f.view &&& 0xFFFFFFFFFF000, f.len &&& 0xFFFFFFFFFF, f.ctl &&& 0xFF03]

/-- What REGRD answers: none for an unknown space, no words for a register that does not exist. -/
def State.regRead (s : State) (r : RegName) : Option (List Word) :=
  let n := r.inst.toNat
  let i := r.index.toNat
  match r.space.toNat with
  | 0x01 => some (match coreReg i with
    | some k => if s.enabled n then [(s.coreAt n).special k] else []
    | none => [])
  | 0x02 => some (if n < 64 then ((s.fmtWords n).drop i).take 1 else [])
  | 0x03 => some (if n < 4 && i = 0 then [(s.dieAt n).l2lock] else [])
  | 0x04 => some (if n < 4 && i = 0 then [(s.dieAt n).schedcfg] else [])
  | 0x05 => some (if n < 4 && i = 0 then [(s.dieAt n).kvcfg, (s.dieAt n).npages, BitVec.ofNat 64 (s.dieAt n).kvFree] else [])
  | 0x06 => some (if n ≠ 0 then [] else if i < 64 then
      [(Store.get (0, 0) s.pkg.slots i).1, (Store.get (0, 0) s.pkg.slots i).2]
    else if i = 64 then [s.pkg.slotcfg, s.pkg.epoch, s.pkg.pepoch] else [])
  | 0x07 => some (if 4 ≤ i then [] else match Store.get none s.pkg.keys i with
    | some k => [(1 : Word) <<< 63 ||| k.1.setWidth 64, 0, 0, 0, 0]
    | none => [0, 0, 0, 0, 0])
  | 0x08 => some ((s.block i n).getD [])
  | 0x09 => some (if i < 512 then [s.capWord i] else [])
  | 0x0A => some (match i with
    | 0 => [s.pkg.pwrlim.setWidth 64]
    | 1 => [s.pkg.addr6.setWidth 64, (s.pkg.addr6 >>> 64).setWidth 64]
    | 2 => [s.pkg.addr4.setWidth 64]
    | _ => [])
  | 0x0B => some (if n < 4 then
      [(Store.get PfxEntry.none (s.dieAt n).prefixes i).w0, (Store.get PfxEntry.none (s.dieAt n).prefixes i).w1] else [])
  | _ => none

/-- Source bytes of a format window. -/
def FmtWin.sourceSize (f : FmtWin) : Nat :=
  match f.sfmt with
  | 0 | 1 | 5 => f.elems
  | 3 => f.elems / 32 * 18
  | _ => (f.elems + 1) / 2

/-- Whether some bytes lie in a populated range of R16, of which the capability frame is one. -/
def State.inRange (s : State) (node pa n : Nat) : Bool :=
  s.populated node pa n || (capFrame ≤ pa && pa + n ≤ capFrame + 4096)

/-- Whether a window may be enabled on die `d` (R127). -/
def State.fmtOk (s : State) (d : Nat) (f : FmtWin) : Bool :=
  f.src.extractLsb' 52 12 == 0 && f.src.extractLsb' 0 8 == 0 && f.scl.extractLsb' 52 12 == 0 && f.view.extractLsb' 52 12 == 0
    && f.view.extractLsb' 0 12 == 0 && f.len.extractLsb' 40 24 == 0 && f.ctl.extractLsb' 16 48 == 0 && f.ctl.extractLsb' 2 6 == 0
    && f.sfmt < 6 && (f.ctl.extractLsb' 8 4).toNat < 2 && f.elems != 0 && (f.sfmt != 3 || f.elems % 32 == 0)
    && s.inRange (s.nodeOf d) f.source f.sourceSize
    && (!f.scaled || s.inRange (s.nodeOf d) f.scale ((f.elems + 31) / 32))

/-- A window takes five words, kept as written; a write that sets EN leaves it 0 where R127 says so. -/
def State.setFormat (s : State) (d w : Nat) (f : FmtWin) (setsEn : Bool) : State :=
  let g := if setsEn && f.on && !s.fmtOk d f then { f with ctl := f.ctl &&& ~~~1#64 } else f
  s.modDie d fun x => { x with fmtwin := Store.set FmtWin.none x.fmtwin w g }

/-- One register of a window written. -/
def FmtWin.put (f : FmtWin) (i : Nat) (x : Word) : FmtWin :=
  match i with
  | 0 => { f with src := x }
  | 1 => { f with scl := x }
  | 2 => { f with view := x }
  | 3 => { f with len := x }
  | _ => { f with ctl := x }

/-- L2LOCK of die `d` written (R250). -/
def State.setL2lock (s : State) (d : Nat) (x : Word) : Answer :=
  let n := (x.extractLsb' 0 5).toNat
  let base := 2 ^ 21 * (x.extractLsb' 21 31).toNat
  if x.extractLsb' 52 12 != 0 || x.extractLsb' 5 16 != 0 || 16 < n || !s.inHbm (s.nodeOf d) base (2 ^ 21 * n) then s.refuse .value
  else (s.modDie d fun y => { y with l2lock := x }).done

/-- SCHEDCFG of die `d` written (R312). -/
def State.setSchedcfg (s : State) (d : Nat) (x : Word) : Answer :=
  if s.launching then s.refuse .state
  else if x.extractLsb' 5 59 != 0 then s.refuse .value
  else (s.modDie d fun y => { y with schedcfg := x }).done

/-- Bytes of a pool region (R403). -/
def poolSize (rowB n : Nat) : Nat := n * (128 + 32 * rowB) + 4 * n + (n + 511) / 512 * 64

/-- A pool made empty: sidebands zero, every page free, the stack in page order (R403). -/
def State.emptyPool (s : State) (d : Nat) : State :=
  let n := s.kvPages d
  let t := (List.range n).foldl (fun (u : State) id => u.perform none 1 (u.pageKey d id) (List.replicate 128 0)) s
  let t := t.perform none 1 (t.pageKey d n + 4 * n) (List.replicate ((n + 511) / 512 * 64) 0)
  let t := (List.range n).foldl (fun (u : State) i => u.perform none 1 (u.stackKey d i) (bytesOf 4 (n - 1 - i))) t
  t.modDie d fun x => { x with kvFree := n, windows := [], prefixes := [] }

/-- KVCFG of die `d` written: FREE takes what is written, or the number of pages where EN is set (R6, R403). -/
def State.setKvcfg (s : State) (d : Nat) (w0 w1 w2 : Word) : Answer :=
  let n := w1.toNat
  let rowB := 64 * ((w0.extractLsb' 1 2).toNat + 1)
  let base := 4096 * (w0.extractLsb' 12 40).toNat
  if s.launching then s.refuse .state
  else if w0.extractLsb' 52 12 != 0 || w0.extractLsb' 3 9 != 0 || 2 ^ 20 < n || w2.extractLsb' 21 43 != 0 || (w0.getLsbD 0 && n == 0)
      || !s.populated (s.nodeOf d) base (poolSize rowB n) then s.refuse .value
  else
    let t := s.modDie d fun x => { x with kvcfg := w0, npages := w1 }
    (if w0.getLsbD 0 then t.emptyPool d else t.modDie d fun x => { x with kvFree := w2.toNat }).done

/-- SLOTCFG written (R391). -/
def State.setSlotcfg (s : State) (w0 w1 w2 : Word) : Answer :=
  let rsv := w0.extractLsb' 30 33 != 0 || w0.extractLsb' 22 2 != 0 || w0.extractLsb' 14 2 != 0 || w0.extractLsb' 6 2 != 0
  if rsv || cfgLast w0 < cfgFirst w0
      || (w0.getLsbD 63 && (w0.extractLsb' 24 6).toNat < (w0.extractLsb' 16 6).toNat) then s.refuse .value
  else (s.putSlotcfg w0 w1 w2).done

/-- A key unwrapped and installed: the queues' counters begin again at zero, but not for a key of another job than that of the
partition, whose packets use them (R398, R399; log entry 95). -/
def State.installKey (s : State) (e : Nat) (job : BitVec 16) (peer : BitVec 768) (wrapped : BitVec 320) : Answer :=
  let kek := (Config.sha384 (bytesOf 48 (Config.ecdhX peer).toNat)).extractLsb' 0 256
  if 4 ≤ e then s.refuse .value
  else
    match Config.aesUnwrap kek wrapped with
    | none => s.refuse .auth
    | some k =>
      (s.modPkg fun p => { p with
        keys := Store.set none p.keys e (some (job, k)),
        sendq := if p.part.all fun x => x.id == job then p.sendq.map fun q => (q.1, { q.2 with iv := 0 }) else p.sendq }).done

/-- Host writes of the counter words of a block from word `w` on: they are made at the end of the cycle, unless the counter
moves in it (R6, R431). -/
def State.writeCtrs (s : State) (b inst w : Nat) (v : List Word) : State :=
  s.modPkg fun p => { p with ctrw := p.ctrw ++ v.zipIdx.map fun x =>
    { block := b, inst := inst, word := w + x.2, new_ := x.1 } }

/-- The words of a PERF block written: PMCTL.OVF by W1C, which a wrap of the same cycle outdoes, its other fields and PMSEL as
given, the counters as R431 says (R6, R431, R432, R434). -/
def State.setPerf (s : State) (e : Nat) (v : List Word) : Answer :=
  let ctl := v.getD 0 0
  if ctl.extractLsb' 8 56 != 0 || ctl.getLsbD 3 || (v.getD 1 0).extractLsb' 32 32 != 0
      || (List.range 4).any fun k => (v.getD (2 + k) 0).extractLsb' 48 16 != 0 then s.refuse .value
  else
    let old := Store.get 0 (s.coreAt e).pm 0
    let set := (s.coreAt e).counted.setWidth 64 &&& (0xF0 : Word)
    let new := (ctl &&& 7) ||| (old &&& 0xF0 &&& (~~~ctl ||| set))
    ((s.modCoreAt e fun c => { c with pm := Store.set 0 (Store.set 0 c.pm 0 new) 1 (v.getD 1 0) }).writeCtrs 0 e 2 (v.drop 2)).done

/-- The two occupancy counters of a band written: one that advances in this cycle keeps what it holds (R6, R431, R438). -/
def State.setOcc (s : State) (b : Nat) (v : List Word) : State :=
  let t := s.settleOcc
  let tick := s.tb != ({ s with cycle := s.cycle - 1 } : State).tb
  let on := tick && s.bandOk b && (s.band b).isOn
  let busy := tick && s.bandBusy b
  let occ := if on then t.pkg.occ else Store.set 0 t.pkg.occ (2 * b) (v.getD 0 0)
  t.modPkg fun p => { p with occ := if busy then occ else Store.set 0 occ (2 * b + 1) (v.getD 1 0) }

/-- A counter block written (R431); TBANCHOR is RO, and a write of it is ignored (R6, R428). -/
def State.setBlock (s : State) (b inst : Nat) (v : List Word) : Answer :=
  match s.block b inst with
  | none => s.refuse .value
  | some old =>
    if old.length ≠ v.length then s.refuse .value
    else
      match b with
      | 0 => s.setPerf inst v
      | 1 =>
        if v.any fun x => x.extractLsb' 32 32 != 0 then s.refuse .value
        else (s.writeCtrs 1 inst 0 v).done
      | 2 | 4 => (s.writeCtrs b inst 0 v).done
      | 3 => (s.setOcc inst v).done
      | _ => s.done

/-- REGWR on a register (R446); a write of one that is RO is ignored (R6). -/
def State.regWrite (s : State) (r : RegName) (v : List Word) : Answer :=
  let n := r.inst.toNat
  let i := r.index.toNat
  let x := v.headD 0
  match r.space.toNat with
  | 0x01 =>
    match coreReg i with
    | some k =>
      if !s.enabled n || v.length ≠ 1 || specialRefuses k x then s.refuse .value
      else (s.modCoreAt n fun c => c.setSpecial k x).done
    | none => s.refuse .value
  | 0x02 =>
    if 64 ≤ n || 5 ≤ i || v.length ≠ 1 then s.refuse .value
    else (s.setFormat (n / 16) (n % 16) ((Store.get FmtWin.none (s.dieAt (n / 16)).fmtwin (n % 16)).put i x) (i == 4)).done
  | 0x03 => if 4 ≤ n || i ≠ 0 || v.length ≠ 1 then s.refuse .value else s.setL2lock n x
  | 0x04 => if 4 ≤ n || i ≠ 0 || v.length ≠ 1 then s.refuse .value else s.setSchedcfg n x
  | 0x05 =>
    if 4 ≤ n || i ≠ 0 || v.length < 2 || 3 < v.length then s.refuse .value
    else s.setKvcfg n x (v.getD 1 0) (v.getD 2 (BitVec.ofNat 64 (s.dieAt n).kvFree))
  | 0x06 =>
    if n ≠ 0 then s.refuse .value
    else if i < 64 then
      if v.length ≠ 2 || x.extractLsb' 0 8 != 0 then s.refuse .value
      else (s.modPkg fun p => { p with slots := Store.set (0, 0) p.slots i (x, v.getD 1 0) }).done
    else if i = 64 && v.length = 3 then s.setSlotcfg x (v.getD 1 0) (v.getD 2 0)
    else s.refuse .value
  | 0x07 =>
    if v.length ≠ 18 || x.extractLsb' 16 48 != 0 then s.refuse .value
    else s.installKey i (x.setWidth 16) (BitVec.ofNat 768 (natOf (wordsBytes ((v.drop 1).take 12))))
      (BitVec.ofNat 320 (natOf (wordsBytes (v.drop 13))))
  | 0x08 => s.setBlock i n v
  | 0x09 | 0x0B => match s.regRead r with
    | some (_ :: _) => s.done
    | _ => s.refuse .value
  | 0x0A =>
    match i with
    | 0 =>
      if v.length ≠ 1 || x.toNat < 600 || 2400 < x.toNat then s.refuse .value
      else (s.modPkg fun p => { p with pwrlim := x.setWidth 16 }).done
    | 1 =>
      if v.length ≠ 2 then s.refuse .value
      else (s.modPkg fun p => { p with addr6 := BitVec.ofNat 128 (natOf (wordsBytes v)) }).done
    | 2 =>
      if v.length ≠ 1 || x.extractLsb' 32 32 != 0 then s.refuse .value
      else (s.modPkg fun p => { p with addr4 := x.setWidth 32 }).done
    | _ => s.refuse .value
  | _ => s.refuse .opcode

/-! ## The commands (R446) -/

/-- SESSION: the session key, and both numbers zero; its response carries number 0 and no encryption (R443, R444, R446; log
entry 96). -/
def execSession (m : HostHdr × BitVec 768) (s : State) : Out :=
  let h := m.1
  let key := (Config.sha384 (bytesOf 48 (Config.ecdhX m.2).toNat)).extractLsb' 0 256
  let r : Msg := { seq := 0, opcode := 0x10, notice := false, host := h.seq, status := Status.ok.num, payload := [] }
  if !s.pkg.booted || !s.answersOn h.dst then .next s
  else if !headerFits h 0 0x10 (payloadOf (.session m)) || h.tag != 0 then .next s.discardMsg
  else .next (s.modPkg fun p => { p with session := some key, nexp := 0, dlast := 0, msgs := [], port := .message r.header [] 0 })

/-- REGRD. -/
def execRegrd (h : HostHdr) (r : RegName) (s : State) : Out :=
  s.command (.regrd h r) h 0x0020 fun t =>
    match t.regRead r with
    | none => t.refuse .opcode
    | some [] => t.refuse .value
    | some ws => .now .ok ws t

/-- REGWR. -/
def execRegwr (h : HostHdr) (r : RegName) (v : List Word) (s : State) : Out :=
  s.command (.regwr h r v) h 0x0021 fun t => t.regWrite r v

/-- FORMAT_WINDOW_WRITE: the five registers of a window (R127). -/
def execFormatWindowWrite (h : HostHdr) (die : BitVec 2) (win : BitVec 4) (v : List Word) (s : State) : Out :=
  s.command (.formatWindowWrite h die win v) h 0x0021 fun t =>
    if v.length ≠ 5 then t.refuse .value
    else (t.setFormat die.toNat win.toNat
      { src := v.getD 0 0, scl := v.getD 1 0, view := v.getD 2 0, len := v.getD 3 0, ctl := v.getD 4 0 } true).done

/-- L2LOCK_WRITE (R250). -/
def execL2lockWrite (h : HostHdr) (die : BitVec 2) (v : Word) (s : State) : Out :=
  s.command (.l2lockWrite h die v) h 0x0021 fun t => t.setL2lock die.toNat v

/-- KVCFG_WRITE (R403). -/
def execKvcfgWrite (h : HostHdr) (die : BitVec 2) (w0 : Word) (w12 : Word × Word) (s : State) : Out :=
  s.command (.kvcfgWrite h die w0 w12) h 0x0021 fun t => t.setKvcfg die.toNat w0 w12.1 w12.2

/-- SLOTCFG_WRITE (R391). -/
def execSlotcfgWrite (h : HostHdr) (w0 w1 w2 : Word) (s : State) : Out :=
  s.command (.slotcfgWrite h w0 w1 w2) h 0x0021 fun t => t.setSlotcfg w0 w1 w2

/-- KEY_INSTALL (R398). -/
def execKeyInstall (h : HostHdr) (entry : BitVec 2) (job : BitVec 16) (peer : BitVec 768) (wrapped : BitVec 320)
    (s : State) : Out :=
  s.command (.keyInstall h entry job peer wrapped) h 0x0021 fun t => t.installKey entry.toNat job peer wrapped

/-- LAUNCH: the start vector joins the queue of 16 (R40, R450). -/
def execLaunch (h : HostHdr) (v : StartVector) (s : State) : Out :=
  s.command (.launch h v) h 0x0030 fun t =>
    if t.pkg.shutdown then t.refuse .state
    else if 16 ≤ t.pkg.launchq.length then t.refuse .busy
    else (t.modPkg fun p => { p with launchq := p.launchq ++ [v] }).done

/-- A PREEMPT ends. -/
def State.endPreempt (s : State) (h : HostHdr) (st : Status) : State :=
  (s.modPkg fun p => { p with busy := none, freeze := none }).respond h 0x0031 st []

/-- The progress of a PREEMPT: taken once the core has no fault or trap before it, done once the area is written, and
refused where no task runs or the area cannot be written (R144, R147). -/
def State.preemptStep (s : State) (h : HostHdr) (e : Nat) : State :=
  let c := s.coreAt e
  match s.pkg.freeze with
  | none =>
    if c.run ≠ .running then s.endPreempt h .state
    else if c.beforeFreeze then s
    else
      match s.areaHeads e .write with
      | none => s.endPreempt h .state
      | some heads => s.takeFreeze h e heads
  | some z =>
    if c.run ≠ .draining z.at_ then s.endPreempt h .state
    else if c.freezeReady z.at_ s.cycle then (s.writeArea z).endPreempt h .ok
    else s

/-- PREEMPT: the request (R144), and its progress while it executes. -/
def execPreempt (h : HostHdr) (core : Nat) (s : State) : Out :=
  if s.pkg.busy = some (h, core) then .next (s.preemptStep h core)
  else
    s.command (.preempt h core) h 0x0031 fun t =>
      if !t.enabled core then t.refuse .value
      else if (t.coreAt core).run ≠ .running then t.refuse .state
      else .later ((t.modPkg fun p => { p with busy := some (h, core) }).preemptStep h core)

/-- RESUME (R145). -/
def execResume (h : HostHdr) (core : Nat) (s : State) : Out :=
  s.command (.resume h core) h 0x0032 fun t =>
    if !t.enabled core then t.refuse .value
    else if !(t.coreAt core).frozen then t.refuse .state
    else
      match t.areaHeads core .read with
      | none => t.refuse .state
      | some heads => (t.resumeFrom core heads).done

/-- A partition is formed: the time base starts at `t0`, and what belonged to an earlier partition is gone, but for the IV counters
(R20, R280, R366, R380, R399, R427; log entry 26). -/
def State.formPartition (s : State) (p : Partition) (t0 : Nat) : State :=
  let u := s.settleOcc
  let fresh (d : Die) : Die := { d with
    mantis := [], plans := [], reshNums := [], announced := [], collNums := [], inbox := [] }
  let t : State := { u with dies := (u.dies.map fun x => (x.1, fresh x.2)).filter (·.2 ≠ Die.reset) }
  t.modPkg fun q => { q with
    part := some p, lastPart := some (p.pkg, p.mesh), anchor := some (t0, s.cycle), occAt := t0, engyAt := t0 / 1024, engyLog := [],
    slot := none, gotSeq := [], acks := [], waiting := [], accept := [], staged := [],
    sendq := (q.sendq.map fun x => (x.1, x.2.emptied)).filter fun x => x.2 ≠ SendQ.none }

/-- PARTFORM. -/
def execPartform (h : HostHdr) (id : BitVec 16) (pkg : BitVec 6) (mesh : Word) (tb : Word) (others : List Member)
    (s : State) : Out :=
  s.command (.partform h id pkg mesh tb others) h 0x0040 fun t =>
    if !meshOk mesh (4 * (others.length + 1)) then t.refuse .value
    else (t.formPartition { id := id, pkg := pkg, mesh := mesh, others := others } tb.toNat).done

/-- DETACH: a package's nodes leave at once; when it is this one, every other package is lost to it (R21, R360). -/
def execDetach (h : HostHdr) (pkg : BitVec 6) (s : State) : Out :=
  s.command (.detach h pkg) h 0x0041 fun t =>
    match t.pkg.part with
    | none => t.refuse .state
    | some p =>
      if p.pkg = pkg then (p.others.foldl (fun (u : State) m => u.loseMember m.pkg.toNat) t).done
      else if p.others.any fun m => m.pkg == pkg then (t.loseMember pkg.toNat).done
      else t.refuse .value

/-- DISSOLVE: the partition ends and its keys are zeroised (R398). -/
def execDissolve (h : HostHdr) (s : State) : Out :=
  s.command (.dissolve h) h 0x0042 fun t =>
    match t.pkg.part with
    | none => t.refuse .state
    | some p =>
      let u := p.others.foldl (fun (u : State) m => u.loseMember m.pkg.toNat) t.settleOcc
      (u.modPkg fun q => { q with
        part := none,
        keys := q.keys.filter fun k => match k.2 with
          | some x => x.1 != p.id
          | none => false }).done

/-- RETRAIN: a fibre comes up again, or stays down (R397). -/
def execRetrain (h : HostHdr) (fibre : BitVec 5) (ok : Bool) (s : State) : Out :=
  s.command (.retrain h fibre ok) h 0x0043 fun t =>
    if !t.fuses.fibres.getLsbD fibre.toNat then t.refuse .value
    else if !ok then (t.modPkg fun p => { p with up := p.up &&& ~~~((1 : BitVec 32) <<< fibre.toNat) }).done
    else (t.modPkg fun p => { p with
      up := p.up ||| (1 : BitVec 32) <<< fibre.toNat, avoid := p.avoid.filter fun x => x.2 != fibre.toNat }).done

/-- The 192 bytes of a report (R449). -/
def State.report (s : State) (nonce : BitVec 384) (range : Option (BitVec 8 × Nat × Nat)) : List Byte :=
  bytesOf 48 nonce.toNat ++ bytesOf 48 (Config.sha384 s.pkg.firmware).toNat
    ++ (match range with
      | some (n, pa, len) =>
        bytesOf 48 (Config.sha384 ((List.range len).map fun i => s.byteAt (s.nk n.toNat (pa + i)))).toNat
      | none => List.replicate 48 0)
    ++ bytesOf 8 (s.capWord 0).toNat ++ bytesOf 8 (Config.fwVersion s.pkg.firmware).toNat ++ List.replicate 32 0

/-- ATTEST: the report and its signature (R449). A package whose boot failed answers it without a session, whose tag is then zero
(log entry 96). -/
def execAttest (h : HostHdr) (nonce : BitVec 384) (range : Option (BitVec 8 × Nat × Nat)) (s : State) : Out :=
  let answer := fun (t : State) =>
    let ok := match range with
      | some (n, pa, len) => t.ownNode n.toNat && t.populated n.toNat pa len
      | none => true
    if !ok then t.refuse .value
    else
      let r := t.report nonce range
      Answer.now .ok (bytesWords (r ++ bytesOf 96 (Config.ecdsaSign r).toNat)) t
  if s.pkg.booted then s.command (.attest h nonce range) h 0x0050 answer
  else if !s.answersOn h.dst then .next s
  else if !headerFits h 0 0x0050 (payloadOf (.attest h nonce range)) || h.tag != 0 then .next s.discardMsg
  else s.byNumber h 0x0050 answer

/-- RECALL: a stored message, or STALE (R444). -/
def execRecall (h : HostHdr) (num : BitVec 32) (s : State) : Out :=
  s.command (.recall h num) h 0x0051 fun t =>
    match t.pkg.msgs.find? fun m => m.seq == num with
    | some m => .now .ok (m.header ++ m.payload) t
    | none => t.refuse .stale

/-- RESYNC: answered at once with both numbers in one word, also without a session or after a failed boot (R443, R445, R449; log
entry 96). -/
def execResync (s : State) : Out :=
  match s.nextMail with
  | (none, t) => .next t
  | (some (h, pay), t) =>
    let opc := (h.w0.extractLsb' 16 16).toNat
    if !headerFits h 3 opc [] || !pay.isEmpty || h.tag != 0 then .next t.discardMsg
    else .next (t.modPkg fun p => { p with
      port := .message [headerWord 4 opc 8, p.dlast ++ h.seq, 0, 0] [p.dlast ++ p.nexp] 0 })

/-- The opcodes of R446. -/
def commandOpcodes : List Nat := [0x10, 0x20, 0x21, 0x30, 0x31, 0x32, 0x40, 0x41, 0x42, 0x43, 0x50, 0x51]

/-- HOST_MESSAGE_DISCARD: a message by its header, payload and tag. A malformed one is counted and not answered (R443); a command
with an unknown opcode is refused (R447); any other is the message of another row. -/
def execHostMessageDiscard (s : State) : Out :=
  match s.nextMail with
  | (none, t) => .next t
  | (some (h, pay), t) =>
    let kind := (h.w0.extractLsb' 32 8).toNat
    let opc := (h.w0.extractLsb' 16 16).toNat
    let plain := h.tag == 0 && (kind == 3 && pay.isEmpty || kind == 0 && (opc == 0x10 || opc == 0x50 && !t.pkg.booted))
    if !headerFits h kind opc pay || !(plain || kind == 0 && t.tagOk h pay) then .next t.discardMsg
    else if kind ≠ 0 || commandOpcodes.contains opc then .next t
    else if t.pkg.busy.isSome || !t.pkg.later.isEmpty then .next { t with
      mail := (h, pay) :: t.mail, pkg := { t.pkg with later := t.pkg.later ++ [.hostMessageDiscard] } }
    else t.byNumber h opc fun u => u.refuse .opcode

/-! ## Bulk access (R441, R442) -/

/-- What the port sends. -/
def State.sends (s : State) (r : PortReply) : State := s.modPkg fun p => { p with port := r }

/-- A RoCEv2 request reaches the port (R441): none where the port is not open or does not answer on the address, a NAK where it
does not know the queue pair. -/
def State.roce (s : State) (qp : HostAddr × Nat) (k : Out) : Out :=
  if !s.pkg.booted || !s.answersOn qp.1 then .next s
  else if !s.pkg.qps.contains qp.2 then .next (s.sends .nak)
  else k

/-- ROCE_WRITE: the bytes are performed at their home, and then the write is acknowledged; writes to the capability frame are
ignored (R22, R442). -/
def execRoceWrite (node : BitVec 8) (qp : HostAddr × Nat) (pa : Nat) (bytes : List Byte) (s : State) : Out :=
  s.roce qp
    (if !s.ownNode node.toNat then .next s
    else if capFrame ≤ pa && pa + bytes.length ≤ capFrame + 4096 then .next (s.sends .ack)
    else if !s.populated node.toNat pa bytes.length then .fault .hostAddressUnpopulated
    else .next ((s.perform none 1 (s.nk node.toNat pa) bytes).sends .ack))

/-- ROCE_READ: the bytes of the range go out through the port (R441). -/
def execRoceRead (node : BitVec 8) (qp : HostAddr × Nat) (pa len : Nat) (s : State) : Out :=
  s.roce qp
    (if !s.ownNode node.toNat then .next s
    else if !s.inRange node.toNat pa len then .fault .hostAddressUnpopulated
    else .next (s.sends (.data ((List.range len).map fun i => s.byteAt (s.nk node.toNat (pa + i))))))

/-- ROCE_REQUEST_REJECT: a fragmented packet, which names no queue pair here, and a SEND or atomic request are discarded; a
request for an unknown queue pair draws a NAK; memory is unchanged (R441). -/
def execRoceRequestReject (qp : HostAddr × Option Nat) (s : State) : Out :=
  match qp.2 with
  | none => .next s
  | some q => s.roce (qp.1, q) (.next s)

/-! ## Boot (R241, R449) -/

/-- Every SRAM zeroed: scratchpads, slices, chip scratchpads and phase caches (R241). -/
def State.zeroSrams (s : State) : State :=
  let cs := (s.cores.map fun x => (x.1, ({ x.2 with cache := [] } : Core))).filter fun x => x.2 ≠ Core.reset
  { s with mem := s.mem.filter fun c => isGlobal c.1, cores := cs }

/-- The checks of a firmware image: its public key, its signature and its security version (R449, steps 2 to 4). -/
def firmwareOk (image : List Byte) : Bool :=
  Config.sha384 (Config.fwPublicKey image) == Config.fusedKeyDigest
    && Config.ecdsaVerify (Config.fwPublicKey image) (Config.sha384 image) (Config.fwSignature image)
    && Config.fusedMinVersion.toNat ≤ (Config.fwVersion image).toNat

/-- BOOT: the boot flash as manufactured, or as a recovery write left it, is checked; firmware that passes runs, zeroes the
SRAMs, trains the links and opens the port with its queue pairs (R441, R449; log entry 96). -/
def execBoot (firmware : List Byte × List Nat) (s : State) : Out :=
  let image := if s.pkg.flash.isEmpty then firmware.1 else s.pkg.flash
  if s.pkg.booted || !firmwareOk image then .next s
  else .next (s.zeroSrams.modPkg fun p => { p with booted := true, up := s.fuses.fibres, firmware := image, qps := firmware.2 })

/-- BOOT_FLASH_RECOVERY: a package whose boot failed takes a recovery write (R449). -/
def execBootFlashRecovery (image : List Byte) (s : State) : Out :=
  .next (if s.pkg.booted then s else s.modPkg fun p => { p with flash := image })

/-- PACKAGE_RESET: every register and counter at its reset value; fuses, boot flash and memory outside the SRAMs stay,
and boot zeroes the SRAMs (R5, R241, R425, R449; log entry 27). -/
def execPackageReset (s : State) : Out :=
  .next { State.reset with
    mem := s.mem, fuses := s.fuses, oracle := s.oracle, free := s.free, mail := s.mail,
    agenda := s.agenda.map fun x => (x.1 - s.cycle, x.2),
    pkg := { Package.reset with flash := s.pkg.flash } }

end Sys2Proof.Machine
end

