-- ==== Sys2Proof/Machine/Complete.lean ====
section
/-! DEFINITION. The completion of variable-latency operations (R267). -/

namespace Sys2Proof.Machine

/-- VARIABLE_OP_COMPLETE: an operation completes, writes its destination, and its barrier goes down (R267). -/
def execVariableOpComplete (id : Nat) (s : State) : Out :=
  match s.core.pendOf id with
  | none => .next s
  | some p =>
    match s.completeTable p, s.completeMap p, s.completeLink p with
    | some r, _, _ => r
    | none, some r, _ => r
    | none, none, some r => r
    | none, none, none => s.completeAccess id

end Sys2Proof.Machine
end

