-- ==== Sys2Proof/Machine/Control.lean ====
section
/-! DEFINITION. The control transfers, LOOP and ROTSET (R175 to R181). -/

namespace Sys2Proof.Machine

/-- The fall-through bundle of the slot that performs (R52). -/
def State.fallThrough (s : State) : Word := s.core.cur.bundle + BitVec.ofNat 64 s.core.cur.len
/-- The target of a relative transfer (R59). -/
def State.relTarget (s : State) (off : BitVec 16) : Word := s.core.cur.bundle + off.signExtend 64 * 8

/-- BR (R177). -/
def execBr (c : Ctl) (off : BitVec 16) (s : State) : Out :=
  s.scalarSlot c [] [] fun t => .next (t.transferTo (t.relTarget off) true)

/-- BRL (R177). -/
def execBrl (c : Ctl) (off : BitVec 16) (s : State) : Out :=
  s.scalarSlot c [] [] fun t =>
    .next ((t.land 1 [Wr.scalar 31 t.fallThrough]).transferTo (t.relTarget off) true)

/-- A transfer to a pointer: the checks of R180, the link, the target. -/
def State.jump (s : State) (x : Word) (link : Bool) : Out :=
  if tagOf x ≠ 0 then s.fail .spaceTag x
  else if x.extractLsb' 0 3 ≠ 0 then s.fail .align x
  else .next ((if link then s.land 1 [Wr.scalar 31 s.fallThrough] else s).transferTo x true)

/-- BRR (R180). -/
def execBrr (c : Ctl) (a : IOp) (lnk : Bool) (s : State) : Out :=
  s.scalarSlot c [a] [] fun t => t.jump (t.src .a a) lnk

/-- RET (R180). -/
def execRet (c : Ctl) (s : State) : Out :=
  s.scalarSlot c [] [] fun t => t.jump (t.core.sreg 31) false

/-- The writes with which a LOOP rotates: count register, VRB, PRB, and p8 under the new PRB (R178). -/
def Core.rotation (k : Core) (reg : Nat) (count : Word) (p8 : Word) : List Wr :=
  [Wr.special reg (count - 1),
   Wr.special 8 (BitVec.ofNat 64 (((k.special 8).toNat + 47) % 48)),
   Wr.special 9 (BitVec.ofNat 64 (((k.special 9).toNat + 7) % 8)),
   { kind := .pred, idx := pPhys (((k.special 9).toNat + 7) % 8) 8, mask := ones, val := p8.setWidth 2048, room := 0 }]

/-- LOOP (R178): a taken LOOP leaves sticky state in place. An MSR of its bundle to a loop register that it does not write lands
(DEDUCED, log entry 99). -/
def execLoop (c : Ctl) (off : BitVec 16) (s : State) : Out :=
  s.scalarSlot c [] [] fun t =>
    if t.core.special 6 ≠ 0 then
      .next ((t.land 1 (t.core.rotation 6 (t.core.special 6) ones)).transferTo (t.relTarget off) false)
    else if t.core.special 7 ≠ 0 then
      .next ((t.land 1 (t.core.rotation 7 (t.core.special 7) 0)).transferTo (t.relTarget off) false)
    else .next t

/-- ROTSET (R181). An MSR of its bundle to a loop register that it does not write lands (DEDUCED, log entry 99). -/
def execRotset (c : Ctl) (a : IOp) (ec : BitVec 6) (rb pc : Bool) (s : State) : Out :=
  s.scalarSlot c [a] [] fun t =>
    .next (t.land 1
      ([Wr.special 6 (((t.src .a a).setWidth 32).setWidth 64), Wr.special 7 (ec.setWidth 64)]
        ++ (if rb then [Wr.special 8 0, Wr.special 9 0] else [])
        ++ (if pc then [{ kind := .p8, idx := 0, mask := ones, val := 0, room := 0 }] else [])))

end Sys2Proof.Machine
end

