-- ==== Sys2Proof/Machine/CopyRun.lean ====
section
/-! DEFINITION. How the entries of the copy queues start and move (R336 to R338, R348, R424). -/

namespace Sys2Proof.Machine

/-- A CPYL comes after everything the core has written and read before it (R338): its gate and its dirty lines are
performed, and its loads and atomics have been made. -/
def State.allEarlier (s : State) (e id : Nat) : Bool :=
  (s.coreAt e).pend.all fun p => id < p.id || (p.perf && (!p.peer || p.acked))

/-- A copy starts: its source is read as it stands, and one of no bytes is over (R346). -/
def State.copyBegin (s : State) (e : Nat) (c : CopyEntry) : State :=
  if c.span.2.2 = 0 then s.copyDone e c else s.enterSpan e c

/-- An entry that writes memory commits the gate before it starts; a SEND.rq, which writes none, does so before its stamp
(R138, R298). -/
def State.copyCommit (s : State) (e : Nat) (c : CopyEntry) : State :=
  match c.op.instr with
  | .sendRq .. => s
  | _ => s.jobCommit e c.own

/-- An entry starts: the gate is committed, it moves from now on, and a copy's source is read as it stands (R138, R337,
R346). -/
def State.copyStart (s : State) (e : Nat) (c : CopyEntry) : State :=
  let s := s.copyCommit e c
  match c.op.instr with
  | .kvld _ t .. => s.kvldStart e c t.toNat
  | .cpyl .. => (s.release e .part).setCopy e { c with stage := .active }
  | .coll .. | .reshard .. | .sendRq .. => s.setCopy e { c with stage := .active }
  | .send .. =>
    if (s.outbound c).isSome then s.setCopy e { c with stage := .active }
    else s.copyBegin e c
  | _ => s.copyBegin e c

/-- Whether the head of a queue may start (R298, R337, R338, R424). -/
def State.copyReady (s : State) (e : Nat) (c : CopyEntry) : Bool :=
  let k := s.coreAt e
  s.edgesMet e c.id (c.readRegions k) (c.writeRegions k) &&
    match c.op.instr with
    | .kvld _ t .. => s.kvldReady e c t.toNat
    | .cpyl .. => s.allEarlier e c.id
    | _ => true

/-- COPY_ENTRY_START. -/
def execCopyEntryStart (q : BitVec 2) (s : State) : Out :=
  match s.core.copyHead q with
  | none => .next s
  | some c => if c.stage != .queued || !s.copyReady s.me c then .next s else .next (s.copyStart s.me c)

/-- Whether an entry is one whose pieces the engine moves now. -/
def State.movesNow (s : State) (c : CopyEntry) : Bool :=
  s.moves c || (c.stage == .active && match c.op.instr with
    | .kvld .. => true
    | _ => false)

/-- COPY_PIECE: the next active queue in rotation moves one piece (R337). -/
def execCopyPiece (s : State) : Out :=
  let k := s.core
  let heads := (List.range 4).filterMap fun j =>
    let q := BitVec.ofNat 2 (k.lastq.toNat + 1 + j)
    (k.copyHead q).filter s.movesNow
  match heads with
  | [] => .next s
  | c :: _ =>
    let t := s.modCore fun x => { x with lastq := c.q }
    match c.op.instr with
    | .kvld _ u .. => .next (t.kvldRow s.me c u.toNat)
    | _ => .next (t.pieceOf s.me c)

end Sys2Proof.Machine
end

