-- ==== Sys2Proof/Machine/Power.lean ====
section
/-! DEFINITION. What reaches the package from its own sensors: soft errors, the energy counters, the power limit and
the thermal limits (R280, R436, R439, R450); and the waits for pages that are no restart events (R140). -/

namespace Sys2Proof.Machine

/-! ## Soft errors (R280, R436) -/

/-- A soft-error counter of die `d` advances, saturating. -/
def State.countSoft (s : State) (d k : Nat) : State :=
  s.modDie d fun x => { x with
    counted := (33 + k) :: x.counted,
    secnt := Store.set 0 x.secnt k
      (if Store.get 0 x.secnt k = BitVec.allOnes 32 then BitVec.allOnes 32 else Store.get 0 x.secnt k + 1) }

/-- The counter of a site: SECNT0, 2 or 4 for a corrected error, the next for one that is not. -/
def softCounter : SoftSite → Nat
  | .sram | .mantis _ | .peerMantis .. => 0
  | .hbm => 2
  | .t2 => 4

/-- A core that reads data lost to a soft error: its task faults. Where the data are a table entry, `va` is the address
whose walk read it, and FADDR holds that (R255); else the access is not known to the event, and the address is a free value
(log entry 2). -/
def State.softReader (s : State) (e : Nat) (va : Option Word) : State :=
  let x := match va with
    | some v => (v, s)
    | none => s.drawFree
  if !(s.coreAt e).owned then s
  else x.2.lateFault e (s.coreAt e).owner
    { code := .softErrorUncorrectable, addr := x.1, slot := 3, bundle := (s.coreAt e).pc, hard := false }

/-- A Mantis unit loses what it holds for a source (R280). -/
def State.loseSource (s : State) (d src : Nat) : State := s.modDie d fun x => { x with mantis := Store.erase x.mantis src }

/-- SOFT_ERROR: a SECDED event is counted; an uncorrectable one faults its readers, or loses what a Mantis unit holds
for a source (R280, R436). One at the unit of another package's node is counted there. -/
def execSoftError (die : BitVec 2) (site : SoftSite) (uncorrectable : Bool) (readers : List (Nat × Option Word)) (s : State) : Out :=
  let t := s.countSoft die.toNat (softCounter site + if uncorrectable then 1 else 0)
  match site with
  | .peerMantis n src =>
    if uncorrectable && !s.ownNode n.toNat && s.member n.toNat then .next (s.loseSource (s.mantisDie n.toNat) src) else .next s
  | .mantis src => .next (if uncorrectable then t.loseSource die.toNat src else t)
  | .sram | .hbm | .t2 =>
    if !uncorrectable then .next t
    else .next ((readers.filter (·.1 < 576)).foldl (fun (u : State) x => u.softReader x.1 x.2) t)

/-! ## Energy and power (R439, R450) -/

/-- The number of the present energy interval: 1024 ns of the time base, or 1075 cycles before there is one. -/
def State.energyTick (s : State) : Nat :=
  match s.timeBase with
  | some t => t / 1024
  | none => s.cycle / 1075

/-- ENERGY_COUNTER_TICK: once in each interval the counters gain what was delivered (R439), and the last millisecond's ticks are
kept for the power limit (R450). -/
def execEnergyCounterTick (uj : List (BitVec 64)) (s : State) : Out :=
  if s.energyTick ≤ s.pkg.engyAt then .next s
  else .next (s.modPkg fun p => { p with
    engyAt := s.energyTick,
    engyLog := ((s.energyTick, ((List.range 6).map fun k => (uj.getD k 0).toNat).sum) :: p.engyLog).filter fun x => s.energyTick < x.1 + 977,
    moved := (List.range 6).map (fun k => (4, 0, k)) ++ p.moved,
    engy := (List.range 6).foldl (fun m k => Store.set 0 m k (Store.get 0 m k + uj.getD k 0)) p.engy })

/-- POWER_LIMIT_WITHHOLD: a mean of the energy counters above WATTS withholds issue in up to 15 cycles of every 16, as many as
the device chooses; one that is not, in none (R450). -/
def execPowerLimitWithhold (cycles : BitVec 4) (s : State) : Out :=
  .next (s.modPkg fun p => { p with withhold := if s.overLimit then cycles.toNat else 0 })

/-- THERMAL_THROTTLE: at 105 °C issue is withheld in 15 cycles of 16 and a notice is sent (R450). -/
def execThermalThrottle (on : Bool) (s : State) : Out :=
  let t := s.modPkg fun p => { p with hot := on }
  .next (if on then t.sendNotice [] else t)

/-- THERMAL_SHUTDOWN: at 115 °C every grid ends, a notice is sent and no launch is accepted until reset (R450). -/
def execThermalShutdown (s : State) : Out :=
  let f : FaultNotice :=
    { code := BitVec.ofNat 8 FCode.softErrorUncorrectable.num, node := 0, core := 0, task := 0, stamp := (s.timeBase).getD 0 }
  .next (((s.abortGrid f true).modPkg fun p => { p with shutdown := true }).sendNotice [])

/-! ## Waits for pages (R140) -/

/-- PAGE_WAIT_REWALK: every 4096 cycles the fetch of the core whose turn it is, and the device writes of its die, walk
again; what finds its page goes on (R140). Released records of the die enter pools that have nodes free (R314). -/
def execPageWaitRewalk (s : State) : Out :=
  let t := if s.me % 144 = 0 && s.cycle % 4096 = 0 then s.retryOwed (dieOf s.me) else s
  let t := if s.me % 144 = 0 then (List.range 9).foldl (fun (u : State) k => u.enterReady (9 * dieOf s.me + k)) t else t
  match t.core.wait with
  | some (.fetch _) => if t.cycle < t.core.nextIssue then .next t else .next (t.modCore fun c => { c with wait := none })
  | _ => .next t

end Sys2Proof.Machine
end

