-- ==== Sys2Proof/Machine/Scalar.lean ====
section
/-! DEFINITION. The scalar class: 49 instructions of slots sa and sb (R155 to R166). -/

namespace Sys2Proof.Machine

/-- ADD (R158). -/
def execAdd (c : Ctl) (d a b : IOp) (w32 nat sat : Bool) (s : State) : Out :=
  s.scalarSlot c [a, b] [d] fun t =>
    .next (t.landI 1 d (intResult w32 nat sat (viewOf w32 nat (t.src .a a) + viewOf w32 nat (t.src .b b))))

/-- SUB (R158). -/
def execSub (c : Ctl) (d a b : IOp) (w32 nat sat : Bool) (s : State) : Out :=
  s.scalarSlot c [a, b] [d] fun t =>
    .next (t.landI 1 d (intResult w32 nat sat (viewOf w32 nat (t.src .a a) - viewOf w32 nat (t.src .b b))))

/-- ADDI (R158). -/
def execAddi (c : Ctl) (d a : IOp) (imm : BitVec 16) (w32 nat sat : Bool) (s : State) : Out :=
  s.scalarSlot c [a] [d] fun t =>
    .next (t.landI 1 d (intResult w32 nat sat (viewOf w32 nat (t.src .a a) + imm.toInt)))

/-- MUL (R158). -/
def execMul (c : Ctl) (d a b : IOp) (w32 nat sat : Bool) (s : State) : Out :=
  s.scalarSlot c [a, b] [d] fun t =>
    .next (t.landI 3 d (intResult w32 nat sat (viewOf w32 nat (t.src .a a) * viewOf w32 nat (t.src .b b))))

/-- MULH (R158). -/
def execMulh (c : Ctl) (d a b : IOp) (w32 : Bool) (s : State) : Out :=
  s.scalarSlot c [a, b] [d] fun t =>
    .next (t.landI 3 d (wrapInt w32 (viewS w32 (t.src .a a) * viewS w32 (t.src .b b) / 2 ^ width w32)))

/-- MULHU (R158). -/
def execMulhu (c : Ctl) (d a b : IOp) (w32 : Bool) (s : State) : Out :=
  s.scalarSlot c [a, b] [d] fun t =>
    .next (t.landI 3 d (wrapInt w32 (viewN w32 (t.src .a a) * viewN w32 (t.src .b b) / 2 ^ width w32)))

/-- MADD (R158). -/
def execMadd (c : Ctl) (d a b e : IOp) (w32 : Bool) (s : State) : Out :=
  s.scalarSlot c [a, b, e] [d] fun t =>
    .next (t.landI 3 d (wrapInt w32 (viewN w32 (t.src .a a) * viewN w32 (t.src .b b) + viewN w32 (t.src .c e))))

/-- DIV (R118, R158). -/
def execDiv (c : Ctl) (d a b : IOp) (w32 : Bool) (s : State) : Out :=
  s.scalarSlot c [a, b] [d] fun t =>
    .next (t.landI 18 d (wrapInt w32 (quotient (viewS w32 (t.src .a a)) (viewS w32 (t.src .b b)))))

/-- DIVU (R118, R158). -/
def execDivu (c : Ctl) (d a b : IOp) (w32 : Bool) (s : State) : Out :=
  s.scalarSlot c [a, b] [d] fun t =>
    .next (t.landI 18 d (wrapInt w32 (quotient (viewN w32 (t.src .a a)) (viewN w32 (t.src .b b)))))

/-- REM (R118, R158). -/
def execRem (c : Ctl) (d a b : IOp) (w32 : Bool) (s : State) : Out :=
  s.scalarSlot c [a, b] [d] fun t =>
    .next (t.landI 18 d (wrapInt w32 (remainder (viewS w32 (t.src .a a)) (viewS w32 (t.src .b b)))))

/-- REMU (R118, R158). -/
def execRemu (c : Ctl) (d a b : IOp) (w32 : Bool) (s : State) : Out :=
  s.scalarSlot c [a, b] [d] fun t =>
    .next (t.landI 18 d (wrapInt w32 (remainder (viewN w32 (t.src .a a)) (viewN w32 (t.src .b b)))))

/-- AND (R158). -/
def execAnd (c : Ctl) (d a b : IOp) (w32 : Bool) (s : State) : Out :=
  s.scalarSlot c [a, b] [d] fun t =>
    .next (t.landI 1 d (wrapWord w32 (t.src .a a &&& t.src .b b)))

/-- OR (R158). -/
def execOr (c : Ctl) (d a b : IOp) (w32 : Bool) (s : State) : Out :=
  s.scalarSlot c [a, b] [d] fun t =>
    .next (t.landI 1 d (wrapWord w32 (t.src .a a ||| t.src .b b)))

/-- XOR (R158). -/
def execXor (c : Ctl) (d a b : IOp) (w32 : Bool) (s : State) : Out :=
  s.scalarSlot c [a, b] [d] fun t =>
    .next (t.landI 1 d (wrapWord w32 (t.src .a a ^^^ t.src .b b)))

/-- ANDN (R158). -/
def execAndn (c : Ctl) (d a b : IOp) (w32 : Bool) (s : State) : Out :=
  s.scalarSlot c [a, b] [d] fun t =>
    .next (t.landI 1 d (wrapWord w32 (t.src .a a &&& ~~~t.src .b b)))

/-- ANDI (R158). -/
def execAndi (c : Ctl) (d a : IOp) (imm : BitVec 16) (w32 : Bool) (s : State) : Out :=
  s.scalarSlot c [a] [d] fun t =>
    .next (t.landI 1 d (wrapWord w32 (t.src .a a &&& imm.signExtend 64)))

/-- ORI (R158). -/
def execOri (c : Ctl) (d a : IOp) (imm : BitVec 16) (w32 : Bool) (s : State) : Out :=
  s.scalarSlot c [a] [d] fun t =>
    .next (t.landI 1 d (wrapWord w32 (t.src .a a ||| imm.setWidth 64)))

/-- XORI (R158). -/
def execXori (c : Ctl) (d a : IOp) (imm : BitVec 16) (w32 : Bool) (s : State) : Out :=
  s.scalarSlot c [a] [d] fun t =>
    .next (t.landI 1 d (wrapWord w32 (t.src .a a ^^^ imm.setWidth 64)))

/-- SHL (R158). -/
def execShl (c : Ctl) (d a b : IOp) (w32 : Bool) (s : State) : Out :=
  s.scalarSlot c [a, b] [d] fun t =>
    .next (t.landI 1 d (wrapInt w32 (viewN w32 (t.src .a a) * 2 ^ ((t.src .b b).toNat % width w32))))

/-- SHR (R158). -/
def execShr (c : Ctl) (d a b : IOp) (w32 : Bool) (s : State) : Out :=
  s.scalarSlot c [a, b] [d] fun t =>
    .next (t.landI 1 d (wrapInt w32 (viewN w32 (t.src .a a) / 2 ^ ((t.src .b b).toNat % width w32))))

/-- SRA (R158). -/
def execSra (c : Ctl) (d a b : IOp) (w32 : Bool) (s : State) : Out :=
  s.scalarSlot c [a, b] [d] fun t =>
    .next (t.landI 1 d (wrapInt w32 (viewS w32 (t.src .a a) / 2 ^ ((t.src .b b).toNat % width w32))))

/-- SHLI (R158). -/
def execShli (c : Ctl) (d a : IOp) (k : BitVec 6) (w32 : Bool) (s : State) : Out :=
  s.scalarSlot c [a] [d] fun t =>
    .next (t.landI 1 d (wrapInt w32 (viewN w32 (t.src .a a) * 2 ^ k.toNat)))

/-- SHRI (R158). -/
def execShri (c : Ctl) (d a : IOp) (k : BitVec 6) (w32 : Bool) (s : State) : Out :=
  s.scalarSlot c [a] [d] fun t =>
    .next (t.landI 1 d (wrapInt w32 (viewN w32 (t.src .a a) / 2 ^ k.toNat)))

/-- SRAI (R158). -/
def execSrai (c : Ctl) (d a : IOp) (k : BitVec 6) (w32 : Bool) (s : State) : Out :=
  s.scalarSlot c [a] [d] fun t =>
    .next (t.landI 1 d (wrapInt w32 (viewS w32 (t.src .a a) / 2 ^ k.toNat)))

/-- ROTR (R158). -/
def execRotr (c : Ctl) (d a b : IOp) (w32 : Bool) (s : State) : Out :=
  s.scalarSlot c [a, b] [d] fun t =>
    .next (t.landI 1 d (rotateRight w32 (t.src .a a) ((t.src .b b).toNat % width w32)))

/-- CLZ (R158). -/
def execClz (c : Ctl) (d a : IOp) (w32 : Bool) (s : State) : Out :=
  s.scalarSlot c [a] [d] fun t =>
    .next (t.landI 1 d (wrapInt w32 (leadingZeros w32 (viewN w32 (t.src .a a)).toNat)))

/-- CTZ (R158). -/
def execCtz (c : Ctl) (d a : IOp) (w32 : Bool) (s : State) : Out :=
  s.scalarSlot c [a] [d] fun t =>
    .next (t.landI 1 d (wrapInt w32 (trailingZeros w32 (viewN w32 (t.src .a a)).toNat)))

/-- POPC (R158). -/
def execPopc (c : Ctl) (d a : IOp) (w32 : Bool) (s : State) : Out :=
  s.scalarSlot c [a] [d] fun t =>
    .next (t.landI 1 d (wrapInt w32 (oneBits w32 (viewN w32 (t.src .a a)).toNat)))

/-- MIN (R158). -/
def execMin (c : Ctl) (d a b : IOp) (w32 : Bool) (s : State) : Out :=
  s.scalarSlot c [a, b] [d] fun t =>
    .next (t.landI 1 d (wrapInt w32 (min (viewS w32 (t.src .a a)) (viewS w32 (t.src .b b)))))

/-- MAX (R158). -/
def execMax (c : Ctl) (d a b : IOp) (w32 : Bool) (s : State) : Out :=
  s.scalarSlot c [a, b] [d] fun t =>
    .next (t.landI 1 d (wrapInt w32 (max (viewS w32 (t.src .a a)) (viewS w32 (t.src .b b)))))

/-- MINU (R158). -/
def execMinu (c : Ctl) (d a b : IOp) (w32 : Bool) (s : State) : Out :=
  s.scalarSlot c [a, b] [d] fun t =>
    .next (t.landI 1 d (wrapInt w32 (min (viewN w32 (t.src .a a)) (viewN w32 (t.src .b b)))))

/-- MAXU (R158). -/
def execMaxu (c : Ctl) (d a b : IOp) (w32 : Bool) (s : State) : Out :=
  s.scalarSlot c [a, b] [d] fun t =>
    .next (t.landI 1 d (wrapInt w32 (max (viewN w32 (t.src .a a)) (viewN w32 (t.src .b b)))))

/-- ABS (R158). -/
def execAbs (c : Ctl) (d a : IOp) (w32 sat : Bool) (s : State) : Out :=
  s.scalarSlot c [a] [d] fun t =>
    .next (t.landI 1 d (intResult w32 false sat ((viewS w32 (t.src .a a)).natAbs : Int)))

/-- SEL (R158). -/
def execSel (c : Ctl) (d a b : IOp) (p : POp) (s : State) : Out :=
  s.scalarSlot c [a, b] [d] fun t =>
    .next (t.landI 1 d (if (t.srcP .c p).getLsbD 0 then t.src .a a else t.src .b b))

/-- CMP (R160). -/
def execCmp (c : Ctl) (d : POp) (a b : IOp) (w32 : Bool) (cond : Cond) (s : State) : Out :=
  s.scalarSlot c [a, b] [] fun t =>
    .next (t.landP 1 d ones (boolWord (condHolds cond w32 (t.src .a a) (t.src .b b))))

/-- CMPI (R160). -/
def execCmpi (c : Ctl) (d : POp) (a : IOp) (imm : BitVec 16) (w32 : Bool) (cond : Cond) (s : State) : Out :=
  s.scalarSlot c [a] [] fun t =>
    .next (t.landP 1 d ones (boolWord (condHolds cond w32 (t.src .a a) (imm.signExtend 64))))

/-- LI (R161). -/
def execLi (c : Ctl) (d : IOp) (imm : BitVec 16) (s : State) : Out :=
  s.scalarSlot c [] [d] fun t =>
    .next (t.landI 1 d (imm.signExtend 64))

/-- LIH (R161). -/
def execLih (c : Ctl) (d a : IOp) (imm : BitVec 16) (k : BitVec 2) (s : State) : Out :=
  s.scalarSlot c [a] [d] fun t =>
    .next (t.landI 1 d (insertField (t.src .a a) (imm.setWidth 64) (16 * k.toNat) 16))

/-- The kind-I registers that a kind-I/P operand names (R154). -/
def xregs : XOp → List IOp
  | .i o => [o]
  | .p _ => []

/-- MOV (R159). -/
def execMov (c : Ctl) (d a : XOp) (s : State) : Out :=
  s.scalarSlot c (xregs a) (xregs d) fun t =>
    let x := match a with
      | .i o => t.src .a o
      | .p n => t.srcP .a n
    match d with
    | .i o => .next (t.landI 1 o x)
    | .p n => .next (t.landP 1 n ones x)

/-- EXT (R162). -/
def execExt (c : Ctl) (d a : IOp) (lo lenM1 : BitVec 6) (sx : Bool) (s : State) : Out :=
  s.scalarSlot c [a] [d] fun t =>
    .next (t.landI 1 d (fieldOf (t.src .a a) lo.toNat (lenM1.toNat + 1) sx))

/-- INS (R162): d is read as a source too. -/
def execIns (c : Ctl) (d a : IOp) (lo lenM1 : BitVec 6) (s : State) : Out :=
  s.scalarSlot c [d, a] [d] fun t =>
    .next (t.landI 1 d (insertField (t.src .d d) (t.src .a a) lo.toNat (lenM1.toNat + 1)))

/-- LEA (R163). -/
def execLea (c : Ctl) (d a b : IOp) (h : BitVec 3) (s : State) : Out :=
  s.scalarSlot c [a, b] [d] fun t =>
    .next (t.landI 1 d (addOffset (t.src .a a) (t.src .b b <<< h.toNat)))

/-- PTAG (R163). -/
def execPtag (c : Ctl) (d a : IOp) (tag : BitVec 4) (s : State) : Out :=
  s.scalarSlot c [a] [d] fun t =>
    .next (t.landI 1 d (tag ++ (t.src .a a).extractLsb' 0 60))

/-- PAND (R164). -/
def execPand (c : Ctl) (d a b : POp) (nb : Bool) (s : State) : Out :=
  s.scalarSlot c [] [] fun t =>
    .next (t.landP 1 d ones (t.srcP .a a &&& (if nb then ~~~t.srcP .b b else t.srcP .b b)))

/-- POR (R164). -/
def execPor (c : Ctl) (d a b : POp) (nb : Bool) (s : State) : Out :=
  s.scalarSlot c [] [] fun t =>
    .next (t.landP 1 d ones (t.srcP .a a ||| (if nb then ~~~t.srcP .b b else t.srcP .b b)))

/-- PXOR (R164). -/
def execPxor (c : Ctl) (d a b : POp) (nb : Bool) (s : State) : Out :=
  s.scalarSlot c [] [] fun t =>
    .next (t.landP 1 d ones (t.srcP .a a ^^^ (if nb then ~~~t.srcP .b b else t.srcP .b b)))

/-- PNOT (R164). -/
def execPnot (c : Ctl) (d a : POp) (s : State) : Out :=
  s.scalarSlot c [] [] fun t => .next (t.landP 1 d ones (~~~t.srcP .a a))

/-- MRS (R165). -/
def execMrs (c : Ctl) (d : IOp) (idx : BitVec 6) (s : State) : Out :=
  s.scalarSlot c [] [d] fun t => .next (t.landI 2 d (t.readSpecial t.me idx.toNat))

/-- MSR: the checks of R166 in their order, then the write lands. Its q source is tested for QUEUE_UNMAPPED and popped before them
(DEDUCED, log entry 33). -/
def execMsr (c : Ctl) (a : IOp) (idx : BitVec 6) (s : State) : Out :=
  s.scalarSlot c [a] [] fun t =>
    if 32 ≤ idx.toNat then t.fail .reservedField 0
    else if specialPriv idx.toNat && !t.core.sup then t.fail .priv 0
    else if specialRefuses idx.toNat (t.src .a a) then t.fail .reservedField 0
    else .next (t.land 1 [Wr.special idx.toNat (t.src .a a)])

end Sys2Proof.Machine
end

