-- ==== Sys2Proof/Machine/Dispatch.lean ====
section
/-! DEFINITION. One arm for each operation of the machine. -/

namespace Sys2Proof.Machine

/-- What an operation does: the meaning of its instruction, event or host command. -/
def exec (i : Instr) (s : State) : Host.Outcome State Fault Refusal :=
  match i with
  | .bundleIssue => Sys2Proof.Machine.execBundleIssue s
  | .heldSlotPerform slot => Sys2Proof.Machine.execHeldSlotPerform slot s
  | .resultLanding => Sys2Proof.Machine.execResultLanding s
  | .add c d a b w32 nat sat => Sys2Proof.Machine.execAdd c d a b w32 nat sat s
  | .sub c d a b w32 nat sat => Sys2Proof.Machine.execSub c d a b w32 nat sat s
  | .addi c d a imm w32 nat sat => Sys2Proof.Machine.execAddi c d a imm w32 nat sat s
  | .mul c d a b w32 nat sat => Sys2Proof.Machine.execMul c d a b w32 nat sat s
  | .mulh c d a b w32 => Sys2Proof.Machine.execMulh c d a b w32 s
  | .mulhu c d a b w32 => Sys2Proof.Machine.execMulhu c d a b w32 s
  | .madd c d a b e w32 => Sys2Proof.Machine.execMadd c d a b e w32 s
  | .div c d a b w32 => Sys2Proof.Machine.execDiv c d a b w32 s
  | .divu c d a b w32 => Sys2Proof.Machine.execDivu c d a b w32 s
  | .rem c d a b w32 => Sys2Proof.Machine.execRem c d a b w32 s
  | .remu c d a b w32 => Sys2Proof.Machine.execRemu c d a b w32 s
  | .and c d a b w32 => Sys2Proof.Machine.execAnd c d a b w32 s
  | .or c d a b w32 => Sys2Proof.Machine.execOr c d a b w32 s
  | .xor c d a b w32 => Sys2Proof.Machine.execXor c d a b w32 s
  | .andn c d a b w32 => Sys2Proof.Machine.execAndn c d a b w32 s
  | .andi c d a imm w32 => Sys2Proof.Machine.execAndi c d a imm w32 s
  | .ori c d a imm w32 => Sys2Proof.Machine.execOri c d a imm w32 s
  | .xori c d a imm w32 => Sys2Proof.Machine.execXori c d a imm w32 s
  | .shl c d a b w32 => Sys2Proof.Machine.execShl c d a b w32 s
  | .shr c d a b w32 => Sys2Proof.Machine.execShr c d a b w32 s
  | .sra c d a b w32 => Sys2Proof.Machine.execSra c d a b w32 s
  | .shli c d a k w32 => Sys2Proof.Machine.execShli c d a k w32 s
  | .shri c d a k w32 => Sys2Proof.Machine.execShri c d a k w32 s
  | .srai c d a k w32 => Sys2Proof.Machine.execSrai c d a k w32 s
  | .rotr c d a b w32 => Sys2Proof.Machine.execRotr c d a b w32 s
  | .clz c d a w32 => Sys2Proof.Machine.execClz c d a w32 s
  | .ctz c d a w32 => Sys2Proof.Machine.execCtz c d a w32 s
  | .popc c d a w32 => Sys2Proof.Machine.execPopc c d a w32 s
  | .min c d a b w32 => Sys2Proof.Machine.execMin c d a b w32 s
  | .max c d a b w32 => Sys2Proof.Machine.execMax c d a b w32 s
  | .minu c d a b w32 => Sys2Proof.Machine.execMinu c d a b w32 s
  | .maxu c d a b w32 => Sys2Proof.Machine.execMaxu c d a b w32 s
  | .abs c d a w32 sat => Sys2Proof.Machine.execAbs c d a w32 sat s
  | .sel c d a b p => Sys2Proof.Machine.execSel c d a b p s
  | .cmp c d a b w32 cond => Sys2Proof.Machine.execCmp c d a b w32 cond s
  | .cmpi c d a imm w32 cond => Sys2Proof.Machine.execCmpi c d a imm w32 cond s
  | .li c d imm => Sys2Proof.Machine.execLi c d imm s
  | .lih c d a imm k => Sys2Proof.Machine.execLih c d a imm k s
  | .mov c d a => Sys2Proof.Machine.execMov c d a s
  | .ext c d a lo lenM1 sx => Sys2Proof.Machine.execExt c d a lo lenM1 sx s
  | .ins c d a lo lenM1 => Sys2Proof.Machine.execIns c d a lo lenM1 s
  | .lea c d a b h => Sys2Proof.Machine.execLea c d a b h s
  | .ptag c d a tag => Sys2Proof.Machine.execPtag c d a tag s
  | .pand c d a b nb => Sys2Proof.Machine.execPand c d a b nb s
  | .por c d a b nb => Sys2Proof.Machine.execPor c d a b nb s
  | .pxor c d a b nb => Sys2Proof.Machine.execPxor c d a b nb s
  | .pnot c d a => Sys2Proof.Machine.execPnot c d a s
  | .mrs c d idx => Sys2Proof.Machine.execMrs c d idx s
  | .msr c a idx => Sys2Proof.Machine.execMsr c a idx s
  | .br c off => Sys2Proof.Machine.execBr c off s
  | .brl c off => Sys2Proof.Machine.execBrl c off s
  | .brr c a lnk => Sys2Proof.Machine.execBrr c a lnk s
  | .ret c => Sys2Proof.Machine.execRet c s
  | .loop c off => Sys2Proof.Machine.execLoop c off s
  | .rotset c a ec rb pc => Sys2Proof.Machine.execRotset c a ec rb pc s
  | .yield c => Sys2Proof.Machine.execYield c s
  | .done c => Sys2Proof.Machine.execDone c s
  | .spawn c a b => Sys2Proof.Machine.execSpawn c a b s
  | .cbar c => Sys2Proof.Machine.execCbar c s
  | .waits c d a b acq => Sys2Proof.Machine.execWaits c d a b acq s
  | .waitany c d mask acq clr => Sys2Proof.Machine.execWaitany c d mask acq clr s
  | .stampMonitor => Sys2Proof.Machine.execStampMonitor s
  | .trap c imm => Sys2Proof.Machine.execTrap c imm s
  | .eret c => Sys2Proof.Machine.execEret c s
  | .ld c d a imm cls sx w => Sys2Proof.Machine.execLd c d a imm cls sx w s
  | .st c d a imm w => Sys2Proof.Machine.execSt c d a imm w s
  | .ldv c d a imm cls => Sys2Proof.Machine.execLdv c d a imm cls s
  | .ldvs c d a b e gl cls => Sys2Proof.Machine.execLdvs c d a b e gl cls s
  | .ldvg c d a b scale cls => Sys2Proof.Machine.execLdvg c d a b scale cls s
  | .stv c d a imm => Sys2Proof.Machine.execStv c d a imm s
  | .stvs c d a b e gl => Sys2Proof.Machine.execStvs c d a b e gl s
  | .stvx c d a b scale => Sys2Proof.Machine.execStvx c d a b scale s
  | .rewalk => Sys2Proof.Machine.execRewalk s
  | .ldq c d a imm sx w => Sys2Proof.Machine.execLdq c d a imm sx w s
  | .ldqBind c d a imm => Sys2Proof.Machine.execLdqBind c d a imm s
  | .ldvq c d a imm => Sys2Proof.Machine.execLdvq c d a imm s
  | .atom c d a b e op w64 ord scope => Sys2Proof.Machine.execAtom c d a b e op w64 ord scope s
  | .cas c d a b e w64 sord facq scope => Sys2Proof.Machine.execCas c d a b e w64 sord facq scope s
  | .atomicPerform id => Sys2Proof.Machine.execAtomicPerform id s
  | .ropMcas c d a b nM1 ord => Sys2Proof.Machine.execRopMcas c d a b nM1 ord s
  | .ropEnq c d a b ord => Sys2Proof.Machine.execRopEnq c d a b ord s
  | .ropChase c d a b hM1 ord => Sys2Proof.Machine.execRopChase c d a b hM1 ord s
  | .mantisRequest r => Sys2Proof.Machine.execMantisRequest r s
  | .mantisRetransmit id => Sys2Proof.Machine.execMantisRetransmit id s
  | .variableOpComplete id => Sys2Proof.Machine.execVariableOpComplete id s
  | .remoteWriteAck id => Sys2Proof.Machine.execRemoteWriteAck id s
  | .phase c kind scope => Sys2Proof.Machine.execPhase c kind scope s
  | .dirtyWriteback line => Sys2Proof.Machine.execDirtyWriteback line s
  | .fenceo c => Sys2Proof.Machine.execFenceo c s
  | .fencex c a => Sys2Proof.Machine.execFencex c a s
  | .forcedBoundary core => Sys2Proof.Machine.execForcedBoundary core s
  | .fencexAck => Sys2Proof.Machine.execFencexAck s
  | .pref c a imm l2only => Sys2Proof.Machine.execPref c a imm l2only s
  | .tld c d a b e map => Sys2Proof.Machine.execTld c d a b e map s
  | .tst c d a b e map => Sys2Proof.Machine.execTst c d a b e map s
  | .shmld c a map => Sys2Proof.Machine.execShmld c a map s
  | .shmst c a map => Sys2Proof.Machine.execShmst c a map s
  | .tlbi c a all scope => Sys2Proof.Machine.execTlbi c a all scope s
  | .tlbiInvalidate id core => Sys2Proof.Machine.execTlbiInvalidate id core s
  | .kvst c d a b e spec draft => Sys2Proof.Machine.execKvst c d a b e spec draft s
  | .kalloc c d spec draft => Sys2Proof.Machine.execKalloc c d spec draft s
  | .kfree c a => Sys2Proof.Machine.execKfree c a s
  | .pfxh c d a b => Sys2Proof.Machine.execPfxh c d a b s
  | .pfxl c d a b pin => Sys2Proof.Machine.execPfxl c d a b pin s
  | .pfxi c d a b => Sys2Proof.Machine.execPfxi c d a b s
  | .pfxp c d a op => Sys2Proof.Machine.execPfxp c d a op s
  | .specb c d a b => Sys2Proof.Machine.execSpecb c d a b s
  | .specc c a => Sys2Proof.Machine.execSpecc c a s
  | .speca c => Sys2Proof.Machine.execSpeca c s
  | .vadd c d a b t rm sat => Sys2Proof.Machine.execVadd c d a b t rm sat s
  | .vsub c d a b t rm sat => Sys2Proof.Machine.execVsub c d a b t rm sat s
  | .vmul c d a b t rm sat => Sys2Proof.Machine.execVmul c d a b t rm sat s
  | .vfma c d a b e t rm sat => Sys2Proof.Machine.execVfma c d a b e t rm sat s
  | .vfms c d a b e t rm sat => Sys2Proof.Machine.execVfms c d a b e t rm sat s
  | .vfnma c d a b e t rm sat => Sys2Proof.Machine.execVfnma c d a b e t rm sat s
  | .vmin c d a b t => Sys2Proof.Machine.execVmin c d a b t s
  | .vmax c d a b t => Sys2Proof.Machine.execVmax c d a b t s
  | .vabs c d a t => Sys2Proof.Machine.execVabs c d a t s
  | .vneg c d a t => Sys2Proof.Machine.execVneg c d a t s
  | .vrcp c d a t rm sat => Sys2Proof.Machine.execVrcp c d a t rm sat s
  | .vrsq c d a t rm sat => Sys2Proof.Machine.execVrsq c d a t rm sat s
  | .vexp2 c d a t rm sat => Sys2Proof.Machine.execVexp2 c d a t rm sat s
  | .vlog2 c d a t rm sat => Sys2Proof.Machine.execVlog2 c d a t rm sat s
  | .vtanh c d a t rm sat => Sys2Proof.Machine.execVtanh c d a t rm sat s
  | .vcvt c d a dst src rm sat => Sys2Proof.Machine.execVcvt c d a dst src rm sat s
  | .vcmp c d a b cond t hi => Sys2Proof.Machine.execVcmp c d a b cond t hi s
  | .vsel c d a b p => Sys2Proof.Machine.execVsel c d a b p s
  | .viadd c d a b t sat => Sys2Proof.Machine.execViadd c d a b t sat s
  | .visub c d a b t sat => Sys2Proof.Machine.execVisub c d a b t sat s
  | .vimul c d a b t sat => Sys2Proof.Machine.execVimul c d a b t sat s
  | .vand c d a b => Sys2Proof.Machine.execVand c d a b s
  | .vor c d a b => Sys2Proof.Machine.execVor c d a b s
  | .vxor c d a b => Sys2Proof.Machine.execVxor c d a b s
  | .vshl c d a b => Sys2Proof.Machine.execVshl c d a b s
  | .vshr c d a b => Sys2Proof.Machine.execVshr c d a b s
  | .vsra c d a b => Sys2Proof.Machine.execVsra c d a b s
  | .vimin c d a b t => Sys2Proof.Machine.execVimin c d a b t s
  | .vimax c d a b t => Sys2Proof.Machine.execVimax c d a b t s
  | .vred c d a op t rm sat => Sys2Proof.Machine.execVred c d a op t rm sat s
  | .vscan c d a op t rm sat => Sys2Proof.Machine.execVscan c d a op t rm sat s
  | .vperm c d a b => Sys2Proof.Machine.execVperm c d a b s
  | .vslide c d a b rot => Sys2Proof.Machine.execVslide c d a b rot s
  | .vbcast c d a b => Sys2Proof.Machine.execVbcast c d a b s
  | .vsplat c d a => Sys2Proof.Machine.execVsplat c d a s
  | .vextr c d a b sx => Sys2Proof.Machine.execVextr c d a b sx s
  | .viota c d a => Sys2Proof.Machine.execViota c d a s
  | .vmov c d a => Sys2Proof.Machine.execVmov c d a s
  | .vpack c d a b t rm sat => Sys2Proof.Machine.execVpack c d a b t rm sat s
  | .vunpk c d a t hi => Sys2Proof.Machine.execVunpk c d a t hi s
  | .vqnt c d a b t fmt rm sat => Sys2Proof.Machine.execVqnt c d a b t fmt rm sat s
  | .vdqnt c d a b t fmt rm sat => Sys2Proof.Machine.execVdqnt c d a b t fmt rm sat s
  | .vrope c d a b e t rm sat => Sys2Proof.Machine.execVrope c d a b e t rm sat s
  | .tbind c t a => Sys2Proof.Machine.execTbind c t a s
  | .tbindUnb c t => Sys2Proof.Machine.execTbindUnb c t s
  | .tfetch c t a b auto => Sys2Proof.Machine.execTfetch c t a b auto s
  | .trel c t => Sys2Proof.Machine.execTrel c t s
  | .tstat c d t w => Sys2Proof.Machine.execTstat c d t w s
  | .tzero c acc a => Sys2Proof.Machine.execTzero c acc a s
  | .wload c t a => Sys2Proof.Machine.execWload c t a s
  | .wswap c => Sys2Proof.Machine.execWswap c s
  | .mma c acc t a wf half => Sys2Proof.Machine.execMma c acc t a wf half s
  | .mmas c acc t a b wf half wsk ask => Sys2Proof.Machine.execMmas c acc t a b wf half wsk ask s
  | .tdrain c t acc a rm sat clr => Sys2Proof.Machine.execTdrain c t acc a rm sat clr s
  | .normk c t a sideB clr => Sys2Proof.Machine.execNormk c t a sideB clr s
  | .aliasTab c a => Sys2Proof.Machine.execAliasTab c a s
  | .seed c a => Sys2Proof.Machine.execSeed c a s
  | .smm c acc ta tb a b => Sys2Proof.Machine.execSmm c acc ta tb a b s
  | .smmv c a => Sys2Proof.Machine.execSmmv c a s
  | .tileControlPerform t => Sys2Proof.Machine.execTileControlPerform t s
  | .tensorJobComplete id => Sys2Proof.Machine.execTensorJobComplete id s
  | .fillRow t row => Sys2Proof.Machine.execFillRow t row s
  | .cpy c d a b q cb => Sys2Proof.Machine.execCpy c d a b q cb s
  | .cpySet c a b q cb => Sys2Proof.Machine.execCpySet c a b q cb s
  | .cpyt c d a b q cb => Sys2Proof.Machine.execCpyt c d a b q cb s
  | .cpyl c a q cb => Sys2Proof.Machine.execCpyl c a q cb s
  | .kvld c t d a b q cb => Sys2Proof.Machine.execKvld c t d a b q cb s
  | .send c d a b q cb => Sys2Proof.Machine.execSend c d a b q cb s
  | .sendRq c d a b q cb => Sys2Proof.Machine.execSendRq c d a b q cb s
  | .jobq c a => Sys2Proof.Machine.execJobq c a s
  | .coll c a q cb => Sys2Proof.Machine.execColl c a q cb s
  | .reshard c smS smD a q cb => Sys2Proof.Machine.execReshard c smS smD a q cb s
  | .slotsel c a b => Sys2Proof.Machine.execSlotsel c a b s
  | .park c mask => Sys2Proof.Machine.execPark c mask s
  | .wake c mask => Sys2Proof.Machine.execWake c mask s
  | .wakeThr c mask a => Sys2Proof.Machine.execWakeThr c mask a s
  | .linkst c d a => Sys2Proof.Machine.execLinkst c d a s
  | .copyEntryStart q => Sys2Proof.Machine.execCopyEntryStart q s
  | .faultResolveAtBoundary => Sys2Proof.Machine.execFaultResolveAtBoundary s
  | .gridAbortNotice f => Sys2Proof.Machine.execGridAbortNotice f s
  | .jobCardStart id => Sys2Proof.Machine.execJobCardStart id s
  | .jobCardComplete id => Sys2Proof.Machine.execJobCardComplete id s
  | .sendQueueEnter q => Sys2Proof.Machine.execSendQueueEnter q s
  | .packetStart dest => Sys2Proof.Machine.execPacketStart dest s
  | .packetReceive node p => Sys2Proof.Machine.execPacketReceive node p s
  | .packetAck dest seq => Sys2Proof.Machine.execPacketAck dest seq s
  | .packetResend dest => Sys2Proof.Machine.execPacketResend dest s
  | .bandParked band => Sys2Proof.Machine.execBandParked band s
  | .bandWakeComplete band => Sys2Proof.Machine.execBandWakeComplete band s
  | .integrityFailure fibre => Sys2Proof.Machine.execIntegrityFailure fibre s
  | .linkLayerNotice pkg fibre => Sys2Proof.Machine.execLinkLayerNotice pkg fibre s
  | .collWalkerTake die => Sys2Proof.Machine.execCollWalkerTake die s
  | .collTransferEmit die id => Sys2Proof.Machine.execCollTransferEmit die id s
  | .collTransferApply die id t outside => Sys2Proof.Machine.execCollTransferApply die id t outside s
  | .slotFreeNotice die id node => Sys2Proof.Machine.execSlotFreeNotice die id node s
  | .collComplete die id => Sys2Proof.Machine.execCollComplete die id s
  | .memberLostNotice pkg => Sys2Proof.Machine.execMemberLostNotice pkg s
  | .jigTake die => Sys2Proof.Machine.execJigTake die s
  | .reshardAnnounce node key base => Sys2Proof.Machine.execReshardAnnounce node key base s
  | .reshardPieceWrite die id piece outside => Sys2Proof.Machine.execReshardPieceWrite die id piece outside s
  | .reshardComplete die id => Sys2Proof.Machine.execReshardComplete die id s
  | .softError die site uncorrectable readers => Sys2Proof.Machine.execSoftError die site uncorrectable readers s
  | .energyCounterTick uj => Sys2Proof.Machine.execEnergyCounterTick uj s
  | .powerLimitWithhold cycles => Sys2Proof.Machine.execPowerLimitWithhold cycles s
  | .thermalThrottle on => Sys2Proof.Machine.execThermalThrottle on s
  | .boot firmware => Sys2Proof.Machine.execBoot firmware s
  | .roceWrite node qp pa bytes => Sys2Proof.Machine.execRoceWrite node qp pa bytes s
  | .roceRead node qp pa len => Sys2Proof.Machine.execRoceRead node qp pa len s
  | .session m => Sys2Proof.Machine.execSession m s
  | .regrd h r => Sys2Proof.Machine.execRegrd h r s
  | .regwr h r v => Sys2Proof.Machine.execRegwr h r v s
  | .formatWindowWrite h die win v => Sys2Proof.Machine.execFormatWindowWrite h die win v s
  | .l2lockWrite h die v => Sys2Proof.Machine.execL2lockWrite h die v s
  | .kvcfgWrite h die w0 w12 => Sys2Proof.Machine.execKvcfgWrite h die w0 w12 s
  | .slotcfgWrite h w0 w1 w2 => Sys2Proof.Machine.execSlotcfgWrite h w0 w1 w2 s
  | .keyInstall h entry job peer wrapped => Sys2Proof.Machine.execKeyInstall h entry job peer wrapped s
  | .launch h v => Sys2Proof.Machine.execLaunch h v s
  | .preempt h core => Sys2Proof.Machine.execPreempt h core s
  | .resume h core => Sys2Proof.Machine.execResume h core s
  | .partform h id pkg mesh tb others => Sys2Proof.Machine.execPartform h id pkg mesh tb others s
  | .detach h pkg => Sys2Proof.Machine.execDetach h pkg s
  | .dissolve h => Sys2Proof.Machine.execDissolve h s
  | .retrain h fibre ok => Sys2Proof.Machine.execRetrain h fibre ok s
  | .attest h nonce range => Sys2Proof.Machine.execAttest h nonce range s
  | .recall h num => Sys2Proof.Machine.execRecall h num s
  | .peerRequest r => Sys2Proof.Machine.execPeerRequest r s
  | .roceRequestReject qp => Sys2Proof.Machine.execRoceRequestReject qp s
  | .bootFlashRecovery image => Sys2Proof.Machine.execBootFlashRecovery image s
  | .launchEvaluate => Sys2Proof.Machine.execLaunchEvaluate s
  | .dispatch => Sys2Proof.Machine.execDispatch s
  | .priorityRaise => Sys2Proof.Machine.execPriorityRaise s
  | .gridEnd => Sys2Proof.Machine.execGridEnd s
  | .watchdog => Sys2Proof.Machine.execWatchdog s
  | .thermalShutdown => Sys2Proof.Machine.execThermalShutdown s
  | .packageReset => Sys2Proof.Machine.execPackageReset s
  | .resync => Sys2Proof.Machine.execResync s
  | .pageWaitRewalk => Sys2Proof.Machine.execPageWaitRewalk s
  | .latheStep => Sys2Proof.Machine.execLatheStep s
  | .smmBatch => Sys2Proof.Machine.execSmmBatch s
  | .hostMessageDiscard => Sys2Proof.Machine.execHostMessageDiscard s
  | .fabricOpApply => Sys2Proof.Machine.execFabricOpApply s
  | .copyPiece => Sys2Proof.Machine.execCopyPiece s
  | .stampWrite => Sys2Proof.Machine.execStampWrite s
  | .slotStart => Sys2Proof.Machine.execSlotStart s
  | .rotationSwitch => Sys2Proof.Machine.execRotationSwitch s
  | .thresholdFire => Sys2Proof.Machine.execThresholdFire s
  | .tensorJobStart => Sys2Proof.Machine.execTensorJobStart s

end Sys2Proof.Machine
end

