-- ==== Sys2Proof/Machine/Step.lean ====
section
/-! DEFINITION. One step of the machine: one turn of one core in one pass of a cycle, or one event from outside. -/

namespace Sys2Proof.Machine

/-- Events run one after another. -/
def runAll : List Instr → State → Out
  | [], s => .next s
  | i :: is, s =>
    match exec i s with
    | .next t => runAll is t
    | r => r

/-- The operations of an issue perform in slot order. -/
def drain : Nat → State → Out
  | 0, s => .next s
  | n + 1, s =>
    match s.nextOp 9 with
    | (none, t) => .next t
    | (some o, t) =>
      match exec o.instr t with
      | .next u => drain n u
      | r => r

/-- An issue, or the performance of a held slot, as a whole. -/
def whole (i : Instr) (s : State) : Out :=
  match exec i s with
  | .next t =>
    if s.underWay t then
      match drain 9 t with
      | .next u => .next u.finish
      | r => r
    else .next t
  | r => r

/-- The held slots of a core, one after another. -/
def heldAll : List Nat → State → Out
  | [], s => .next s
  | k :: ks, s =>
    match whole (.heldSlotPerform (BitVec.ofNat 3 k)) s with
    | .next t => heldAll ks t
    | r => r

/-- What the core whose turn it is does in the present pass. -/
def act (s : State) : Out :=
  match s.pass with
  | 0 => exec .resultLanding s
  | 1 => runAll s.events.1 s.events.2
  | 2 =>
    match whole .bundleIssue s with
    | .next t => .next (if s.core.issues = t.core.issues then t.progress else t)
    | r => r
  | 3 => if s.core.held.isEmpty then .next s else heldAll [4, 5, 6, 7] s
  | _ =>
    match runAll s.fenceTurn.1 s.fenceTurn.2 with
    | .next t => runAll s.sendEvents (if t.core.mwait = s.core.mwait then t else t.settle.resolveRaised)
    | r => r

/-- One step. -/
def step (s : State) : Host.Outcome State Fault Refusal :=
  match s.outside with
  | some (i, t) => if i.opClass.isSome then .next t else exec i t
  | none =>
    match act s with
    | .next t => .next t.turn
    | r => r

/-- The state with an instruction of the opcode table placed where the next step fetches it. -/
def State.withFetchWord (s : State) (_nbits w : Nat) : State := s.place (BitVec.ofNat 64 w)

end Sys2Proof.Machine
end

