-- ==== Sys2Proof/Safety.lean ====
section
/-! DEFINITION. The vocabulary of the statements about this machine: when a slot operation runs and on what operands,
what a well-formed state is, and what two states agree on. Nothing here is part of the machine. -/

namespace Sys2Proof.Machine

/-! ## When a slot operation runs (R57, R318, R319) -/

/-- The slot that performs gets its operands and goes on in `t`: it latched them before, or its q operands are mapped
and each has been popped once. -/
def State.Takes (s : State) (rd wr : List IOp) (t : State) : Prop :=
  (s.core.cur.latched = true ∧ t = s)
    ∨ (s.core.cur.latched = false ∧ s.core.mapped rd wr = true ∧ t = s.popAll (qsOf rd))

/-- An operation guarded by bit 0 of its predicate runs, and goes on in `t`. -/
def State.Opens (s : State) (c : Ctl) (rd wr : List IOp) (t : State) : Prop :=
  (s.guardMask c).getLsbD 0 = true ∧ s.Takes rd wr t

/-- A vector operation with lane mask `m` runs, and goes on in `t`. -/
def State.OpensLanes (s : State) (c : Ctl) (rd wr : List IOp) (m : Word) (t : State) : Prop :=
  s.guardMask c = m ∧ m ≠ 0 ∧ s.Takes rd wr t

/-! ## Integers as the manual writes them (R117, R157) -/

/-- The low 32 bits of a word. -/
def low32 (x : Word) : BitVec 32 := x.setWidth 32
/-- A 32-bit result as a scalar register takes it: sign-extended. -/
def sext32 (x : BitVec 32) : Word := x.signExtend 64
/-- An integer clamped to a range. -/
def clampInt (lo hi x : Int) : Int := max lo (min hi x)
/-- The number (−1)^neg × m × 2^e (R100). -/
def valueOf (neg : Bool) (m : Nat) (e : Int) : ℚ := (if neg then -1 else 1) * m * (2 : ℚ) ^ e

end Sys2Proof.Machine
end

