-- ==== Sys2Proof/Certificates/Slice0/Obligations.lean ====
section
/-! DEFINITION. The statements for the provers. The completion statements say, for every instruction, in which states it
runs and which next state it then answers. -/

open Sys2Proof Sys2Proof.Machine

/-! ## Scalar class (R157 to R166) -/

/-- R157, R158: sums, differences and products without saturation are those of two's complement words of 64 or 32 bits,
a 32-bit result sign-extended, and land after 1 or 3 cycles; MULH and MULHU give the high half of the product. -/
def Obligations.ScalarSumsAndProductsWrap : Prop :=
  ∀ (s t : State) (c : Ctl) (d a b e : IOp) (imm : BitVec 16) (nat : Bool),
    (s.Opens c [a, b] [d] t →
      let x := t.src .a a
      let y := t.src .b b
      exec (.add c d a b false nat false) s = .next (t.landI 1 d (x + y)) ∧
      exec (.add c d a b true nat false) s = .next (t.landI 1 d (sext32 (low32 x + low32 y))) ∧
      exec (.sub c d a b false nat false) s = .next (t.landI 1 d (x - y)) ∧
      exec (.sub c d a b true nat false) s = .next (t.landI 1 d (sext32 (low32 x - low32 y))) ∧
      exec (.mul c d a b false nat false) s = .next (t.landI 3 d (x * y)) ∧
      exec (.mul c d a b true nat false) s = .next (t.landI 3 d (sext32 (low32 x * low32 y))) ∧
      exec (.mulh c d a b false) s = .next (t.landI 3 d ((x.signExtend 128 * y.signExtend 128).extractLsb' 64 64)) ∧
      exec (.mulh c d a b true) s =
        .next (t.landI 3 d (sext32 (((low32 x).signExtend 64 * (low32 y).signExtend 64).extractLsb' 32 32))) ∧
      exec (.mulhu c d a b false) s = .next (t.landI 3 d ((x.setWidth 128 * y.setWidth 128).extractLsb' 64 64)) ∧
      exec (.mulhu c d a b true) s =
        .next (t.landI 3 d (sext32 (((low32 x).setWidth 64 * (low32 y).setWidth 64).extractLsb' 32 32)))) ∧
    (s.Opens c [a] [d] t →
      let x := t.src .a a
      exec (.addi c d a imm false nat false) s = .next (t.landI 1 d (x + imm.signExtend 64)) ∧
      exec (.addi c d a imm true nat false) s = .next (t.landI 1 d (sext32 (low32 x + imm.signExtend 32)))) ∧
    (s.Opens c [a, b, e] [d] t →
      let x := t.src .a a
      let y := t.src .b b
      let z := t.src .c e
      exec (.madd c d a b e false) s = .next (t.landI 3 d (x * y + z)) ∧
      exec (.madd c d a b e true) s = .next (t.landI 3 d (sext32 (low32 x * low32 y + low32 z))))

/-- R117, R158: with SAT the exact sum, difference, product or absolute value is clamped to the range that W32 and NAT
select, before it is stored.

R118, R158: quotients truncate towards zero and remainders take the dividend's sign; a divisor of 0 gives all ones
and the dividend, and the most negative number divided by −1 wraps. They land after 18 cycles. -/
def Obligations.ScalarSaturationAndQuotients : Prop :=
  (∀ (s t : State) (c : Ctl) (d a b : IOp) (imm : BitVec 16),
      (s.Opens c [a, b] [d] t →
        let x := t.src .a a
        let y := t.src .b b
        let s64 := fun (v : Int) => BitVec.ofInt 64 (clampInt (-(2 ^ 63)) (2 ^ 63 - 1) v)
        let u64 := fun (v : Int) => BitVec.ofInt 64 (clampInt 0 (2 ^ 64 - 1) v)
        let s32 := fun (v : Int) => sext32 (BitVec.ofInt 32 (clampInt (-(2 ^ 31)) (2 ^ 31 - 1) v))
        let u32 := fun (v : Int) => sext32 (BitVec.ofInt 32 (clampInt 0 (2 ^ 32 - 1) v))
        exec (.add c d a b false false true) s = .next (t.landI 1 d (s64 (x.toInt + y.toInt))) ∧
        exec (.add c d a b false true true) s = .next (t.landI 1 d (u64 (x.toNat + y.toNat))) ∧
        exec (.add c d a b true false true) s = .next (t.landI 1 d (s32 ((low32 x).toInt + (low32 y).toInt))) ∧
        exec (.add c d a b true true true) s = .next (t.landI 1 d (u32 ((low32 x).toNat + (low32 y).toNat))) ∧
        exec (.sub c d a b false false true) s = .next (t.landI 1 d (s64 (x.toInt - y.toInt))) ∧
        exec (.sub c d a b false true true) s = .next (t.landI 1 d (u64 (x.toNat - y.toNat))) ∧
        exec (.sub c d a b true false true) s = .next (t.landI 1 d (s32 ((low32 x).toInt - (low32 y).toInt))) ∧
        exec (.sub c d a b true true true) s = .next (t.landI 1 d (u32 ((low32 x).toNat - (low32 y).toNat))) ∧
        exec (.mul c d a b false false true) s = .next (t.landI 3 d (s64 (x.toInt * y.toInt))) ∧
        exec (.mul c d a b false true true) s = .next (t.landI 3 d (u64 (x.toNat * y.toNat))) ∧
        exec (.mul c d a b true false true) s = .next (t.landI 3 d (s32 ((low32 x).toInt * (low32 y).toInt))) ∧
        exec (.mul c d a b true true true) s = .next (t.landI 3 d (u32 ((low32 x).toNat * (low32 y).toNat)))) ∧
      (s.Opens c [a] [d] t →
        let x := t.src .a a
        let s64 := fun (v : Int) => BitVec.ofInt 64 (clampInt (-(2 ^ 63)) (2 ^ 63 - 1) v)
        let u64 := fun (v : Int) => BitVec.ofInt 64 (clampInt 0 (2 ^ 64 - 1) v)
        let s32 := fun (v : Int) => sext32 (BitVec.ofInt 32 (clampInt (-(2 ^ 31)) (2 ^ 31 - 1) v))
        let u32 := fun (v : Int) => sext32 (BitVec.ofInt 32 (clampInt 0 (2 ^ 32 - 1) v))
        exec (.addi c d a imm false false true) s = .next (t.landI 1 d (s64 (x.toInt + imm.toInt))) ∧
        exec (.addi c d a imm false true true) s = .next (t.landI 1 d (u64 (x.toNat + imm.toInt))) ∧
        exec (.addi c d a imm true false true) s = .next (t.landI 1 d (s32 ((low32 x).toInt + imm.toInt))) ∧
        exec (.addi c d a imm true true true) s = .next (t.landI 1 d (u32 ((low32 x).toNat + imm.toInt))) ∧
        exec (.abs c d a false true) s = .next (t.landI 1 d (s64 |x.toInt|)) ∧
        exec (.abs c d a true true) s = .next (t.landI 1 d (s32 |(low32 x).toInt|)))) ∧
  (∀ (s t : State) (c : Ctl) (d a b : IOp), s.Opens c [a, b] [d] t →
      let x := t.src .a a
      let y := t.src .b b
      exec (.div c d a b false) s = .next (t.landI 18 d (if y = 0 then BitVec.allOnes 64 else x.sdiv y)) ∧
      exec (.div c d a b true) s =
        .next (t.landI 18 d (if low32 y = 0 then BitVec.allOnes 64 else sext32 ((low32 x).sdiv (low32 y)))) ∧
      exec (.divu c d a b false) s = .next (t.landI 18 d (if y = 0 then BitVec.allOnes 64 else x / y)) ∧
      exec (.divu c d a b true) s =
        .next (t.landI 18 d (if low32 y = 0 then BitVec.allOnes 64 else sext32 (low32 x / low32 y))) ∧
      exec (.rem c d a b false) s = .next (t.landI 18 d (if y = 0 then x else x.srem y)) ∧
      exec (.rem c d a b true) s =
        .next (t.landI 18 d (sext32 (if low32 y = 0 then low32 x else (low32 x).srem (low32 y)))) ∧
      exec (.remu c d a b false) s = .next (t.landI 18 d (if y = 0 then x else x % y)) ∧
      exec (.remu c d a b true) s =
        .next (t.landI 18 d (sext32 (if low32 y = 0 then low32 x else low32 x % low32 y))))

/-- R158: the bitwise operations, with the immediate of ANDI sign-extended and those of ORI and XORI zero-extended, and
the shifts and the rotation by a register (modulo the width) or by an immediate that the encoding admits. -/
def Obligations.ScalarLogicAndShifts : Prop :=
  ∀ (s t : State) (c : Ctl) (d a b : IOp) (imm : BitVec 16) (k : BitVec 6),
    (s.Opens c [a, b] [d] t →
      let x := t.src .a a
      let y := t.src .b b
      let n := y.toNat % 64
      let n32 := y.toNat % 32
      exec (.and c d a b false) s = .next (t.landI 1 d (x &&& y)) ∧
      exec (.and c d a b true) s = .next (t.landI 1 d (sext32 (low32 x &&& low32 y))) ∧
      exec (.or c d a b false) s = .next (t.landI 1 d (x ||| y)) ∧
      exec (.or c d a b true) s = .next (t.landI 1 d (sext32 (low32 x ||| low32 y))) ∧
      exec (.xor c d a b false) s = .next (t.landI 1 d (x ^^^ y)) ∧
      exec (.xor c d a b true) s = .next (t.landI 1 d (sext32 (low32 x ^^^ low32 y))) ∧
      exec (.andn c d a b false) s = .next (t.landI 1 d (x &&& ~~~y)) ∧
      exec (.andn c d a b true) s = .next (t.landI 1 d (sext32 (low32 x &&& ~~~(low32 y)))) ∧
      exec (.shl c d a b false) s = .next (t.landI 1 d (x <<< n)) ∧
      exec (.shl c d a b true) s = .next (t.landI 1 d (sext32 (low32 x <<< n32))) ∧
      exec (.shr c d a b false) s = .next (t.landI 1 d (x >>> n)) ∧
      exec (.shr c d a b true) s = .next (t.landI 1 d (sext32 (low32 x >>> n32))) ∧
      exec (.sra c d a b false) s = .next (t.landI 1 d (x.sshiftRight n)) ∧
      exec (.sra c d a b true) s = .next (t.landI 1 d (sext32 ((low32 x).sshiftRight n32))) ∧
      exec (.rotr c d a b false) s = .next (t.landI 1 d (x >>> n ||| x <<< ((64 - n) % 64))) ∧
      exec (.rotr c d a b true) s = .next (t.landI 1 d (sext32 (low32 x >>> n32 ||| low32 x <<< ((32 - n32) % 32))))) ∧
    (s.Opens c [a] [d] t →
      let x := t.src .a a
      exec (.andi c d a imm false) s = .next (t.landI 1 d (x &&& imm.signExtend 64)) ∧
      exec (.andi c d a imm true) s = .next (t.landI 1 d (sext32 (low32 x &&& imm.signExtend 32))) ∧
      exec (.ori c d a imm false) s = .next (t.landI 1 d (x ||| imm.setWidth 64)) ∧
      exec (.ori c d a imm true) s = .next (t.landI 1 d (sext32 (low32 x ||| imm.setWidth 32))) ∧
      exec (.xori c d a imm false) s = .next (t.landI 1 d (x ^^^ imm.setWidth 64)) ∧
      exec (.xori c d a imm true) s = .next (t.landI 1 d (sext32 (low32 x ^^^ imm.setWidth 32))) ∧
      exec (.shli c d a k false) s = .next (t.landI 1 d (x <<< k.toNat)) ∧
      exec (.shri c d a k false) s = .next (t.landI 1 d (x >>> k.toNat)) ∧
      exec (.srai c d a k false) s = .next (t.landI 1 d (x.sshiftRight k.toNat)) ∧
      (k < 32 →
        exec (.shli c d a k true) s = .next (t.landI 1 d (sext32 (low32 x <<< k.toNat))) ∧
        exec (.shri c d a k true) s = .next (t.landI 1 d (sext32 (low32 x >>> k.toNat))) ∧
        exec (.srai c d a k true) s = .next (t.landI 1 d (sext32 ((low32 x).sshiftRight k.toNat)))))

/-- R158: CLZ and CTZ count the zero bits above the highest and below the lowest one bit (the width for 0), POPC the one
bits; minima, maxima, ABS without SAT, and SEL by bit 0 of its predicate.

R160, R164: a compare writes all 64 bits of its predicate with the truth of its condition, the immediate of CMPI
sign-extended; PAND, POR, PXOR and PNOT are bitwise over 64 bits, NB inverting the second operand. -/
def Obligations.ScalarCountsComparesAndSelection : Prop :=
  (∀ (s t : State) (c : Ctl) (d a b : IOp) (p : POp),
      (s.Opens c [a] [d] t →
        let x := t.src .a a
        let lz := fun (w n : Nat) (y : Nat) => n ≤ w ∧ y < 2 ^ (w - n) ∧ (n < w → 2 ^ (w - n - 1) ≤ y)
        let tz := fun (w n : Nat) (y : Nat) => n ≤ w ∧ (∀ j < n, y.testBit j = false) ∧ (n < w → y.testBit n = true)
        (∃ n, lz 64 n x.toNat ∧ exec (.clz c d a false) s = .next (t.landI 1 d (BitVec.ofNat 64 n))) ∧
        (∃ n, lz 32 n (low32 x).toNat ∧ exec (.clz c d a true) s = .next (t.landI 1 d (BitVec.ofNat 64 n))) ∧
        (∃ n, tz 64 n x.toNat ∧ exec (.ctz c d a false) s = .next (t.landI 1 d (BitVec.ofNat 64 n))) ∧
        (∃ n, tz 32 n (low32 x).toNat ∧ exec (.ctz c d a true) s = .next (t.landI 1 d (BitVec.ofNat 64 n))) ∧
        exec (.popc c d a false) s =
          .next (t.landI 1 d (BitVec.ofNat 64 ((List.finRange 64).countP fun j => x.getLsb j))) ∧
        exec (.popc c d a true) s =
          .next (t.landI 1 d (BitVec.ofNat 64 ((List.finRange 32).countP fun j => (low32 x).getLsb j))) ∧
        exec (.abs c d a false false) s = .next (t.landI 1 d (if x.slt 0 then -x else x)) ∧
        exec (.abs c d a true false) s = .next (t.landI 1 d (sext32 (if (low32 x).slt 0 then -low32 x else low32 x)))) ∧
      (s.Opens c [a, b] [d] t →
        let x := t.src .a a
        let y := t.src .b b
        let x32 := low32 x
        let y32 := low32 y
        exec (.min c d a b false) s = .next (t.landI 1 d (if x.slt y then x else y)) ∧
        exec (.min c d a b true) s = .next (t.landI 1 d (sext32 (if x32.slt y32 then x32 else y32))) ∧
        exec (.max c d a b false) s = .next (t.landI 1 d (if x.slt y then y else x)) ∧
        exec (.max c d a b true) s = .next (t.landI 1 d (sext32 (if x32.slt y32 then y32 else x32))) ∧
        exec (.minu c d a b false) s = .next (t.landI 1 d (if x < y then x else y)) ∧
        exec (.minu c d a b true) s = .next (t.landI 1 d (sext32 (if x32 < y32 then x32 else y32))) ∧
        exec (.maxu c d a b false) s = .next (t.landI 1 d (if x < y then y else x)) ∧
        exec (.maxu c d a b true) s = .next (t.landI 1 d (sext32 (if x32 < y32 then y32 else x32))) ∧
        exec (.sel c d a b p) s = .next (t.landI 1 d (if (t.srcP .c p).getLsbD 0 then x else y)))) ∧
  (∀ (s t : State) (c : Ctl) (d : POp) (a b : IOp) (p q : POp) (imm : BitVec 16) (nb : Bool) (cond : Cond),
      let truth := fun (w : Nat) (x y : BitVec w) =>
        match cond with
        | .eq => x == y
        | .ne => x != y
        | .lt => x.slt y
        | .ge => y.sle x
        | .le => x.sle y
        | .gt => y.slt x
        | .ltu => x.ult y
        | .geu => y.ule x
        | .leu => x.ule y
        | .gtu => y.ult x
      let all := fun (v : Bool) => if v then BitVec.allOnes 64 else 0#64
      (s.Opens c [a, b] [] t →
        exec (.cmp c d a b false cond) s = .next (t.landP 1 d ones (all (truth 64 (t.src .a a) (t.src .b b)))) ∧
        exec (.cmp c d a b true cond) s =
          .next (t.landP 1 d ones (all (truth 32 (low32 (t.src .a a)) (low32 (t.src .b b)))))) ∧
      (s.Opens c [a] [] t →
        exec (.cmpi c d a imm false cond) s =
          .next (t.landP 1 d ones (all (truth 64 (t.src .a a) (imm.signExtend 64)))) ∧
        exec (.cmpi c d a imm true cond) s =
          .next (t.landP 1 d ones (all (truth 32 (low32 (t.src .a a)) (imm.signExtend 32))))) ∧
      ((s.guardMask c).getLsbD 0 = true →
        let x := s.srcP .a p
        let y := if nb then ~~~s.srcP .b q else s.srcP .b q
        exec (.pand c d p q nb) s = .next (s.landP 1 d ones (x &&& y)) ∧
        exec (.por c d p q nb) s = .next (s.landP 1 d ones (x ||| y)) ∧
        exec (.pxor c d p q nb) s = .next (s.landP 1 d ones (x ^^^ y)) ∧
        exec (.pnot c d p) s = .next (s.landP 1 d ones (~~~x))))

/-- R159, R161, R162, R163: LI, LIH, MOV between the two files, EXT and INS over every field the encoding admits, LEA and
PTAG. A bit of the result is said bit by bit where a field is moved. -/
def Obligations.ScalarMovesFieldsAndPointers : Prop :=
  ∀ (s t : State) (c : Ctl) (d a b : IOp) (p q : POp) (imm : BitVec 16) (k : BitVec 2) (lo lenM1 : BitVec 6)
    (sx : Bool) (h : BitVec 3) (tag : BitVec 4),
    (s.Opens c [] [d] t →
      exec (.li c d imm) s = .next (t.landI 1 d (imm.signExtend 64)) ∧
      exec (.mov c (.i d) (.p p)) s = .next (t.landI 1 d (t.srcP .a p))) ∧
    (s.Opens c [a] [] t → exec (.mov c (.p q) (.i a)) s = .next (t.landP 1 q ones (t.src .a a))) ∧
    (s.Opens c [] [] t → exec (.mov c (.p q) (.p p)) s = .next (t.landP 1 q ones (t.srcP .a p))) ∧
    (s.Opens c [a] [d] t →
      let x := t.src .a a
      exec (.mov c (.i d) (.i a)) s = .next (t.landI 1 d x) ∧
      (∃ y, exec (.lih c d a imm k) s = .next (t.landI 1 d y) ∧
        y.extractLsb' (16 * k.toNat) 16 = imm ∧ ∀ j < 64, j / 16 ≠ k.toNat → y.getLsbD j = x.getLsbD j) ∧
      (lo.toNat + lenM1.toNat < 64 →
        ∃ y, exec (.ext c d a lo lenM1 sx) s = .next (t.landI 1 d y) ∧
          ∀ j < 64, y.getLsbD j =
            if j ≤ lenM1.toNat then x.getLsbD (lo.toNat + j) else sx && x.getLsbD (lo.toNat + lenM1.toNat)) ∧
      (∃ y, exec (.ptag c d a tag) s = .next (t.landI 1 d y) ∧
        y.extractLsb' 60 4 = tag ∧ y.extractLsb' 0 60 = x.extractLsb' 0 60)) ∧
    (s.Opens c [d, a] [d] t → lo.toNat + lenM1.toNat < 64 →
      ∃ y, exec (.ins c d a lo lenM1) s = .next (t.landI 1 d y) ∧
        ∀ j < 64, y.getLsbD j =
          if lo.toNat ≤ j ∧ j ≤ lo.toNat + lenM1.toNat then (t.src .a a).getLsbD (j - lo.toNat)
          else (t.src .d d).getLsbD j) ∧
    (s.Opens c [a, b] [d] t →
      ∃ y, exec (.lea c d a b h) s = .next (t.landI 1 d y) ∧
        y.extractLsb' 60 4 = (t.src .a a).extractLsb' 60 4 ∧
        (y.extractLsb' 0 60).toNat = ((t.src .a a).toNat + (t.src .b b).toNat * 2 ^ h.toNat) % 2 ^ 60)

/-! ## Special registers (R149, R151, R165, R166) -/

/-- R165: MRS lands after 2 cycles. STATUS is the value a mark bundle found, or shows the gate, the mark, CONTAIN and
the mode; NODEID, CORE, CYCLE, MESH, CLSHARE and DBSTAT are derived; POLICY gathers the three policies; indices from 32
to 63 give zero; any other register gives what it holds.

R166: the checks of MSR in their order: an index from 32 to 63, then a privileged register in user mode, then a
reserved bit or a value out of range of a register that may be written; else the write lands in the next cycle. A check
that fails raises its fault and places nothing. That a reserved field of FCODE, VARX, SMPN or CBSTAT is such a check is the
model's choice (log entry 85). -/
def Obligations.SpecialRegistersAreReadAndWritten : Prop :=
  (∀ (s t : State) (c : Ctl) (d : IOp) (idx : BitVec 6), s.Opens c [] [d] t →
      ∃ x : Word, exec (.mrs c d idx) s = .next (t.landI 2 d x) ∧
        (32 ≤ idx.toNat → x = 0) ∧
        (idx.toNat ∈ [1, 2, 4, 6, 7, 8, 9, 10, 11, 13, 14, 16, 17, 18, 19, 20, 21, 22, 23, 24, 26, 27, 29, 31] →
          x = s.core.special idx.toNat) ∧
        (idx = 3 → (s.pkg.lastPart = none → x = 0) ∧
          ∀ p, s.pkg.lastPart = some p → x = BitVec.ofNat 64 (p.1.toNat * 4 + s.me / 144)) ∧
        (idx = 5 → x = BitVec.ofNat 64 (s.me % 144)) ∧
        (idx = 12 → x = BitVec.ofNat 64 s.cycle) ∧
        (idx = 15 → (s.pkg.lastPart = none → x = 0) ∧ ∀ p, s.pkg.lastPart = some p → x = p.2) ∧
        (idx = 25 → x = (s.clusterAt (s.me / 144 * 9 + s.me % 144 / 16)).clshare) ∧
        (idx = 28 → ∀ j < 8, x.extractLsb' (8 * j) 8 =
          BitVec.ofNat 8 ((Store.get 0 s.core.db j + (s.core.dbNow.filter (· == (j, s.cycle))).length) % 64)) ∧
        (idx = 0 → s.core.marking = none → s.core.gate.length ≤ 64 →
          (x.extractLsb' 4 7).toNat = s.core.gate.length ∧ x.getLsbD 3 = s.core.gateClosed ∧ x.getLsbD 2 = s.core.marked ∧
          x.getLsbD 1 = s.contain ∧ x.getLsbD 0 = (s.core.special 31).getLsbD 0 ∧ x.extractLsb' 11 53 = 0) ∧
        (idx = 0 → ∀ y, s.core.marking = some y → x = y) ∧
        (idx = 30 → x.extractLsb' 4 2 = s.gpol ∧ x.extractLsb' 2 2 = (s.crewOf s.me).cpol ∧
          x.extractLsb' 0 2 = (s.core.special 30).extractLsb' 0 2 ∧ x.extractLsb' 6 58 = 0)) ∧
  (∀ (s t : State) (c : Ctl) (a : IOp) (idx : BitVec 6), s.Opens c [a] [] t →
      let x := t.src .a a
      let user := (s.core.special 31).getLsbD 0 = false
      let privileged := idx ∈ ([11, 20, 26, 30, 31] : List (BitVec 6))
      let reserved :=
        (idx ∈ ([6, 22, 23] : List (BitVec 6)) ∧ 2 ^ 32 ≤ x.toNat) ∨ (idx = 7 ∧ 64 ≤ x.toNat) ∨ (idx = 8 ∧ 48 ≤ x.toNat) ∨
        (idx = 9 ∧ 8 ≤ x.toNat) ∨ (idx = 10 ∧ (16 ≤ x.toNat ∨ 5 ≤ x.toNat % 8)) ∨
        (idx ∈ ([11, 31] : List (BitVec 6)) ∧ 2 ≤ x.toNat) ∨ (idx = 13 ∧ 2 ^ 16 ≤ x.toNat) ∨
        (idx = 16 ∧ 2 ^ 12 ≤ x.toNat) ∨ (idx = 19 ∧ x.toNat % 8 ≠ 0) ∨ (idx = 20 ∧ x.toNat / 2 % 4 ≠ 0) ∨
        (idx = 24 ∧ 2 ^ 24 ≤ x.toNat) ∨ (idx = 25 ∧ 4 ≤ x.toNat) ∨ (idx = 26 ∧ x.toNat % 4096 ≠ 0) ∨
        (idx = 29 ∧ (2 ^ 12 ≤ x.toNat ∨ x.toNat / 16 % 16 ≠ 0)) ∨ (idx = 30 ∧ 64 ≤ x.toNat)
      (32 ≤ idx.toNat → exec (.msr c a idx) s = .next (t.raise .reservedField 0)) ∧
      (idx.toNat < 32 → privileged ∧ user → exec (.msr c a idx) s = .next (t.raise .priv 0)) ∧
      (idx.toNat < 32 → ¬(privileged ∧ user) → reserved → exec (.msr c a idx) s = .next (t.raise .reservedField 0)) ∧
      (idx.toNat < 32 → ¬(privileged ∧ user) → ¬reserved →
        exec (.msr c a idx) s = .next (t.land 1 [Wr.special idx.toNat x])))

/-! ## Landing (R6, R71, R228, R247) -/

/-- R71, R167: a result whose cycle has come is written whole: a scalar, the lanes or bits under its mask, or a special
register; a read-only register keeps its value, and a write of SEED restarts the draws. A push enters its stage queue behind
the entries of earlier cycles, and among those of its cycle by core and slot, and gives its reserved room back (R319, R320); a
binding enters the queue table. Nothing else of the register files and no memory changes.

R71: of two results that land in the same scalar in one cycle the later-issued one is written, and within one issue
that of the higher slot, in whatever order they stand in the queue. -/
def Obligations.ResultsLand : Prop :=
  (∀ (s : State) (l : Landing), s.core.run = .running →
      s.core.land.filter (fun y => decide (y.due ≤ s.cycle)) = [l] →
      (∀ n x, l.writes = [Wr.scalar n x] →
        ∃ t, exec .resultLanding s = .next t ∧ t.core.sreg n = x ∧ (∀ m, m ≠ n → t.core.sreg m = s.core.sreg m) ∧
          t.core.v = s.core.v ∧ t.core.p = s.core.p ∧ t.core.spr = s.core.spr ∧ t.mem = s.mem ∧
          t.core.land = s.core.land.filter (fun y => !decide (y.due ≤ s.cycle))) ∧
      (∀ k m x, l.writes = [{ kind := .vector, idx := k, mask := m, val := x, room := 0 }] →
        ∃ t, exec .resultLanding s = .next t ∧
          (∀ j < 64, lane (t.core.vphys k) j = if m.getLsbD j then lane x j else lane (s.core.vphys k) j) ∧
          (∀ i, i ≠ k → t.core.vphys i = s.core.vphys i) ∧
          t.core.s = s.core.s ∧ t.core.p = s.core.p ∧ t.core.spr = s.core.spr ∧ t.mem = s.mem) ∧
      (∀ k m x, l.writes = [{ kind := .pred, idx := k, mask := m, val := x, room := 0 }] →
        ∃ t, exec .resultLanding s = .next t ∧
          (k ≠ 0 → ∀ j < 64, (t.core.pphys k).getLsbD j = if m.getLsbD j then x.getLsbD j else (s.core.pphys k).getLsbD j) ∧
          (∀ i, i ≠ k ∨ i = 0 → t.core.pphys i = s.core.pphys i) ∧
          t.core.s = s.core.s ∧ t.core.v = s.core.v ∧ t.core.spr = s.core.spr ∧ t.mem = s.mem) ∧
      (∀ k m x q, l.writes = [{ kind := .push, idx := k, mask := m, val := x, room := q }] → l.slot < 8 →
        let e : QEntry := { val := x.setWidth 64, at_ := s.cycle, src := 8 * s.me + l.slot }
        let here := clusterOf s.me
        ∃ t before after, exec .resultLanding s = .next t ∧ Store.get [] (s.clusterAt here).stageq q = before ++ after ∧
          Store.get [] (t.clusterAt here).stageq q = before ++ e :: after ∧
          (∀ y ∈ before, ¬(y.at_ = s.cycle ∧ e.src < y.src)) ∧
          (∀ y, after.head? = some y → y.at_ = s.cycle ∧ e.src < y.src) ∧
          (∀ i, i ≠ q → Store.get [] (t.clusterAt here).stageq i = Store.get [] (s.clusterAt here).stageq i) ∧
          Store.get 0 (t.clusterAt here).reserved q = Store.get 0 (s.clusterAt here).reserved q - 1 ∧
          t.core.s = s.core.s ∧ t.core.v = s.core.v ∧ t.core.p = s.core.p ∧ t.core.spr = s.core.spr ∧ t.mem = s.mem) ∧
      (∀ k m x q, l.writes = [{ kind := .bind, idx := k, mask := m, val := x, room := q }] →
        ∃ t, exec .resultLanding s = .next t ∧ (∀ i, Store.get 0 t.core.qtab i =
            if i = k then x.setWidth 64 else Store.get 0 s.core.qtab i) ∧
          t.core.s = s.core.s ∧ t.core.v = s.core.v ∧ t.core.p = s.core.p ∧ t.core.spr = s.core.spr ∧ t.mem = s.mem) ∧
      (∀ i x, l.writes = [Wr.special i x] →
        ∃ t, exec .resultLanding s = .next t ∧ t.core.s = s.core.s ∧ t.core.v = s.core.v ∧ t.core.p = s.core.p ∧
          t.mem = s.mem ∧
          (i ∈ [0, 1, 2, 3, 4, 5, 12, 14, 15, 27, 28] → t.core.spr = s.core.spr) ∧
          (i ∈ [6, 7, 8, 9, 10, 11, 13, 16, 17, 18, 19, 20, 21, 22, 23, 24, 26, 29, 31] →
            t.core.special i = x ∧ ∀ k, k ≠ i → t.core.special k = s.core.special k) ∧
          (i = 21 → t.core.scarab.rctr = 0) ∧
          (i = 25 → (t.clusterAt (clusterOf s.me)).clshare = x) ∧
          (i = 30 → t.core.special 30 = x &&& 3 ∧ (t.crewOf s.me).cpol = x.extractLsb' 2 2))) ∧
  (∀ (s : State) (l k : Landing) (n : BitVec 5) (x y : Word), s.core.run = .running →
      s.core.land = [l, k] ∨ s.core.land = [k, l] → l.due ≤ s.cycle → k.due ≤ s.cycle →
      l.writes = [Wr.scalar n x] → k.writes = [Wr.scalar n y] →
      l.num < k.num ∨ (l.num = k.num ∧ l.slot < k.slot) →
      ∃ t, exec .resultLanding s = .next t ∧ t.core.sreg n = y ∧ t.core.land = [])

/-! ## Control (R175 to R181) -/

/-- R175, R177, R180: the taken transfers. BR and BRL go to the bundle plus eight times the offset, BRR and RET to a
pointer that must carry tag 0 and be a multiple of 8; a link, the address of the fall-through bundle, lands in s31 in
the next cycle. A taken transfer ends sticky state with its issue. -/
def Obligations.TransfersGoToTheirTarget : Prop :=
  ∀ (s t : State) (c : Ctl) (a : IOp) (off : BitVec 16),
    let link := s.core.cur.bundle + BitVec.ofNat 64 s.core.cur.len
    let rel := s.core.cur.bundle + 8 * off.signExtend 64
    let go := fun (u : State) (x : Word) => u.modCore fun k => { k with next := x, transfer := true }
    ((s.guardMask c).getLsbD 0 = true →
      exec (.br c off) s = .next (go s rel) ∧
      exec (.brl c off) s = .next (go (s.land 1 [Wr.scalar 31 link]) rel) ∧
      (let x := s.core.sreg 31
       (x.toNat / 2 ^ 60 ≠ 0 → exec (.ret c) s = .next (s.raise .spaceTag x)) ∧
       (x.toNat / 2 ^ 60 = 0 → x.toNat % 8 ≠ 0 → exec (.ret c) s = .next (s.raise .align x)) ∧
       (x.toNat / 2 ^ 60 = 0 → x.toNat % 8 = 0 → exec (.ret c) s = .next (go s x)))) ∧
    (s.Opens c [a] [] t →
      let x := t.src .a a
      (∀ lnk, x.toNat / 2 ^ 60 ≠ 0 → exec (.brr c a lnk) s = .next (t.raise .spaceTag x)) ∧
      (∀ lnk, x.toNat / 2 ^ 60 = 0 → x.toNat % 8 ≠ 0 → exec (.brr c a lnk) s = .next (t.raise .align x)) ∧
      (x.toNat / 2 ^ 60 = 0 → x.toNat % 8 = 0 →
        exec (.brr c a false) s = .next (go t x) ∧
        exec (.brr c a true) s = .next (go (t.land 1 [Wr.scalar 31 link]) x)))

/-- R178, R181: LOOP with LC above zero counts LC down, rotates both bases by one and sets p8 of the new base; with LC
zero and EC above zero it counts EC down and clears p8; with both zero it falls through. ROTSET sets LC and EC and
with RB both bases to zero; with PC it makes p8 all ones and p9 to p15 zero, through the base in force as it lands. All of it
lands in the next cycle. -/
def Obligations.LoopRotatesAndRotsetStarts : Prop :=
  ∀ (s t : State) (c : Ctl) (a : IOp) (off : BitVec 16) (ec : BitVec 6) (rb pc : Bool),
    ((s.guardMask c).getLsbD 0 = true → (s.core.special 8).toNat < 48 → (s.core.special 9).toNat < 8 →
      let lc := s.core.special 6
      let k := s.core.special 7
      let vrb := BitVec.ofNat 64 (if s.core.special 8 = 0 then 47 else (s.core.special 8).toNat - 1)
      let prb := BitVec.ofNat 64 (if s.core.special 9 = 0 then 7 else (s.core.special 9).toNat - 1)
      let p8 := fun (x : Word) => ({ kind := .pred, idx := 8 + prb.toNat, mask := ones, val := x.setWidth 2048, room := 0 } : Wr)
      let target := s.core.cur.bundle + 8 * off.signExtend 64
      let taken := fun (ws : List Wr) => Host.Outcome.next ((s.land 1 ws).modCore fun x => { x with next := target })
      (lc ≠ 0 → exec (.loop c off) s = taken [Wr.special 6 (lc - 1), Wr.special 8 vrb, Wr.special 9 prb, p8 ones]) ∧
      (lc = 0 → k ≠ 0 → exec (.loop c off) s = taken [Wr.special 7 (k - 1), Wr.special 8 vrb, Wr.special 9 prb, p8 0]) ∧
      (lc = 0 → k = 0 → exec (.loop c off) s = .next s)) ∧
    ((s.guardMask c).getLsbD 0 = false → exec (.loop c off) s = .next s) ∧
    (s.Opens c [a] [] t →
      let x : Word := BitVec.ofNat 64 ((t.src .a a).toNat % 2 ^ 32)
      exec (.rotset c a ec rb pc) s = .next (t.land 1 ([Wr.special 6 x, Wr.special 7 (ec.setWidth 64)]
        ++ (if rb then [Wr.special 8 0, Wr.special 9 0] else [])
        ++ (if pc then [{ kind := .p8, idx := 0, mask := ones, val := 0, room := 0 }] else [])))) ∧
    (∀ l, s.core.run = .running → s.core.land.filter (fun y => decide (y.due ≤ s.cycle)) = [l] →
      l.writes = [{ kind := .p8, idx := 0, mask := ones, val := 0, room := 0 }] →
      ∃ v, exec .resultLanding s = .next v ∧
        ∀ i < 8, v.core.pphys (8 + (i + (s.core.special 9).toNat) % 8) = if i = 0 then ones else 0)

/-! ## Task control, traps, phases (R34, R142, R143, R301 to R310, R324 to R328, R362, R363) -/

/-- R142, R143, R302, R308, R324 to R328, R362, R363: what each waiting instruction of slots cb and ms starts once its
guard and its checks let it: its wait stands in the core with the operation that waits, and makes its first progress at
once when nothing else of its bundle is left. -/
def Obligations.WaitingInstructionsStartTheirWait : Prop :=
  ∀ (s t : State) (c : Ctl) (d a b : IOp) (imm : BitVec 16) (mask : BitVec 8) (acq clr : Bool) (kind : PhaseKind)
    (scope : Scope),
    let cb := fun (u : State) (w : Wait) (room : Nat) =>
      u.modCore fun k => { k with wait := some w, waitOp := { k.cur with latched := true, room := room } }
    let ms := fun (u : State) (w : Wait) => u.modCore fun k => { k with mwait := some w, mwaitOp := { k.cur with latched := true } }
    let go := fun (u : State) => if u.core.todo = [] ∧ u.core.raised = [] ∧ u.core.restart = none then u.advance else u
    ((s.guardMask c).getLsbD 0 = true →
      exec (.yield c) s = .next (go (cb s .yield 0)) ∧
      exec (.done c) s = .next (go (cb s (.done 0) 0)) ∧
      exec (.cbar c) s = .next (go (cb s (.cbar false) 0)) ∧
      exec (.phase c kind scope) s = .next (go (ms (if kind = .acq then s else s.commitGate s.me) (.phase kind scope))) ∧
      (s.core.sup = true ∨ (s.core.special 20).getLsbD 0 = false →
        exec (.trap c imm) s = .next (s.raise .trap (imm.setWidth 64))) ∧
      (s.core.sup = false → (s.core.special 20).getLsbD 0 = true →
        exec (.trap c imm) s = .next (go (cb s (.trap imm) 0))) ∧
      (s.core.sup = false → exec (.eret c) s = .next (s.raise .priv 0)) ∧
      (s.core.sup = true → exec (.eret c) s = .next (go (cb s .eret 0)))) ∧
    (s.Opens c [a, b] [d] t →
      let p := t.src .a a
      (tagOf p ∉ [0, 3, 4, 5, 7] → exec (.waits c d a b acq) s = .next (t.raise .spaceTag p)) ∧
      (tagOf p ∈ [0, 3, 4, 5, 7] → p.toNat % 8 ≠ 0 → exec (.waits c d a b acq) s = .next (t.raise .align p)) ∧
      (tagOf p ∈ [0, 3, 4, 5, 7] → p.toNat % 8 = 0 →
        exec (.waits c d a b acq) s =
          .next (go (cb (t.wrI d 0).2 (.stamp p (t.src .b b) acq false) (t.wrI d 0).1.room)))) ∧
    (s.Opens c [] [d] t →
      exec (.waitany c d mask acq clr) s = .next (go (cb (t.wrI d 0).2 (.any mask acq clr false) (t.wrI d 0).1.room))) ∧
    (s.Opens c [a, b] [] t →
      let p := t.src .a a
      let x := (t.src .b b).toNat
      let cl := if x = 16 then t.me % 144 / 16 else x
      (32 ≤ x ∨ (16 < x ∧ x < 32) → exec (.spawn c a b) s = .next (t.raise .reservedField 0)) ∧
      (x ≤ 16 → 9 ≤ cl ∨ (t.fuses.clmask.getD (t.me / 144) 0).getLsbD cl = false →
        exec (.spawn c a b) s = .next (t.raise .range (t.src .b b))) ∧
      (x ≤ 16 → cl < 9 → (t.fuses.clmask.getD (t.me / 144) 0).getLsbD cl = true →
        (tagOf p ≠ 0 → exec (.spawn c a b) s = .next (t.raise .spaceTag p)) ∧
        (tagOf p = 0 → p.toNat % 64 ≠ 0 → exec (.spawn c a b) s = .next (t.raise .align p)) ∧
        (tagOf p = 0 → p.toNat % 64 = 0 →
          exec (.spawn c a b) s = .next (go (cb t (.spawn p (t.me / 144 * 9 + cl)) 0))))) ∧
    (s.Opens c [a] [] t →
      let x := t.src .a a
      let n := x.toNat / 256 % 256
      let k := x.toNat % 256
      let self := t.ownNode n = true ∧ n % 4 * 144 + k = t.me ∧ k < 144
      (2 ^ 16 ≤ x.toNat → exec (.fencex c a) s = .next (t.raise .reservedField 0)) ∧
      (x.toNat < 2 ^ 16 → t.member n = false → exec (.fencex c a) s = .next (t.raise .remoteUnreachable x)) ∧
      (x.toNat < 2 ^ 16 → t.member n = true → self →
        exec (.fencex c a) s = .next (go (ms (t.commitGate t.me) (.phase .ar .core)))) ∧
      (x.toNat < 2 ^ 16 → t.member n = true → ¬self →
        exec (.fencex c a) s = .next (go (ms (t.commitGate t.me) (.fence x (t.fenceScope x) false)))))

/-- R142, R143: once the landing queue is empty a TRAP commits the store gate, saves the address of the next bundle in
EPC and itself in FCODE, FADDR and FBUNDLE, ends sticky state, enters supervisor mode and goes to TVEC's handler; an ERET
ends sticky state, returns to user mode and goes to EPC. While a landing is pending both wait. -/
def Obligations.TrapEntryAndReturn : Prop :=
  ∀ (s : State) (imm : BitVec 16), s.core.mwait = none →
    (s.core.wait = some (.trap imm) →
      (s.core.land ≠ [] → s.advance = s) ∧
      (s.core.land = [] →
        let t := s.advance
        t.core.special 19 = s.core.waitOp.bundle + BitVec.ofNat 64 s.core.waitOp.len ∧
        t.core.special 16 = 0x220 ∧ t.core.special 17 = imm.setWidth 64 ∧ t.core.special 18 = s.core.waitOp.bundle ∧
        t.core.special 31 = 1 ∧ t.core.pc = s.core.special 20 &&& ~~~7#64 ∧ t.core.sticky = [] ∧ t.core.gate = [] ∧
        t.core.wait = none ∧ t.core.s = s.core.s ∧ t.core.v = s.core.v ∧ t.core.p = s.core.p ∧
        t.core.special 20 = s.core.special 20 ∧ t.mem = (s.commitGate s.me).mem)) ∧
    (s.core.wait = some .eret →
      (s.core.land ≠ [] → s.advance = s) ∧
      (s.core.land = [] →
        let t := s.advance
        t.core.special 31 = 0 ∧ t.core.pc = s.core.special 19 &&& ~~~7#64 ∧ t.core.sticky = [] ∧ t.core.wait = none ∧
        (∀ i, i ≠ 31 → t.core.special i = s.core.special i) ∧ t.core.s = s.core.s ∧ t.core.v = s.core.v ∧
        t.core.p = s.core.p ∧ t.core.gate = s.core.gate ∧ t.mem = s.mem))

/-- R34, R324 to R326: a YIELD, a CBAR and a DONE whose core is drained and whose record can be written. YIELD leaves a
READY record and a pool node, a CBAR that completes the round goes on and one that does not leaves a BARRIER record among
the crew's waiters, a DONE leaves a DONE record, posts to its stamp
address if it has one, and there is one task less. -/
def Obligations.SuspensionBarrierAndEnd : Prop :=
  ∀ (s : State) (l : Loc), s.core.mwait = none → s.core.drained = true →
    let k := clusterOf s.me
    let rec_ := s.core.special 27
    let resume := s.core.waitOp.bundle + BitVec.ofNat 64 s.core.waitOp.len
    (∀ i, s.core.wait = some .yield → tagOf rec_ = 0 → (s.clusterAt k).freeNode = some i →
      (s.quiesce .crew).translate (some s.me) (s.quiesce .crew).node 0 (offOf rec_) .write = .at_ l →
      let q := s.quiesce .crew
      s.advance.core.run = .idle s.cycle ∧
      s.advance.mem = (q.engineWrite s.me l.key (wordsBytes (q.core.record resume .ready)) 1).mem ∧
      Store.get none (s.advance.clusterAt k).pool i = some
        { rec_ := offOf rec_, waiting := false, list := s.core.info.prio.toNat, prio := s.core.info.prio.toNat,
          enq := s.cycle, since := s.cycle, crew := s.core.crewId, task := (s.core.special 1).extractLsb' 0 20,
          stamp := s.core.info.stamp.toNat, cnt := 0 }) ∧
    (s.core.wait = some .yield → (s.clusterAt k).freeNode = none → s.advance = s) ∧
    (s.core.wait = some (.cbar false) → s.core.releaseReady .crew = true →
      let q := (s.release s.me .crew).modCrew k s.core.crewId fun x => { x with arr := x.arr + 1 }
      let nodes := 4096 - (s.clusterAt k).nodes.length
      let waiters := (s.crewOf s.me).waiters.length + (s.clusterAt k).ready.length
      ((s.crewOf s.me).arr + 1 = (s.crewOf s.me).live → nodes < waiters → s.advance = s) ∧
      ((s.crewOf s.me).arr + 1 = (s.crewOf s.me).live → waiters ≤ nodes →
        s.advance.core.wait = none ∧ s.advance.core.run = s.core.run ∧ (s.advance.crewOf s.me).arr = 0) ∧
      ((s.crewOf s.me).arr + 1 ≠ (s.crewOf s.me).live →
        s.advance = (q.modCore fun c => { c with wait := some (.cbar true) }).suspendBarrier)) ∧
    (s.core.wait = some (.cbar true) → tagOf rec_ = 0 →
      (s.quiesce .crew).translate (some s.me) (s.quiesce .crew).node 0 (offOf rec_) .write = .at_ l →
      let q := s.quiesce .crew
      s.advance.core.run = .idle s.cycle ∧
      s.advance.mem = (q.engineWrite s.me l.key (wordsBytes (q.core.record resume .barrier)) 1).mem ∧
      (Store.get Crew.none (s.advance.clusterAt k).crews s.core.crewId).waiters =
        (s.crewOf s.me).waiters ++ [
          { rec_ := offOf rec_, prio := s.core.info.prio.toNat, crew := s.core.crewId,
            task := (s.core.special 1).extractLsb' 0 20, stamp := s.core.info.stamp.toNat, age := s.cycle }]) ∧
    (s.core.wait = some (.done 0) → s.core.releaseReady .part = true → tagOf rec_ = 0 → s.core.info.stamp = 0 →
      s.roundBlocked k s.core.crewId 0 = false →
      (s.quiesce .part).translate (some s.me) (s.quiesce .part).node 0 (offOf rec_) .write = .at_ l →
      s.advance.core.run = .idle s.cycle ∧
      s.advance.pkg.grid = s.pkg.grid.map (fun g => { g with live := g.live - 1 }) ∧
      (Store.get Crew.none (s.advance.clusterAt k).crews s.core.crewId).live = (s.crewOf s.me).live - 1) ∧
    (∀ u f, s.core.wait = some (.done 1) → s.core.info.stamp ≠ 0 →
      let x := s.core.info.stamp.toNat
      (s.post (s.me / 144) x = (.done, u) → s.advance = u.endTask) ∧
      (s.post (s.me / 144) x = (.kept, u) → s.advance = u.modCore fun q => { q with wait := some (.done 3) }) ∧
      (s.post (s.me / 144) x = (.absent, u) → s.advance = u.modCore fun q => { q with nextIssue := 4096 + u.cycle }) ∧
      (s.post (s.me / 144) x = (.fault f, u) →
        s.advance = (u.waitFault f (BitVec.ofNat 64 x) false).modCore fun q => { q with wait := some (.done 2) })) ∧
    (s.core.wait = some (.done 2) → s.advance = s.endTask) ∧
    (s.core.wait = some (.done 3) → s.advance =
      if s.counting (s.me / 144) s.core.info.stamp.toNat then s else s.endTask)

/-- R302, R303, R308, R328: the progress of PHASE, FENCEX and SPAWN. A release that need not wait commits the gate and
performs what its scope waits for, and an acquire drops clean phase-cache bytes; FENCEX sends its request after its release;
SPAWN counts the record in its crew and enters it in its cluster, or waits for a free node, unless one of its checks
fails. -/
def Obligations.PhasesFencesAndSpawnsProgress : Prop :=
  ∀ (s : State) (kind : PhaseKind) (scope : Scope) (a p : Word) (cl : Nat) (l : Loc),
    (s.core.mwait = some (.phase kind scope) → kind ≠ .acq → s.core.releaseReady scope = false → s.advanceMs = s) ∧
    (s.core.mwait = some (.phase .acq scope) → s.advanceMs = (s.acquire s.me).modCore fun k => { k with mwait := none }) ∧
    (s.core.mwait = some (.phase .rel scope) → s.core.releaseReady scope = true →
      s.advanceMs = (s.release s.me scope).modCore fun k => { k with mwait := none }) ∧
    (s.core.mwait = some (.phase .ar scope) → s.core.releaseReady scope = true →
      s.advanceMs = ((s.release s.me scope).acquire s.me).modCore fun k => { k with mwait := none }) ∧
    (s.core.mwait = some (.fence a scope false) → s.core.releaseReady scope = true →
      s.advanceMs = (s.release s.me scope).modCore fun k => { k with mwait := some (.fence a scope true) }) ∧
    (s.core.mwait = none → s.core.wait = some (.spawn p cl) → s.core.releaseReady .crew = true →
      let t := s.release s.me .crew
      let w0 := t.viewWord s.me l.key
      let w1 := t.viewWord s.me (l.key + 8)
      let w2 := t.viewWord s.me (l.key + 16)
      let crew := (w1.toNat / 2 ^ 41) % 2 ^ 12
      t.access s.me p .rw 64 0 false = .at_ l →
      (w0.toNat % 8 ≠ 0 → s.advance = t.waitFault .reservedField p false) ∧
      (spawnFault w0 w1 w2 = none → 16 ≤ (Store.get Crew.none (t.clusterAt cl).crews crew).live →
        s.advance = t.waitFault .range p false) ∧
      (∀ i, spawnFault w0 w1 w2 = none → (Store.get Crew.none (t.clusterAt cl).crews crew).live < 16 →
        (s.clusterAt cl).freeNode = some i →
        s.advance.core.wait = none ∧
        (Store.get Crew.none (s.advance.clusterAt cl).crews crew).live =
          (Store.get Crew.none (s.clusterAt cl).crews crew).live + 1 ∧
        (Store.get none (s.advance.clusterAt cl).pool i).map (fun n => (n.rec_, n.cnt, n.waiting, n.crew)) =
          some (offOf p, w2.toNat / 2 ^ 48, decide (w2.toNat / 2 ^ 48 ≠ 0), crew)) ∧
      (spawnFault w0 w1 w2 = none → (Store.get Crew.none (t.clusterAt cl).crews crew).live < 16 →
        (s.clusterAt cl).freeNode = none →
        s.advance.core.wait = some (.spawned l.key p cl w1 w2) ∧
        (Store.get Crew.none (s.advance.clusterAt cl).crews crew).live =
          (Store.get Crew.none (s.clusterAt cl).crews crew).live + 1))

/-- R342, R343, R362, R363: a WAITS whose word has reached its value, and a WAITANY with a barrier done, the first from ROT
on, end: the result lands in the next cycle, an acquire is made if it asks for one, ROT names the barrier after the one found
and CLR clears it. Otherwise the words are armed; a word that cannot be reached is a fault. A write that an armed monitor
sees sets CBSTAT, and ends the wait once it reaches the value. -/
def Obligations.StampWaitsArmAndEnd : Prop :=
  ∀ (s : State) (c : Ctl) (d a b : IOp) (p e : Word) (l : Loc) (acq clr : Bool) (mask : BitVec 8) (ps : List (Nat × Nat)),
    s.core.mwait = none →
    let ends := fun (u : State) (x : Word) => u.core.wait = none ∧ u.mem = s.mem ∧
      u.core.cache = (if acq then (s.acquire s.me).core.cache else s.core.cache) ∧
      ∃ y, u.core.land = s.core.land ++ [y] ∧ y.due = s.cycle + 1 ∧ y.writes = [match d with
        | .s n => Wr.scalar n x
        | .q n => { kind := .push, idx := n.toNat, mask := ones, val := x.setWidth 2048, room := s.core.waitOp.room }]
    let found := fun (u : State) (k : Nat) => ends u (BitVec.ofNat 64 k) ∧ u.core.rot = BitVec.ofNat 3 (k + 1) ∧
      (clr = true → u.core.cbOf k = Cb.none) ∧ ∀ j, clr = false ∨ j ≠ k → u.core.cbOf j = s.core.cbOf j
    (s.core.wait = some (.stamp p e acq false) → s.core.waitOp.instr = .waits c d a b acq →
      (∀ f, s.stampPlace p = .fail f → s.advance = s.waitFault f p false) ∧
      (s.stampPlace p = .at_ l →
        let x := s.homeNat s.me l.key 8
        (e.toNat ≤ x % 2 ^ 64 → ends s.advance (BitVec.ofNat 64 x)) ∧
        (x % 2 ^ 64 < e.toNat → s.advance.core.wait = some (.stamp p e acq true) ∧
          s.advance.monitors = s.monitors ++ [{ core := s.me, mon := 8, key := l.key, exp := e }]))) ∧
    (s.core.wait = some (.any mask acq clr false) → s.core.waitOp.instr = .waitany c d mask acq clr →
      (∀ f, s.anyPlaces (maskBits mask) = .error (p, .fail f) → s.advance = s.waitFault f p false) ∧
      (s.anyPlaces (maskBits mask) = .ok ps →
        let done := fun (k : Nat) => match ps.find? fun x => x.1 == k with
          | none => true
          | some x => decide ((s.core.cbOf k).exp.toNat ≤ s.homeNat s.me x.2 8)
        (∀ k, firstDone s.core.rot.toNat done mask = some k → found s.advance k) ∧
        (firstDone s.core.rot.toNat done mask = none → s.advance.core.wait = some (.any mask acq clr true) ∧
          s.advance.monitors = s.monitors ++ ps.map fun x =>
            { core := s.me, mon := x.1, key := x.2, exp := (s.core.cbOf x.1).exp }))) ∧
    (∀ w, s.core.run = .running → s.seen = [w] → w.core = s.me → w.cls < 8 → w.mon < 16 →
      { core := s.me, mon := w.mon, key := l.key, exp := e } ∈ s.monitors →
      ∃ t, exec .stampMonitor s = .next t ∧ t.seen = [] ∧ t.mem = s.mem ∧
        (w.hit = false → t.core.wait = s.core.wait ∧ t.core.special 29 = BitVec.ofNat 64 (w.mon * 256 + w.cls)) ∧
        (w.hit = true → s.core.wait = none → t.core.wait = none ∧ t.core.special 29 = BitVec.ofNat 64 (w.mon * 256 + 8 + w.cls)) ∧
        (∀ x y, w.hit = true → s.core.wait = some (.stamp x y acq true) → s.core.waitOp.instr = .waits c d a b acq →
          ends t w.val ∧ t.core.special 29 = BitVec.ofNat 64 (w.mon * 256 + 8 + w.cls)) ∧
        (∀ k, w.hit = true → s.core.wait = some (.any mask acq clr true) → s.core.waitOp.instr = .waitany c d mask acq clr →
          firstDone s.core.rot.toNat (s.sameWord w.mon w.val) mask = some k →
          found t k ∧ t.core.special 29 = BitVec.ofNat 64 (k * 256 + 8 + w.cls)))

/-- R306, R303, R295, R309, R308: FENCEO marks every operation that has not bound; a started write-back performs the
dirty bytes it was started for and no others, an eviction performs and drops its line; a forced boundary commits the named core's gate, releases and acquires there, and its
acknowledgement ends the FENCEX, with RANGE for a core that is not enabled. -/
def Obligations.FencesAndWritebacks : Prop :=
  ∀ (s : State) (c : Ctl) (line : Nat) (a : Word) (sc : Scope),
    ((s.guardMask c).getLsbD 0 = true → ∃ t, exec (.fenceo c) s = .next t ∧
      t.core.pend.length = s.core.pend.length ∧
      (∀ p ∈ t.core.pend, p.bound = true ∨ p.fenced = true) ∧ t.mem = s.mem ∧ t.core.s = s.core.s ∧ t.core.land = s.core.land) ∧
    (let l := Store.get CLine.none s.core.cache line
     let m := Store.get 0 s.core.backing line
     let performed := fun (t : State) (k : BitVec 128) =>
       (∀ j < 128, s.ignoresWrite (line * 128 + j) = false → (l.dirty &&& k).getLsbD j = true →
         t.byteAt (line * 128 + j) = l.data.extractLsb' (8 * j) 8) ∧
       (∀ x, (∀ j < 128, x = line * 128 + j → (l.dirty &&& k).getLsbD j = false) → t.byteAt x = s.byteAt x)
     (m ≠ 0 → ∃ t, exec (.dirtyWriteback line) s = .next t ∧ performed t m ∧ Store.get 0 t.core.backing line = 0 ∧
       (Store.get CLine.none t.core.cache line).dirty = l.dirty &&& ~~~m) ∧
     (m = 0 → 1024 < s.core.curLines.length → line ∈ s.core.curLines → ∃ t, exec (.dirtyWriteback line) s = .next t ∧
       performed t (BitVec.allOnes 128) ∧ Store.get CLine.none t.core.cache line = CLine.none)) ∧
    (s.core.mwait = some (.fence a sc true) →
      (s.ownNode (fenceNode a) = true → s.enabledAt (fenceNode a) (fenceCore a) = true →
        (s.coreAt (fenceTarget a)).frozen = false → (s.coreAt (fenceTarget a)).late = [] →
        exec (.forcedBoundary (fenceTarget a)) s =
          .next ((s.release (fenceTarget a) sc).acquire (fenceTarget a))) ∧
      ((s.enabledAt (fenceNode a) (fenceCore a) = true →
          s.ownNode (fenceNode a) = false ∨ s.boundaryOpen (fenceTarget a) = true →
          exec .fencexAck s = .next ((s.modCore fun k => { k with mwait := none }).acquire s.me)) ∧
        (s.enabledAt (fenceNode a) (fenceCore a) = false →
          exec .fencexAck s = .next ((s.modCore fun k => { k with mwait := none }).modCore fun k => { k with
            raised := k.raised ++ [{ code := .range, addr := a, slot := 3, bundle := k.mwaitOp.bundle, hard := false }] }))))

/-! ## Vector class (R182 to R199) -/

/-- R187, R188: VADD, VSUB, VMUL and the three fused operations compute each element exactly from the operands as FTZ
reads them and round once, in the mode of RM or FMODE with stochastic rounding read as nearest; the lanes of the guard
are written after 2 or 5 cycles. -/
def Obligations.VectorFloatArithmetic : Prop :=
  ∀ (s t : State) (c : Ctl) (m : Word) (d a b e : VOp) (ty : VTy) (rm : RmSel) (sat : Bool),
    s.OpensLanes c [] [] m t → ty.isFloat = true →
    let z := ftzOf t.fmode
    let mode := modeOf rm t.fmode
    let x := fun i => decodeF ty.fmt z (field (t.srcV .a a) ty.bits i)
    let y := fun i => decodeF ty.fmt z (field (t.srcV .b b) ty.bits i)
    let w := fun i => decodeF ty.fmt z (field (t.srcV .c e) ty.bits i)
    let down := decide (mode = .rdn)
    let gives := fun (o : Out) (lat : Nat) (f : Nat → Ex) =>
      ∃ v, o = .next (t.landV lat d m v) ∧
        ∀ i < ty.count, field v ty.bits i = roundF ty.fmt mode.wide z sat 0 (f i)
    gives (exec (.vadd c d a b ty rm sat) s) 2 (fun i => (x i).add down (y i)) ∧
    gives (exec (.vsub c d a b ty rm sat) s) 2 (fun i => (x i).add down (y i).neg) ∧
    gives (exec (.vmul c d a b ty rm sat) s) 5 (fun i => (x i).mul (y i)) ∧
    gives (exec (.vfma c d a b e ty rm sat) s) 5 (fun i => ((x i).mul (y i)).add down (w i)) ∧
    gives (exec (.vfms c d a b e ty rm sat) s) 5 (fun i => ((x i).mul (y i)).add down (w i).neg) ∧
    gives (exec (.vfnma c d a b e ty rm sat) s) 5 (fun i => ((x i).mul (y i)).neg.add down (w i))

/-- R189: VMIN and VMAX give the other operand for one NaN, the canonical NaN for two, −0 below +0, and otherwise the
smaller or larger operand, subnormals flushed under FTZ; VABS clears and VNEG inverts the sign bit.

R194, R195: VCMP writes the guard's bits of its predicate with the truth of its condition, comparisons with NaN false
but for ne and un, and HI taking the upper of two packed elements; VSEL takes each lane by its bit of the predicate. -/
def Obligations.VectorMinimaComparesAndSelection : Prop :=
  (∀ (s t : State) (c : Ctl) (m : Word) (d a b : VOp) (ty : VTy), s.OpensLanes c [] [] m t → ty.isFloat = true →
      let z := ftzOf t.fmode
      let p := fun i => field (t.srcV .a a) ty.bits i
      let q := fun i => field (t.srcV .b b) ty.bits i
      let x := fun i => decodeF ty.fmt z (p i)
      let y := fun i => decodeF ty.fmt z (q i)
      let gives := fun (o : Out) (f : Nat → Nat → Prop) =>
        ∃ v, o = .next (t.landV 2 d m v) ∧ ∀ i < ty.count, f i (field v ty.bits i)
      let pick := fun (below : Ex → Ex → Bool) (i r : Nat) =>
        ((x i = .nan ∧ y i = .nan) → r = ty.fmt.nan) ∧
        ((x i = .nan ∧ y i ≠ .nan) → r = flushPattern ty.fmt z (q i)) ∧
        ((x i ≠ .nan ∧ y i = .nan) → r = flushPattern ty.fmt z (p i)) ∧
        (x i ≠ .nan → y i ≠ .nan → below (x i) (y i) = true → r = flushPattern ty.fmt z (p i)) ∧
        (x i ≠ .nan → y i ≠ .nan → below (x i) (y i) = false → r = flushPattern ty.fmt z (q i))
      gives (exec (.vmin c d a b ty) s) (pick fun u v => u.lt true v) ∧
      gives (exec (.vmax c d a b ty) s) (pick fun u v => v.lt true u) ∧
      gives (exec (.vabs c d a ty) s) (fun i r => r = p i % 2 ^ (ty.bits - 1)) ∧
      gives (exec (.vneg c d a ty) s) (fun i r => r % 2 ^ (ty.bits - 1) = p i % 2 ^ (ty.bits - 1) ∧
        (r / 2 ^ (ty.bits - 1) = 1 ↔ p i / 2 ^ (ty.bits - 1) = 0))) ∧
  (∀ (s t : State) (c : Ctl) (m : Word) (d p : POp) (dv a b : VOp) (cond : VCond) (ty : VTy) (hi : Bool),
      s.OpensLanes c [] [] m t →
      ((ty.isFloat = true ∨ (cond ≠ .un ∧ cond ≠ .or)) →
        ∃ v, exec (.vcmp c d a b cond ty hi) s = .next (t.landP 2 d m v) ∧ ∀ j < 64,
          let i := if ty.isHalf then 2 * j + hi.toNat else j
          let pa := field (t.srcV .a a) ty.bits i
          let pb := field (t.srcV .b b) ty.bits i
          let x := decodeF ty.fmt (ftzOf t.fmode) pa
          let y := decodeF ty.fmt (ftzOf t.fmode) pb
          let r := v.getLsbD j
          (ty.isFloat = true → x = .nan ∨ y = .nan → r = decide (cond = .ne ∨ cond = .un)) ∧
          (ty.isFloat = true → x ≠ .nan → y ≠ .nan →
            r = match cond with
              | .eq => !x.lt false y && !y.lt false x
              | .ne => x.lt false y || y.lt false x
              | .lt => x.lt false y
              | .le => !y.lt false x
              | .gt => y.lt false x
              | .ge => !x.lt false y
              | .un => false
              | .or => true) ∧
          (ty = .i32 → r = match cond with
              | .eq => decide (pa = pb)
              | .ne => decide (pa ≠ pb)
              | .lt => (BitVec.ofNat 32 pa).slt (BitVec.ofNat 32 pb)
              | .le => (BitVec.ofNat 32 pa).sle (BitVec.ofNat 32 pb)
              | .gt => (BitVec.ofNat 32 pb).slt (BitVec.ofNat 32 pa)
              | .ge => (BitVec.ofNat 32 pb).sle (BitVec.ofNat 32 pa)
              | .un => false
              | .or => true) ∧
          (ty = .n32 → r = match cond with
              | .eq => decide (pa = pb)
              | .ne => decide (pa ≠ pb)
              | .lt => decide (pa < pb)
              | .le => decide (pa ≤ pb)
              | .gt => decide (pb < pa)
              | .ge => decide (pb ≤ pa)
              | .un => false
              | .or => true)) ∧
      (∃ v, exec (.vsel c dv a b p) s = .next (t.landV 2 dv m v) ∧
        ∀ j < 64, lane v j = if (t.srcP .c p).getLsbD j then lane (t.srcV .a a) j else lane (t.srcV .b b) j))

/-- R190, R191: the transcendental operations round the value of their function once (an infinite value stays infinite
under SAT), and VCVT converts between the types, landing after 8, 7 and 3 cycles. What the functions give at the points
R190 names is part of the statement; their value elsewhere is the model's (log entry 15). -/
def Obligations.VectorFunctionsAndConversions : Prop :=
  ∀ (s t : State) (c : Ctl) (m : Word) (d a : VOp) (ty dst src : VTy) (rm : RmSel) (sat : Bool),
    s.OpensLanes c [] [] m t →
    let z := ftzOf t.fmode
    let mode := (modeOf rm t.fmode).wide
    (ty.isFloat = true →
      let x := fun i => decodeF ty.fmt z (field (t.srcV .a a) ty.bits i)
      let gives := fun (o : Out) (lat : Nat) (f : Ex → Ex) =>
        ∃ v, o = .next (t.landV lat d m v) ∧ ∀ i < ty.count,
          (∀ g k e, f (x i) = .fin g k e → field v ty.bits i = roundF ty.fmt mode z sat 0 (.fin g k e)) ∧
          (∀ g, f (x i) = .inf g → field v ty.bits i = roundF ty.fmt mode z false 0 (.inf g)) ∧
          (f (x i) = .nan → field v ty.bits i = ty.fmt.nan)
      gives (exec (.vrcp c d a ty rm sat) s) 8 recipEx ∧
      gives (exec (.vrsq c d a ty rm sat) s) 8 rsqrtEx ∧
      gives (exec (.vexp2 c d a ty rm sat) s) 7 exp2Ex ∧
      gives (exec (.vlog2 c d a ty rm sat) s) 7 log2Ex ∧
      gives (exec (.vtanh c d a ty rm sat) s) 7 tanhEx) ∧
    (∀ (g : Bool) (e : Int) (n : Nat),
      recipEx .nan = .nan ∧ recipEx (.fin g 0 e) = .inf g ∧ recipEx (.inf g) = .fin g 0 0 ∧
      rsqrtEx .nan = .nan ∧ rsqrtEx (.fin g 0 e) = .inf g ∧ rsqrtEx (.inf false) = .fin false 0 0 ∧
      rsqrtEx (.inf true) = .nan ∧ rsqrtEx (.fin true (n + 1) e) = .nan ∧
      exp2Ex .nan = .nan ∧ exp2Ex (.fin g 0 e) = .fin false 1 0 ∧ exp2Ex (.inf false) = .inf false ∧
      exp2Ex (.inf true) = .fin false 0 0 ∧ (0 < n → n < 1024 → exp2Ex (.fin g n 0) = .fin false 1 (if g then -n else n)) ∧
      log2Ex .nan = .nan ∧ log2Ex (.fin g 0 e) = .inf true ∧ log2Ex (.inf false) = .inf false ∧ log2Ex (.inf true) = .nan ∧
      log2Ex (.fin true (n + 1) e) = .nan ∧ log2Ex (.fin false (2 ^ n) (-n)) = .fin false 0 0 ∧
      tanhEx .nan = .nan ∧ tanhEx (.fin g 0 e) = .fin g 0 0 ∧ tanhEx (.inf g) = .fin g 1 0) ∧
    (cvtForm dst src sat = true →
      ∃ v, exec (.vcvt c d a dst src rm sat) s = .next (t.landV 3 d m v) ∧ ∀ i < dst.count,
        let p := field (t.srcV .a a) src.bits i
        let r := field v dst.bits i
        (src.isFloat = true → dst.isFloat = true → r = roundF dst.fmt mode z sat 0 (decodeF src.fmt z p)) ∧
        (src.isFloat = true → dst = .i32 →
          (BitVec.ofNat 32 r).toInt = roundInt mode (-(2 ^ 31)) (2 ^ 31 - 1) 0 (decodeF src.fmt z p)) ∧
        (src.isFloat = true → dst = .n32 → (r : Int) = roundInt mode 0 (2 ^ 32 - 1) 0 (decodeF src.fmt z p)) ∧
        (src = .i32 → dst.isFloat = true → r = roundF dst.fmt mode z false 0 (Ex.ofInt (BitVec.ofNat 32 p).toInt)) ∧
        (src = .n32 → dst.isFloat = true → r = roundF dst.fmt mode z false 0 (Ex.ofInt p)) ∧
        (src.isFloat = false → dst.isFloat = false → sat = false → r = p) ∧
        (src.isFloat = false → dst = .i32 → sat = true → (r : Int) = clampInt 0 (2 ^ 31 - 1) p ∨ src = .i32 ∧ r = p) ∧
        (src.isFloat = false → dst = .n32 → sat = true →
          r = if src = .i32 ∧ (BitVec.ofNat 32 p).toInt < 0 then 0 else p))

/-- R196: the integer lane operations, wrapping or saturating by type, the shifts by the low five bits of the other
lane, and the bitwise operations. -/
def Obligations.VectorIntegerLanes : Prop :=
  ∀ (s t : State) (c : Ctl) (m : Word) (d a b : VOp), s.OpensLanes c [] [] m t →
    let x := fun j => lane (t.srcV .a a) j
    let y := fun j => lane (t.srcV .b b) j
    let gives := fun (o : Out) (lat : Nat) (f : Nat → Lane) =>
      ∃ v, o = .next (t.landV lat d m v) ∧ ∀ j < 64, lane v j = f j
    let si := fun (z : Int) => BitVec.ofInt 32 (clampInt (-(2 ^ 31)) (2 ^ 31 - 1) z)
    let sn := fun (z : Int) => BitVec.ofInt 32 (clampInt 0 (2 ^ 32 - 1) z)
    (∀ ty, ty = .i32 ∨ ty = .n32 →
      gives (exec (.viadd c d a b ty false) s) 2 (fun j => x j + y j) ∧
      gives (exec (.visub c d a b ty false) s) 2 (fun j => x j - y j) ∧
      gives (exec (.vimul c d a b ty false) s) 5 (fun j => x j * y j)) ∧
    gives (exec (.viadd c d a b .i32 true) s) 2 (fun j => si ((x j).toInt + (y j).toInt)) ∧
    gives (exec (.viadd c d a b .n32 true) s) 2 (fun j => sn ((x j).toNat + (y j).toNat)) ∧
    gives (exec (.visub c d a b .i32 true) s) 2 (fun j => si ((x j).toInt - (y j).toInt)) ∧
    gives (exec (.visub c d a b .n32 true) s) 2 (fun j => sn ((x j).toNat - (y j).toNat)) ∧
    gives (exec (.vimul c d a b .i32 true) s) 5 (fun j => si ((x j).toInt * (y j).toInt)) ∧
    gives (exec (.vimul c d a b .n32 true) s) 5 (fun j => sn ((x j).toNat * (y j).toNat)) ∧
    gives (exec (.vand c d a b) s) 2 (fun j => x j &&& y j) ∧
    gives (exec (.vor c d a b) s) 2 (fun j => x j ||| y j) ∧
    gives (exec (.vxor c d a b) s) 2 (fun j => x j ^^^ y j) ∧
    gives (exec (.vshl c d a b) s) 2 (fun j => x j <<< ((y j).toNat % 32)) ∧
    gives (exec (.vshr c d a b) s) 2 (fun j => x j >>> ((y j).toNat % 32)) ∧
    gives (exec (.vsra c d a b) s) 2 (fun j => (x j).sshiftRight ((y j).toNat % 32)) ∧
    gives (exec (.vimin c d a b .i32) s) 2 (fun j => if (x j).slt (y j) then x j else y j) ∧
    gives (exec (.vimin c d a b .n32) s) 2 (fun j => if x j < y j then x j else y j) ∧
    gives (exec (.vimax c d a b .i32) s) 2 (fun j => if (x j).slt (y j) then y j else x j) ∧
    gives (exec (.vimax c d a b .n32) s) 2 (fun j => if x j < y j then y j else x j)

/-- R114, R115, R124 to R126, R189, R197: VRED combines the elements, as a float operation reads them, along the fixed tree of
adjacent pairs, false lanes as the identity, and gives every element of the destination the root; VSCAN gives each element j the
combination of the aligned nodes of that tree that cover elements 0 to j, largest first, which for the last element is the root.
A float sum rounds at each combination and an integer sum wraps or, with SAT, clamps; max and min of floats are those of VMAX and
VMIN. Integer sums without SAT are the sums modulo 2^32. -/
def Obligations.VectorReductionsAndScans : Prop :=
  ∀ (s t : State) (c : Ctl) (m : Word) (d a : VOp) (op : RedOp) (ty : VTy) (rm : RmSel) (sat : Bool),
    s.OpensLanes c [] [] m t → redForm op ty rm sat = true →
    let z := ftzOf t.fmode
    let mode := modeOf rm t.fmode
    let top := if ty.isHalf then 7 else 6
    let int := fun (x : Nat) => if ty = .i32 then (BitVec.ofNat 32 x).toInt else ((x % 2 ^ 32 : Nat) : Int)
    let low : Int := if ty = .i32 then -2 ^ 31 else 0
    let high : Int := if ty = .i32 then 2 ^ 31 - 1 else 2 ^ 32 - 1
    let f := fun (x y : Nat) =>
      if ty.isFloat = true then match op with
        | .add => roundF ty.fmt mode.wide z sat 0
            ((decodeF ty.fmt z x).add (decide (mode = .rdn)) (decodeF ty.fmt z y))
        | .max => minMax ty.fmt z true x y
        | .min => minMax ty.fmt z false x y
      else (BitVec.ofInt 32 (match op with
        | .add => if sat = true then max low (min high (int x + int y)) else int x + int y
        | .max => max (int x) (int y)
        | .min => min (int x) (int y))).toNat
    let identity := if ty.isFloat = true then match op with
        | .add => 2 ^ (ty.bits - 1)
        | .max => 2 ^ (ty.bits - 1) + ty.fmt.inf
        | .min => ty.fmt.inf
      else match op with
        | .add => 0
        | .max => low.toNat + if ty = .i32 then 2 ^ 31 else 0
        | .min => high.toNat
    let e := (List.range ty.count).map fun i => readElem ty z
      (if m.getLsbD (if ty.isHalf then i / 2 else i) = true then field (t.srcV .a a) ty.bits i else identity)
    ∀ levels : Nat → List Nat, levels 0 = e → (∀ k, levels (k + 1) = pairUp f (levels k)) →
      let root := (levels top).headD 0
      let cover := fun (n : Nat) => ((List.range (top + 1)).reverse.filter fun l => n.testBit l).map fun l =>
        (levels l).getD (n / 2 ^ (l + 1) * 2) 0
      (∃ v, exec (.vred c d a op ty rm sat) s = .next (t.landV 6 d m v) ∧ levels top = [root] ∧
        ∀ i < ty.count, field v ty.bits i = root % 2 ^ ty.bits) ∧
      (∃ v, exec (.vscan c d a op ty rm sat) s = .next (t.landV 6 d m v) ∧
        (∀ j < ty.count, field v ty.bits j = (cover (j + 1)).tail.foldl f ((cover (j + 1)).headD 0) % 2 ^ ty.bits) ∧
        field v ty.bits (ty.count - 1) = root % 2 ^ ty.bits ∧
        (ty = .n32 → op = .add → sat = false →
          ∀ j < 64, field v 32 j = ((List.range (j + 1)).map fun i => e.getD i 0).sum % 2 ^ 32))

/-- R198: the permutations: VPERM by the lane of its second operand (zero from 64 up), VSLIDE by a signed distance,
VBCAST of one lane, VSPLAT of a scalar, VEXTR of one lane into a scalar, VIOTA of the set bits below each lane, VMOV. That a
VEXTR under a guard bit 0 has a landing, which writes nothing, is the model's choice (log entry 37). -/
def Obligations.VectorPermutations : Prop :=
  ∀ (s t : State) (c : Ctl) (m : Word) (d a b : VOp) (n : IOp) (p : POp) (ds : IOp),
    let gives := fun (o : Out) (f : Nat → Lane) =>
      ∃ v, o = .next (t.landV 4 d m v) ∧ ∀ j < 64, lane v j = f j
    let x := fun j => lane (t.srcV .a a) j
    (s.OpensLanes c [] [] m t →
      gives (exec (.vperm c d a b) s) (fun j =>
        if (lane (t.srcV .b b) j).toNat < 64 then x (lane (t.srcV .b b) j).toNat else 0) ∧
      gives (exec (.viota c d p) s) (fun j =>
        BitVec.ofNat 32 ((List.range j).countP fun i => (t.srcP .a p).getLsbD i)) ∧
      gives (exec (.vmov c d a) s) x) ∧
    (s.OpensLanes c [n] [] m t →
      let k := (t.src .b n).toInt
      gives (exec (.vslide c d a n false) s) (fun j => if 0 ≤ (j : Int) - k ∧ (j : Int) - k < 64 then x ((j : Int) - k).toNat else 0) ∧
      gives (exec (.vslide c d a n true) s) (fun j => x (((j : Int) - k) % 64).toNat) ∧
      gives (exec (.vbcast c d a n) s) (fun _ => x ((t.src .b n).toNat % 64)) ∧
      gives (exec (.vsplat c d n) s) (fun _ => (t.src .a n).setWidth 32)) ∧
    (s.OpensLanes c [n] [ds] m t →
      let j := (t.src .b n).toNat % 64
      (m.getLsbD j = true →
        exec (.vextr c ds a n false) s = .next (t.landI 4 ds ((x j).setWidth 64)) ∧
        exec (.vextr c ds a n true) s = .next (t.landI 4 ds ((x j).signExtend 64))) ∧
      (∀ sx, m.getLsbD j = false → exec (.vextr c ds a n sx) s = .next ((t.dropRoom ds).land 4 [])))

/-- R192, R193, R199, R116, R229: the packing and quantising operations round each element once into its format; under a
stochastic mode element i takes draw number RCTR + i of the generator and RCTR advances by the elements of the register.
VROPE rotates adjacent pairs by the phase position × frequency, and a position of 2^24 or more faults POSITION_RANGE. -/
def Obligations.VectorPackingQuantisationAndRotation : Prop :=
  ∀ (s t : State) (c : Ctl) (m : Word) (d a b : VOp) (e : IOp) (ty : VTy) (fmt : NFmt) (rm : RmSel) (sat hi : Bool),
    let z := ftzOf t.fmode
    let mode := modeOf rm t.fmode
    let after := fun (n : Nat) => if mode = .rsr then
        t.modCore fun k => { k with scarab := { k.scarab with rctr := k.scarab.rctr + BitVec.ofNat 64 n } } else t
    let draw := fun (i : Nat) => if mode = .rsr then
        (gen (t.core.special 21) (t.core.scarab.rctr + BitVec.ofNat 64 i)).toNat % 2 ^ 32 else 0
    let A := t.srcV .a a
    let B := t.srcV .b b
    let scale := fun (i : Nat) => field B 32 (i / 32) % 256
    (s.OpensLanes c [] [] m t →
      (ty.isHalf = true →
        (∃ v, exec (.vpack c d a b ty rm sat) s = .next ((after 128).landV 3 d m v) ∧ ∀ j < 64,
          field v 16 (2 * j) = roundF ty.fmt mode z sat (draw (2 * j)) (decodeF .fp32 z (field A 32 j)) ∧
          field v 16 (2 * j + 1) = roundF ty.fmt mode z sat (draw (2 * j + 1)) (decodeF .fp32 z (field B 32 j))) ∧
        (∃ v, exec (.vunpk c d a ty hi) s = .next (t.landV 3 d m v) ∧ ∀ j < 64,
          field v 32 j = roundF .fp32 .rne false false 0 (decodeF ty.fmt z (field A 16 (2 * j + hi.toNat))))) ∧
      (ty.isFloat = true →
        (∃ v, exec (.vqnt c d a b ty fmt rm sat) s = .next ((after ty.count).landV 3 d m v) ∧ ∀ i < ty.count,
          (scale i = 255 → field v fmt.width i = fmt.round mode sat (draw i) .nan) ∧
          (scale i ≠ 255 → field v fmt.width i =
            fmt.round mode sat (draw i) ((decodeF ty.fmt z (field A ty.bits i)).scale (127 - (scale i : Int))))) ∧
        (∃ v, exec (.vdqnt c d a b ty fmt rm sat) s = .next (t.landV 3 d m v) ∧ ∀ i < ty.count,
          (scale i = 255 → field v ty.bits i = ty.fmt.nan) ∧
          (scale i ≠ 255 → field v ty.bits i =
            roundF ty.fmt mode.wide z sat 0 ((fmt.value (field A fmt.width i)).scale ((scale i : Int) - 127)))))) ∧
    (s.OpensLanes c [e] [] m t → ty.isFloat = true →
      let pos := (t.src .c e).toNat
      (2 ^ 24 ≤ pos → exec (.vrope c d a b e ty rm sat) s = .next (t.raise .positionRange 0)) ∧
      (pos < 2 ^ 24 → ∃ v, exec (.vrope c d a b e ty rm sat) s = .next (t.landV 9 d m v) ∧ ∀ j < ty.count / 2,
        let ph := pos * field B 32 j % 2 ^ 32
        let co := decodeF .fp32 false (roundF .fp32 .rne false false 0 (cosTurn ph))
        let si := decodeF .fp32 false (roundF .fp32 .rne false false 0 (sinTurn ph))
        let x := decodeF ty.fmt z (field A ty.bits (2 * j))
        let y := decodeF ty.fmt z (field A ty.bits (2 * j + 1))
        let down := decide (mode = .rdn)
        field v ty.bits (2 * j) = roundF ty.fmt mode.wide z sat 0 ((x.mul co).add down (y.mul si).neg) ∧
        field v ty.bits (2 * j + 1) = roundF ty.fmt mode.wide z sat 0 ((x.mul si).add down (y.mul co))))

/-! ## Loads and stores (R242 to R248, R262 to R273, R284) -/

/-- R242 to R248, R264 to R269: LD of a local space: a tag from 8 up faults SPACE_TAG, a misaligned offset ALIGN, one past
the space RANGE; else the bytes as this core reads them, extended by SX, land after 14, 4, 3 or 48 cycles from the cluster
window, the scratchpad, the slices and the chip scratchpad. Nothing else changes. -/
def Obligations.LocalScalarLoads : Prop :=
  ∀ (s t : State) (c : Ctl) (d : IOp) (a : BitVec 5) (imm : BitVec 16) (cls : BitVec 2) (sx : Bool) (w : BitVec 2),
    s.Opens c [] [d] t → s.core.cur.latched = false → s.me < 576 →
    let n := 2 ^ w.toNat
    let base := s.core.sreg a
    let tag := base.toNat / 2 ^ 60
    let o := (base + imm.signExtend 64).toNat % 2 ^ 60
    let p : Word := BitVec.ofNat 64 (tag * 2 ^ 60 + o)
    let share := 65536 * ((s.clusterAt (s.me / 144 * 9 + s.me % 144 / 16)).clshare.toNat % 4)
    let size := if tag = 4 then 16 * share else if tag = 5 then 393216 - share else if tag = 6 then 131072 else 33554432
    let key :=
      if tag = 4 then 2 ^ 60 + (s.me / 16 * 16 + o / 128 % 16) * 2 ^ 20 + (393216 - share + (o / 2048 * 128 + o % 128))
      else if tag = 5 then 2 ^ 60 + s.me * 2 ^ 20 + o
      else if tag = 6 then 2 ^ 61 + s.me * 2 ^ 20 + o
      else 2 ^ 62 + s.me / 144 * 2 ^ 25 + o
    let lat := if tag = 4 then 14 else if tag = 5 then 4 else if tag = 6 then 3 else 48
    let go := exec (.ld c d a imm cls sx w) s
    (8 ≤ tag → go = .next (s.raise .spaceTag p)) ∧
    (4 ≤ tag → tag < 8 → o % n ≠ 0 → go = .next (s.raise .align p)) ∧
    (4 ≤ tag → tag < 8 → o % n = 0 → size < o + n → go = .next (s.raise .range p)) ∧
    (4 ≤ tag → tag < 8 → o % n = 0 → o + n ≤ size →
      ∃ x, go = .next (s.landI lat d x) ∧ ∀ j < 64, x.getLsbD j =
        if j < 8 * n then (s.view s.me (key + j / 8)).getLsbD (j % 8)
        else sx && (s.view s.me (key + (n - 1))).getLsbD 7)

/-- R264 to R266, R273: a timed load, scalar or vector, of which every lane passes its checks lands what it reads after the
largest latency of its lanes; a lane that reached a global space makes it hold a load-landing-buffer entry. The lane
pointers are those of R272. A lane's fault is raised with its pointer, an absent migratable page is a restart event. -/
def Obligations.TimedLoadsLandWhatTheyRead : Prop :=
  ∀ (s t u : State) (c : Ctl) (m : Word) (d : IOp) (dv b : VOp) (a : BitVec 5) (x y z : IOp) (imm : BitVec 16)
    (cls w scale : BitVec 2) (gl : BitVec 3) (sx : Bool) (ls : List (Nat × Word × Loc)) (vs : List (Nat × Word)),
    let lat := fun (v : Bool) => (ls.map fun x => (timedLatency cls.toNat v x.2.2).getD 0).foldl max 0
    let vas := ls.filterMap fun x => if x.2.2.tag ≤ 2 then
      some (x.2.1, match x.2.2.leaf with | some f => (f.2.1, f.2.2.getLsbD 2) | none => (4096, false)) else none
    let reads := fun (n : Nat) (v : Bool) (ps : List (Nat × Word)) =>
      t.lanesAt .read n v (latencyCheck cls.toNat v) ps = .ok ls ∧ (t.keepLeaves ls).loadAll t.me n (locRuns ls) ls = (.ok vs, u)
    let lanes := fun (o : Out) => ∃ v, o = .next (u.landTimed (lat true) [u.wrV dv m v] vas) ∧
      ∀ j < 64, lane v j = (laneVal vs j).setWidth 32
    let lanesOf := fun (p : Nat → Word) => ((List.range 64).filter fun j => m.getLsbD j).map fun j => (j, p j)
    let stops := fun (o : Out) (n : Nat) (v : Bool) (ps : List (Nat × Word)) =>
      (∀ f q, t.lanesAt .read n v (latencyCheck cls.toNat v) ps = .fail f q → o = .next (t.raise f q)) ∧
      (∀ q, t.lanesAt .read n v (latencyCheck cls.toNat v) ps = .restart q →
        o = .next (t.modCore fun k => { k with restart := some q }))
    (s.Opens c [] [d] t →
      let p := [(0, ea (t.src .a (.s a)) imm.toInt)]
      (reads (2 ^ w.toNat) false p → exec (.ld c d a imm cls sx w) s =
        .next ((u.wrI d (extendBytes (laneVal vs 0) (2 ^ w.toNat) sx)).2.landTimed (lat false)
          [(u.wrI d (extendBytes (laneVal vs 0) (2 ^ w.toNat) sx)).1] vas)) ∧
      stops (exec (.ld c d a imm cls sx w) s) (2 ^ w.toNat) false p) ∧
    (s.OpensLanes c [] [] m t →
      let base := t.src .a (.s a)
      let p := fun (j : Nat) => if tagOf base = 6 then ea base imm.toInt else ea base (imm.toInt + 4 * j)
      (reads 4 true (lanesOf p) → lanes (exec (.ldv c dv a imm cls) s)) ∧
      stops (exec (.ldv c dv a imm cls) s) 4 true (lanesOf p)) ∧
    (s.OpensLanes c [x, y, z] [] m t →
      let p := fun (j : Nat) => ea (t.src .a x)
        (((j % 2 ^ gl.toNat : Nat) : Int) * (t.src .b y).toInt + ((j / 2 ^ gl.toNat : Nat) : Int) * (t.src .c z).toInt)
      (reads 4 true (lanesOf p) → lanes (exec (.ldvs c dv x y z gl cls) s)) ∧
      stops (exec (.ldvs c dv x y z gl cls) s) 4 true (lanesOf p)) ∧
    (s.OpensLanes c [x] [] m t →
      let p := fun (j : Nat) => ea (t.src .a x) ((lane (t.srcV .b b) j).toInt * 2 ^ scale.toNat)
      (reads 4 true (lanesOf p) → lanes (exec (.ldvg c dv x b scale cls) s)) ∧
      stops (exec (.ldvg c dv x b scale cls) s) 4 true (lanesOf p))

/-- R138, R248, R270: ST to the private scratchpad, tag 0x5, of a core that has nothing in flight. With the gate open and
empty it writes its low bytes at once and no other byte of memory; with the gate closed it enters the gate as one entry and
writes nothing, and a 65th entry faults GATE_OVERFLOW with the effective address in FADDR. -/
def Obligations.ScratchpadStores : Prop :=
  ∀ (s t : State) (c : Ctl) (d : IOp) (a : BitVec 5) (imm : BitVec 16) (w : BitVec 2),
    s.Opens c [d] [] t → s.core.cur.latched = false → s.me < 576 →
    let n := 2 ^ w.toNat
    let base := t.core.sreg a
    let o := (base + imm.signExtend 64).toNat % 2 ^ 60
    let share := 65536 * ((s.clusterAt (s.me / 144 * 9 + s.me % 144 / 16)).clshare.toNat % 4)
    let key := 2 ^ 60 + s.me * 2 ^ 20 + o
    let x := t.src .d d
    base.toNat / 2 ^ 60 = 5 → o % n = 0 → o + n ≤ 393216 - share →
    (s.core.gateClosed = false → s.core.gate = [] → s.core.pend = [] →
      ∃ u, exec (.st c d a imm w) s = .next u ∧
        (∀ k, u.byteAt k = if key ≤ k ∧ k < key + n then x.extractLsb' (8 * (k - key)) 8 else s.byteAt k) ∧
        u.core.s = s.core.s ∧ u.core.v = s.core.v ∧ u.core.p = s.core.p ∧ u.core.spr = s.core.spr ∧
        u.core.land = s.core.land ∧ u.core.gate = [] ∧ u.core.cache = s.core.cache) ∧
    (s.core.gateClosed = true → s.core.gate.length < 64 → s.core.pend = [] →
      ∃ u g, exec (.st c d a imm w) s = .next u ∧ u.core.gate = s.core.gate ++ [g] ∧ g.bytes = n ∧
        g.lanes = [{ lane := 0, tag := 5, key := key, val := x }] ∧ u.mem = s.mem ∧ u.core.s = s.core.s) ∧
    (s.core.gateClosed = true → 64 ≤ s.core.gate.length → s.core.pend = [] →
      exec (.st c d a imm w) s = .next (t.raise .gateOverflow (BitVec.ofNat 64 (5 * 2 ^ 60 + o))))

/-- R138, R270, R273: every store form whose lanes all pass their checks. Lanes to read-only bytes are ignored (R22, R312); of
the others: with the gate closed and not full the lanes enter the gate together, and a 65th entry faults GATE_OVERFLOW with the
pointer of the lowest-numbered true lane; with it open the gate's older entries and then the lanes are stored in ascending order; through a peer
pointer the store is in flight as a counted operation with its data. -/
def Obligations.StoreFormsGatePerformOrSend : Prop :=
  ∀ (s t : State) (c : Ctl) (m : Word) (dv b : VOp) (d : IOp) (a : BitVec 5) (x y z : IOp) (imm : BitVec 16)
    (w scale : BitVec 2) (gl : BitVec 3) (ls : List (Nat × Word × Loc)) (l : Loc),
    let lanesOf := fun (p : Nat → Word) => ((List.range 64).filter fun j => m.getLsbD j).map fun j => (j, p j)
    let stores := fun (o : Out) (opc : BitVec 10) (n : Nat) (first : Word) (val : Nat → Word) =>
      let r := (t.keepLeaves ls).bindReads (ls.filterMap fun x => if x.2.2.tag = 3 then none else some (x.2.2.key, n))
      let taken := ls.filter fun x => decide (x.2.2.tag = 3) || !t.ignoresWrite x.2.2.key
      let g := taken.map fun x => ({ lane := x.1, tag := x.2.2.tag, key := x.2.2.key, val := val x.1 } : GateLane)
      (taken = [] → o = .next r) ∧
      (taken ≠ [] → (∀ l ∈ ls, l.2.2.tag ≠ 3) → r.core.gateClosed = true → 64 ≤ r.core.gate.length →
        o = .next (r.raise .gateOverflow first)) ∧
      (taken ≠ [] → (∀ l ∈ ls, l.2.2.tag ≠ 3) → r.core.gateClosed = true → r.core.gate.length < 64 →
        o = .next (r.modCore fun k => { k with
          gate := k.gate ++ [{ opc := opc, bundle := k.cur.bundle, bytes := n, lanes := g }] })) ∧
      (taken ≠ [] → (∀ l ∈ ls, l.2.2.tag ≠ 3) → r.core.gateClosed = false →
        o = .next (g.foldl (fun u l => u.coreStore u.me l.key (bytesOf n l.val.toNat)) (r.commitGate r.me))) ∧
      ((∃ l ∈ ls, l.2.2.tag = 3) → ∃ u p, o = .next u ∧ u.core.pend = (r.commitGate r.me).core.pend ++ [p] ∧
        p.peer = true ∧ p.vas = ls.map (·.2.1) ∧ p.blk = ls.map (fun x => val x.1) ∧ p.perf = false)
    (s.Opens c [d] [] t →
      t.lanesAt .write (2 ^ w.toNat) false (fun _ => none) [(0, ea (t.src .a (.s a)) imm.toInt)] = .ok ls →
      stores (exec (.st c d a imm w) s) 0x142 (2 ^ w.toNat) (ea (t.src .a (.s a)) imm.toInt) fun _ => t.src .d d) ∧
    (s.OpensLanes c [] [] m t →
      t.lanesAt .write 4 true (fun _ => none) (lanesOf fun j =>
        if tagOf (t.src .a (.s a)) = 6 then ea (t.src .a (.s a)) imm.toInt else ea (t.src .a (.s a)) (imm.toInt + 4 * j)) = .ok ls →
      stores (exec (.stv c dv a imm) s) 0x147 4 (ls.headD (0, 0, l)).2.1 fun j => (lane (t.srcV .d dv) j).setWidth 64) ∧
    (s.OpensLanes c [x, y, z] [] m t →
      t.lanesAt .write 4 true (fun _ => none) (lanesOf fun j => ea (t.src .a x)
        (((j % 2 ^ gl.toNat : Nat) : Int) * (t.src .b y).toInt + ((j / 2 ^ gl.toNat : Nat) : Int) * (t.src .c z).toInt)) = .ok ls →
      stores (exec (.stvs c dv x y z gl) s) 0x148 4 (ls.headD (0, 0, l)).2.1 fun j => (lane (t.srcV .d dv) j).setWidth 64) ∧
    (s.OpensLanes c [x] [] m t →
      t.lanesAt .write 4 true (fun _ => none) (lanesOf fun j =>
        ea (t.src .a x) ((lane (t.srcV .b b) j).toInt * 2 ^ scale.toNat)) = .ok ls →
      stores (exec (.stvx c dv x b scale) s) 0x149 4 (ls.headD (0, 0, l)).2.1 fun j => (lane (t.srcV .d dv) j).setWidth 64)

/-- R284, R330 to R332: PREF changes no value and raises no fault, and that it leaves the whole state as it was is the model's
choice (log entry 36); LDQ on a stream q reserves the next entry of its stream and is in flight,
on another q it faults QUEUE_UNMAPPED; LDQ.bind from a space that is not local faults LATENCY_CLASS, else it lands a
descriptor that passes its checks in the queue table; LDVQ is in
flight with its destination lanes. -/
def Obligations.QueuedLoadsStart : Prop :=
  ∀ (s u : State) (c : Ctl) (m : Word) (d : BitVec 3) (dv : VOp) (a : BitVec 5) (imm : BitVec 16) (sx l2 : Bool)
    (w : BitVec 2) (ls : List (Nat × Word × Loc)) (vs : List (Nat × Word)),
    let p := ea (s.src .a (.s a)) imm.toInt
    ((s.guardMask c).getLsbD 0 = true → exec (.pref c a imm l2) s = .next s) ∧
    ((s.guardMask c).getLsbD 0 = true → qKind (Store.get 0 s.core.qtab d.toNat) ≠ 1 →
      exec (.ldq c d a imm sx w) s = .next (s.raise .queueUnmapped 0)) ∧
    ((s.guardMask c).getLsbD 0 = true → qKind (Store.get 0 s.core.qtab d.toNat) = 1 →
      s.lanesAt .read (2 ^ w.toNat) false (fun _ => none) [(0, p)] = .ok ls →
      let st := fun (k : Core) => Store.get Stream.none k.streams d.toNat
      ∃ v q, exec (.ldq c d a imm sx w) s = .next v ∧ v.core.pend = s.core.pend ++ [q] ∧ q.id = s.core.nextId ∧
        q.perf = false ∧ q.vas = ls.map (·.2.1) ∧ (st v.core).owed = (st s.core).owed ++ [(s.core.nextId, none)] ∧
        (st v.core).ready = (st s.core).ready ∧ v.core.s = s.core.s ∧ v.mem = s.mem) ∧
    ((s.guardMask c).getLsbD 0 = true → tagOf p < 4 ∨ 8 ≤ tagOf p →
      exec (.ldqBind c d a imm) s = .next (s.raise .latencyClass p)) ∧
    ((s.guardMask c).getLsbD 0 = true → 4 ≤ tagOf p → tagOf p < 8 →
      s.lanesAt .read 8 false (latencyCheck 0 false) [(0, p)] = .ok ls →
      (s.keepLeaves ls).loadAll s.me 8 (locRuns ls) ls = (.ok vs, u) →
      let x := laneVal vs 0
      (∀ f, bindFault x (u.core.special 4).toNat = some f → exec (.ldqBind c d a imm) s = .next (u.raise f p)) ∧
      (bindFault x (u.core.special 4).toNat = none → exec (.ldqBind c d a imm) s =
        .next (u.land ((ls.map fun x => (timedLatency 0 false x.2.2).getD 0).foldl max 0)
          [{ kind := .bind, idx := d.toNat, mask := ones, val := x.setWidth 2048, room := 0 }]))) ∧
    (s.guardMask c = m → m ≠ 0 →
      s.lanesAt .read 4 true (fun _ => none) (((List.range 64).filter fun j => m.getLsbD j).map fun j =>
        (j, if tagOf (s.src .a (.s a)) = 6 then p else ea (s.src .a (.s a)) (imm.toInt + 4 * j))) = .ok ls →
      ∃ v q, exec (.ldvq c dv a imm) s = .next v ∧ v.core.pend = s.core.pend ++ [q] ∧
        q.dest = [{ kind := .vector, idx := vPhys s.bases.1 dv.toNat, mask := m, val := 0, room := 0 }] ∧
        q.vas = ls.map (·.2.1) ∧ q.perf = false ∧ v.core.v = s.core.v ∧ v.mem = s.mem)

/-- R274 to R277: ATOM and CAS commit the gate and go in flight with their operands; at their home they replace the old
value by the new one of R275 in one step, a CAS only where the old value matches; the old value is the result. -/
def Obligations.AtomicsPerformAtTheirHome : Prop :=
  ∀ (s t : State) (c : Ctl) (d a b e : IOp) (op : AtomOp) (w64 facq : Bool) (ord : Ord) (scope : Scope)
    (ls : List (Nat × Word × Loc)) (id key : Nat) (p : Pend),
    let n := if w64 then 8 else 4
    let started := fun (o : Out) (x b' c' : Word) => ∃ u q, o = .next u ∧ u.core.pend.getLast? = some q ∧
      q.op.a = x ∧ q.op.b = b' ∧ q.op.c = c' ∧ q.perf = false ∧ q.peer = ls.any (fun y => y.2.2.tag == 3) ∧
      q.keys = ls.filterMap (fun x => if x.2.2.tag = 3 then none else some (x.1, x.2.2.key)) ∧
      u.core.gate = [] ∧ u.core.s = s.core.s ∧ u.core.v = s.core.v
    (op ≠ .inc → op ≠ .dec → s.Opens c [a, b] [d] t →
      (t.commitGate t.me).lanesAt .rw n false (fun _ => none) [(0, t.src .a a)] = .ok ls →
      started (exec (.atom c d a b e op w64 ord scope) s) (t.src .a a) (t.src .b b) 0) ∧
    (op = .inc ∨ op = .dec → s.Opens c [a, b, e] [d] t →
      (t.commitGate t.me).lanesAt .rw n false (fun _ => none) [(0, t.src .a a)] = .ok ls →
      started (exec (.atom c d a b e op w64 ord scope) s) (t.src .a a) (t.src .b b) (t.src .c e)) ∧
    (s.Opens c [a, b, e] [d] t →
      (t.commitGate t.me).lanesAt .rw n false (fun _ => none) [(0, t.src .a a)] = .ok ls →
      started (exec (.cas c d a b e w64 ord facq scope) s) (t.src .a a) (t.src .b b) (t.src .c e)) ∧
    (s.core.pendOf id = some p → p.peer = false → p.perf = false → p.due ≤ s.cycle → s.heldAtHome p = false →
      s.core.relWaits p = false → p.keys = [(0, key)] →
      let f := s.performKeys s.me ((List.range n).map (key + ·))
      let x := f.natAt key n
      let v := p.op.b.toNat % 2 ^ (8 * n)
      let k := p.op.c.toNat % 2 ^ (8 * n)
      let sv := fun (y : Nat) => if y < 2 ^ (8 * n - 1) then (y : Int) else (y : Int) - 2 ^ (8 * n)
      let writes := fun (y : Nat) (o : Out) => ∃ u, o = .next u ∧
        u.mem = (f.perform (some s.me) 2 key (bytesOf n y)).mem ∧
        ∃ q ∈ u.core.pend, q.id = p.id ∧ q.perf = true ∧ q.res = [BitVec.ofNat 64 x, 1]
      (p.op.instr = .atom c d a b e op w64 ord scope →
        let o := exec (.atomicPerform id) s
        match op with
        | .add => writes ((x + v) % 2 ^ (8 * n)) o
        | .and => writes (x &&& v) o
        | .or => writes (x ||| v) o
        | .xor => writes (x ^^^ v) o
        | .min => writes (if sv v < sv x then v else x) o
        | .max => writes (if sv x < sv v then v else x) o
        | .minu => writes (min x v) o
        | .maxu => writes (max x v) o
        | .swap => writes v o
        | .inc => writes (if k ≤ x then 0 else x + 1) o
        | .dec => writes (if x = 0 ∨ k < x then k else x - 1) o
        | .fadd => writes (roundF .fp32 .rne false false 0 ((decodeF .fp32 false x).add false (decodeF .fp32 false v))) o) ∧
      (p.op.instr = .cas c d a b e w64 ord facq scope →
        (x = v → writes k (exec (.atomicPerform id) s)) ∧
        (x ≠ v → ∃ u, exec (.atomicPerform id) s = .next u ∧ u.mem = f.mem ∧
          ∃ q ∈ u.core.pend, q.id = p.id ∧ q.perf = true ∧ q.res = [BitVec.ofNat 64 x, 0])))

/-- R278 to R283: the remote operations check their two pointers, read their 64-byte block and go to the target's Mantis
unit. The unit performs a request once, answers a number it has performed with the kept answer, and a request that it
lost the state of, sent again, ends REMOTE_INDETERMINATE, as does one without an answer to eight transmissions. -/
def Obligations.RemoteOperations : Prop :=
  ∀ (s t : State) (c : Ctl) (d a b : IOp) (ord : Ord) (m2 : BitVec 2) (h4 : BitVec 4) (l : Loc) (id : Nat) (p : Pend),
    (s.Opens c [a, b] [d] t →
      ∀ i, i = Instr.ropMcas c d a b m2 ord ∨ i = Instr.ropEnq c d a b ord ∨ i = Instr.ropChase c d a b h4 ord →
      let x := t.src .a a
      let q := t.src .b b
      (tagOf x ≠ 3 → exec i s = .next (t.raise .spaceTag x)) ∧
      (tagOf x = 3 → tagOf q ≠ 5 → exec i s = .next (t.raise .spaceTag q)) ∧
      (tagOf x = 3 → tagOf q = 5 → q.toNat % 64 ≠ 0 → exec i s = .next (t.raise .align q)) ∧
      (tagOf x = 3 → tagOf q = 5 → q.toNat % 64 = 0 → t.access t.me q .rw 64 0 false = .at_ l →
        let r0 := if ord = .rel ∨ ord = .ar then (t.commitGate t.me).releaseLines t.me .part else t.commitGate t.me
        ((t.commitGate t.me).reachable (x.toNat / 2 ^ 52 % 256) = false →
          exec i s = .next ((t.commitGate t.me).raise .remoteUnreachable x)) ∧
        ((t.commitGate t.me).reachable (x.toNat / 2 ^ 52 % 256) = true →
          ∃ u r, exec i s = .next u ∧ u.core.pend.getLast? = some r ∧ r.op.a = x ∧ r.op.b = q ∧ r.peer = true ∧
            r.perf = false ∧ r.blk = ((List.range 8).map fun i => r0.viewWord t.me (l.key + 8 * i)) ∧
            u.core.mantisSeq = s.core.mantisSeq + 1 ∧ r.seq = s.core.mantisSeq + 1 ∧ u.core.gate = [] ∧ u.core.s = s.core.s))) ∧
    (s.core.pendOf id = some p → p.mantis = true →
      (p.perf = false → p.due ≤ s.cycle → s.heldAtHome p = false → s.core.relWaits p = false →
        (p.sent = 0 → exec (.mantisRequest (.own id)) s = .next (s.transmit p false)) ∧
        (0 < p.sent → exec (.mantisRequest (.own id)) s = .next (State.replied (s.unitGoOn s.me (some s.me) p) p))) ∧
      (p.acked = false → 0 < p.sent → p.sent < 8 → p.lastTx + 32768 ≤ s.cycle →
        exec (.mantisRetransmit id) s = .next (s.transmit p true)) ∧
      (p.acked = false → 8 ≤ p.sent → p.lastTx + 32768 ≤ s.cycle →
        exec (.mantisRetransmit id) s = .next (s.faultPend p .remoteIndeterminate p.op.a))) ∧
    (∀ x, exec (.mantisRequest (.ext x)) s = .next (s.foreignMantis x)) ∧
    (∀ n e, let src := Store.get MantisSrc.none (s.dieAt (s.mantisDie (p.op.a.toNat / 2 ^ 52 % 256))).mantis n
     (src.lost = true → (s.unitReceive n e p true).expired = true ∧ (s.unitReceive n e p true).st = s) ∧
     (src.lost = false → (p.seq - src.h).toInt < -63 →
       ∀ again, (s.unitReceive n e p again).expired = true ∧ (s.unitReceive n e p again).st = s) ∧
     (src.lost = false → ∀ ws, src.kept p.seq = some (some (ws, none)) → -63 ≤ (p.seq - src.h).toInt →
       ∀ again, (s.unitReceive n e p again).reply = some (.words ws) ∧ (s.unitReceive n e p again).st = s) ∧
     (src.lost = false → src.kept p.seq = some none → -63 ≤ (p.seq - src.h).toInt →
       ∀ again, (s.unitReceive n e p again).reply = none ∧ (s.unitReceive n e p again).st = s) ∧
     (src.lost = false → src.kept p.seq = none → -63 ≤ (p.seq - src.h).toInt →
       ∀ again, (s.unitReceive n e p again).reply = some (s.unitPerform e p).1 ∧
         (s.unitReceive n e p again).st.mem = (s.unitPerform e p).2.mem))

/-- R256, R267, R283, R296, R297, R330, R332: the completions. An access that has read or been answered writes its
destination for the run that asked (an atomic, a CAS and a TLD a scalar, a ROP its block and its status word, an LDVQ its
lanes, an LDQ its stream entry in order), an acquire order drops clean bytes, a faulted one is charged, and each leaves the
operations in flight and takes its barrier down. A peer access is performed or refused by its target; a store through a
peer pointer completes with its acknowledgement. -/
def Obligations.AccessesComplete : Prop :=
  ∀ (s : State) (id : Nat) (p : Pend), s.core.pendOf id = some p → p.due ≤ s.cycle →
    let go := exec (.variableOpComplete id) s
    let ended := fun (t : State) => (∀ q ∈ t.core.pend, q.id ≠ p.id) ∧
      ∀ j, s.core.owns p.own = true → p.op.bar = some j → Store.get 0 t.core.db j.toNat = Store.get 0 s.core.db j.toNat - 1
    let lands := fun (t : State) (n : BitVec 5) (x : Word) =>
      t.core.sreg n = x ∧ ∀ m, m ≠ n → t.core.sreg m = s.core.sreg m
    let mine := s.core.owns p.own = true ∧ s.core.frozen = false
    (∀ c d a b e op w64 ord sord facq sc n, p.op.instr = .atom c d a b e op w64 ord sc ∨ p.op.instr = .cas c d a b e w64 sord facq sc →
      p.perf = true → (p.peer = true → p.acked = true) →
      (p.fault = none → p.dest = [Wr.scalar n 0] → mine → ∃ t, go = .next t ∧ ended t ∧ lands t n (p.res.getD 0 0) ∧ t.mem = s.mem ∧
        (acquiresAtEnd p = true → p.keys = [] → t.core.cache = (s.acquire s.me).core.cache) ∧
        ∀ x ∈ p.keys, ∀ k, k / 128 = x.2 / 128 → (t.core.line k).dirty.getLsbD (k % 128) = false → t.core.cached k = none) ∧
      (∀ f x, p.fault = some (f, x) → go = .next (s.faultPend p f x))) ∧
    (∀ c d a b m h ord n, p.op.instr = .ropMcas c d a b m ord ∨ p.op.instr = .ropEnq c d a b ord ∨
        p.op.instr = .ropChase c d a b h ord → p.perf = true → p.acked = true →
      (p.fault = none → p.dest = [Wr.scalar n 0] → mine → s.me < 576 → offOf p.op.b + 64 ≤ 393216 → p.res.length ≤ 10 →
        ∃ t, go = .next t ∧ ended t ∧ lands t n (p.res.getD 0 0 <<< 60 ||| p.res.getD 1 0) ∧
          (∀ i j, i + 2 < p.res.length → j < 8 →
            t.byteAt (spadKey s.me (offOf p.op.b + 8 * i) + j) = byteOf (p.res.getD (i + 2) 0) j) ∧
          ∀ k, k < spadKey s.me (offOf p.op.b) ∨ spadKey s.me (offOf p.op.b) + 8 * (p.res.length - 2) ≤ k →
            t.byteAt k = s.byteAt k) ∧
      (∀ f x, p.fault = some (f, x) → go = .next (s.faultPend p f x))) ∧
    (∀ c d a imm sx w, p.op.instr = .ldq c d a imm sx w →
      let st := fun (k : Core) => Store.get Stream.none k.streams d.toNat
      let x := extendBytes (p.res.getD 0 0) (2 ^ w.toNat) sx
      (p.perf = false → p.peer = false → s.heldAtHome p = false → go = .next (s.readPend p (2 ^ w.toNat))) ∧
      (p.perf = true → p.fault = none → ((st s.core).owed.any fun y => y.1 < p.id && y.2.isNone) = true → go = .next s) ∧
      (p.perf = true → p.fault = none → ((st s.core).owed.any fun y => y.1 < p.id && y.2.isNone) = false →
        go = .next ((s.fillStream d.toNat p.id x).dropPend p) ∧
        ((st s.core).owed = [(p.id, none)] → ∃ t, go = .next t ∧ ended t ∧ (st t.core).owed = [] ∧
          (st t.core).ready = (st s.core).ready ++ [{ val := x, at_ := s.cycle, src := 0 }])) ∧
      (∀ f y, p.perf = true → p.fault = some (f, y) → go = .next ((s.fillStream d.toNat p.id 0).faultPend p f y))) ∧
    (∀ c dv a imm k m v, p.op.instr = .ldvq c dv a imm →
      (p.perf = false → p.peer = false → s.heldAtHome p = false → go = .next (s.readPend p 4)) ∧
      (p.perf = true → p.fault = none → p.dest = [{ kind := .vector, idx := k, mask := m, val := v, room := 0 }] → mine →
        ∃ t, go = .next t ∧ ended t ∧ t.mem = s.mem ∧ ∀ j < 64, lane (t.core.vphys k) j =
          if m.getLsbD j then
            (p.res.getD (if p.peer then (List.range j).countP (m.getLsbD ·) else j) 0).setWidth 32
          else lane (s.core.vphys k) j) ∧
      (∀ f y, p.perf = true → p.fault = some (f, y) → go = .next (s.faultPend p f y))) ∧
    (∀ c d a b e k n, p.op.instr = .tld c d a b e k →
      (p.perf = false → p.peer = false → s.heldAtHome p = false → go = .next (s.readPend p (p.left.headD 4))) ∧
      (p.perf = true → p.fault = none → p.dest = [Wr.scalar n 0] → mine →
        ∃ t, go = .next t ∧ ended t ∧ lands t n (p.res.getD 0 0) ∧ t.mem = s.mem) ∧
      (∀ f y, p.perf = true → p.fault = some (f, y) → go = .next (s.faultPend p f y))) ∧
    (isStore p.op.instr = true → p.perf = true →
      (p.fault = none → exec (.remoteWriteAck id) s = .next (s.dropPend p) ∧ ended (s.dropPend p)) ∧
      (∀ g x, p.fault = some (g, x) → exec (.remoteWriteAck id) s = .next (s.faultPend p g x))) ∧
    (p.peer = true → p.mantis = false → p.perf = false → s.heldAtHome p = false →
      let rs := fun (k : AccKind) => (p.vas.zip (List.range 64)).map fun x =>
        (x.2, x.1, s.peerAccess (x.1.toNat / 2 ^ 52 % 256) (x.1.toNat % 2 ^ 52) k)
      let got := gather (rs (if isStore p.op.instr then .write else .read))
      let ends := fun (f : Pend → Prop) (m : List Host.Cell) => ∃ t, exec (.peerRequest (.own id)) s = .next t ∧ t.mem = m ∧
        ∃ q ∈ t.core.pend, q.id = p.id ∧ f q
      (∀ v, got = .restart v → ends (fun q => q.perf = false ∧ q.due = 4096 + s.cycle) s.mem) ∧
      (∀ g v, got = .fail g v → ends (fun q => q.perf = true ∧ q.fault = some (g, v)) s.mem) ∧
      (∀ ls, got = .ok ls → isStore p.op.instr = false → ends (fun q => q.perf = true ∧ q.acked = true ∧ q.fault = p.fault ∧
        q.res = ls.map fun x => BitVec.ofNat 64 (s.homeNat s.me x.2.2.key (pendBytes p))) s.mem) ∧
      (∀ ls, got = .ok ls → isStore p.op.instr = true → ends (fun q => q.perf = true ∧ q.fault = p.fault)
        ((ls.zip p.blk).foldl (fun (u : State) x =>
          (u.flushKeys s.me ((List.range (pendBytes p)).map (x.1.2.2.key + ·))).perform (some s.me) 1 x.1.2.2.key
            (bytesOf (pendBytes p) x.2.toNat)) s).mem)) ∧
    (∀ x, exec (.peerRequest (.ext x)) s = .next (s.foreignStore x))

/-! ## Sharding maps (R285 to R287, R365 to R376) -/

/-- R286, R287, R374 to R376: TLD and TST turn their six index words into the pointer of R372, or fault; TLD is then in
flight, TST is a store of the element. SHMLD reads 64 bytes in flight and sets its map register if they are a valid map,
else faults MAP_INVALID; SHMST stores the eight words of a map. -/
def Obligations.MapInstructions : Prop :=
  ∀ (s t : State) (c : Ctl) (d a b e : IOp) (k : BitVec 3) (p : Word) (n : Nat) (ls : List (Nat × Word × Loc))
    (id : Nat) (q : Pend) (f : FCode),
    let ix := fun (x y z : Word) => [x.toNat % 2 ^ 32, x.toNat / 2 ^ 32, y.toNat % 2 ^ 32, y.toNat / 2 ^ 32,
      z.toNat % 2 ^ 32, z.toNat / 2 ^ 32]
    let words := (List.range 8).map fun w => Store.get 0 s.core.sm (8 * k.toNat + w)
    (s.Opens c [a, b, e] [d] t →
      let r := elementAt t.mesh t.node words (ix (t.src .a a) (t.src .b b) (t.src .c e)) false
      (r = .error f → exec (.tld c d a b e k) s = .next (t.raise f 0)) ∧
      (r = .ok (p, n) → t.lanesAt .read n false (fun _ => none) [(0, p)] = .ok ls →
        ∃ u y, exec (.tld c d a b e k) s = .next u ∧ u.core.pend = s.core.pend ++ [y] ∧ y.vas = ls.map (·.2.1) ∧
          y.perf = false ∧ y.dest = [(t.wrI d 0).1] ∧ u.mem = s.mem ∧ u.core.s = s.core.s)) ∧
    (s.Opens c [d, a, b, e] [] t →
      let r := elementAt t.mesh t.node words (ix (t.src .a a) (t.src .b b) (t.src .c e)) true
      (r = .error f → exec (.tst c d a b e k) s = .next (t.raise f 0)) ∧
      (r = .ok (p, n) → t.lanesAt .write n false (fun _ => none) [(0, p)] = .ok ls → t.core.gateClosed = false →
        t.core.pend = [] → (∀ l ∈ ls, l.2.2.tag ≠ 3 ∧ t.ignoresWrite l.2.2.key = false) → ls ≠ [] →
        exec (.tst c d a b e k) s = .next (ls.foldl (fun u l => u.coreStore u.me l.2.2.key (bytesOf n (t.src .d d).toNat))
          ((t.keepLeaves ls).commitGate (t.keepLeaves ls).me)))) ∧
    (s.Opens c [a] [] t →
      let x := t.src .a a
      let okTag := tagOf x < 8 ∧ tagOf x ≠ 2 ∧ tagOf x ≠ 3 ∧ tagOf x ≠ 6
      (¬okTag → exec (.shmld c a k) s = .next (t.raise .spaceTag x) ∧ exec (.shmst c a k) s = .next (t.raise .spaceTag x)) ∧
      (okTag → x.toNat % 64 ≠ 0 →
        exec (.shmld c a k) s = .next (t.raise .align x) ∧ exec (.shmst c a k) s = .next (t.raise .align x)) ∧
      (okTag → x.toNat % 64 = 0 → t.lanesAt .read 64 false (fun _ => none) [(0, x)] = .ok ls →
        ∃ u y, exec (.shmld c a k) s = .next u ∧ u.core.pend = s.core.pend ++ [y] ∧ y.perf = false ∧
          y.vas = ls.flatMap (fun _ => (List.range 8).map fun i => addOffset x (BitVec.ofNat 64 (8 * i))) ∧
          u.core.sm = s.core.sm ∧ u.mem = s.mem) ∧
      (okTag → x.toNat % 64 = 0 → t.lanesAt .write 64 false (fun _ => none) [(0, x)] = .ok ls → t.core.pend = [] →
        exec (.shmst c a k) s = .next (ls.foldl (fun v l => v.coreStore v.me l.2.2.key (words.flatMap fun w => bytesOf 8 w.toNat))
          ((t.keepLeaves ls).commitGate t.me)))) ∧
    (s.core.pendOf id = some q → q.op.instr = .shmld c a k → q.due ≤ s.cycle → q.perf = true → q.fault = none →
      s.core.owns q.own = true → q.res.length = 8 →
      (mapValid s.mesh q.res = false →
        exec (.variableOpComplete id) s = .next (s.faultPend q .mapInvalid (q.vas.headD 0))) ∧
      (mapValid s.mesh q.res = true → ∃ u, exec (.variableOpComplete id) s = .next u ∧
        (∀ w < 8, Store.get 0 u.core.sm (8 * k.toNat + w) = q.res.getD w 0) ∧
        (∀ w, w < 8 * k.toNat ∨ 8 * k.toNat + 8 ≤ w → Store.get 0 u.core.sm w = Store.get 0 s.core.sm w) ∧
        u.mem = s.mem ∧ ∀ y ∈ u.core.pend, y.id ≠ q.id))

/-- R370: the shards of a dimension, in blocks or balanced, follow one another without gap or overlap, cover the extent,
and the owner of an index is the shard that holds it. -/
def Obligations.ShardsPartitionTheExtent : Prop :=
  ∀ (balanced : Bool) (n k i : Nat), 0 < n → 0 < k → i < n →
    (∀ u, (shardOf balanced n k (u + 1)).1 = (shardOf balanced n k u).1 + (shardOf balanced n k u).2 ∨ k ≤ u) ∧
    (shardOf balanced n k 0).1 = 0 ∧
    (shardOf balanced n k (k - 1)).1 + (shardOf balanced n k (k - 1)).2 = n ∧
    ownerOf balanced n k i < k ∧
    (shardOf balanced n k (ownerOf balanced n k i)).1 ≤ i ∧
    i < (shardOf balanced n k (ownerOf balanced n k i)).1 + (shardOf balanced n k (ownerOf balanced n k i)).2

/-! ## Translation maintenance and page waits (R140, R141, R258 to R261, R479) -/

/-- R259 to R261, R140, R141: TLBI is privileged, which it checks before it pops a q register; it commits and releases in
its scope and then reaches every core of the scope, once, at which it drops the translations. Unfinished accesses through
migratable pages that it covers meet a restart event there (a fault where the core has no mark, and at the resume where it is
frozen); the TLBI completes after the last core once the others are complete. Which accesses count is the model's reading (log
entry 91). A rolled-back core issues its mark bundle again once the page is there, a core waiting for a fetch fetches again. -/
def Obligations.TlbiAndPageWaits : Prop :=
  ∀ (s : State) (c : Ctl) (a : IOp) (all : Bool) (scope : TlbScope) (id e : Nat) (p : Pend) (va : Word),
    ((s.guardMask c).getLsbD 0 = true →
      (s.core.sup = false → exec (.tlbi c a all scope) s = .next (s.raise .priv 0)) ∧
      (∀ t, s.core.sup = true → s.Takes (if all then [] else [a]) [] t →
        let x := if all then 0 else t.src .a a
        (2 < tagOf x → exec (.tlbi c a all scope) s = .next (t.raise .spaceTag x)) ∧
        (tagOf x ≤ 2 →
          let rel := match scope with
            | .core => Scope.core
            | .die => Scope.die
            | .pkg => Scope.pkg
            | .part => Scope.part
          let r := (t.commitGate t.me).releaseLines t.me rel
          ∃ u q, exec (.tlbi c a all scope) s = .next u ∧ u.core.pend = r.core.pend ++ [q] ∧ q.op.a = x ∧ u.mem = r.mem ∧
            u.core.gate = [] ∧ (scope = .core → q.left = [s.me]) ∧
            (∀ k, k ∈ q.left ↔ match scope with
              | .core => k = s.me
              | .die => k / 144 = s.me / 144 ∧ s.enabled k = true
              | .pkg => s.enabled k = true
              | .part => s.enabled k = true)))) ∧
    (s.core.pendOf id = some p → p.op.instr = .tlbi c a all scope → p.due ≤ s.cycle → s.core.relWaits p = false →
      let spent := fun (u : State) (q : Pend) => q.left = [] ∧ ∀ x ∈ q.keys, u.tlbiHeld x.1 x.2 = false
      (e ∈ p.left → (s.dieAt (e / 144)).owed = [] →
        let xs := s.tlbiAccesses p e
        let hit := xs.filter fun x => x.mig
        ∃ (t u : State) (q : Pend), (spent u q → exec (.tlbiInvalidate id e) s = .next (u.dropPend q)) ∧
          (¬spent u q → exec (.tlbiInvalidate id e) s = .next (u.setPend q)) ∧ t.mem = s.mem ∧
          (all = true → (t.coreAt e).tlb = []) ∧ (∀ y ∈ (t.coreAt e).tlb, offOf p.op.a / y.size ≠ y.page) ∧
          q = { p with
            left := p.left.filter (· != e),
            keys := p.keys ++ ((xs.filter fun x => !x.mig || x.num % 3 == 0).map fun x => (e, x.num)) ++
              if s.tlbiArea p e then [(e, 5)] else [] } ∧
          ((s.coreAt e).frozen = true → u = t.modCoreAt e fun k => { k with
            thaw := k.thaw ++ hit.map fun x => (x.va, x.bundle, x.num) }) ∧
          ((s.coreAt e).frozen = false → hit = [] → u = t) ∧
          (∀ x l, (s.coreAt e).frozen = false → hit = x :: l →
            ((s.coreAt e).shadow.isSome = true → u = t.restartEvent e x.va x.bundle) ∧
            ((s.coreAt e).shadow = none → u = hit.foldl (fun v y => v.faultAccess e y) t))) ∧
      (e ∉ p.left → (spent s p → exec (.tlbiInvalidate id e) s = .next (s.dropPend p)) ∧
        (¬spent s p → exec (.tlbiInvalidate id e) s = .next (s.setPend p)))) ∧
    (s.core.pendOf id = some p → p.op.instr = .tlbi c a all scope → s.cycle < p.due ∨ s.core.relWaits p = true →
      exec (.tlbiInvalidate id e) s = .next s) ∧
    (s.core.wait = some (.rewalk va) → s.core.nextIssue ≤ s.cycle →
      (s.access s.me va .read 1 0 false = .absent →
        exec .rewalk s = .next (s.modCore fun k => { k with nextIssue := 4096 + s.cycle })) ∧
      (s.access s.me va .read 1 0 false ≠ .absent → exec .rewalk s = .next (s.modCore fun k => { k with wait := none }))) ∧
    (s.core.wait = some (.fetch va) → s.core.nextIssue ≤ s.cycle → s.me % 144 ≠ 0 →
      exec .pageWaitRewalk s = .next (s.modCore fun k => { k with wait := none }))

/-! ## The page pool, windows and prefixes (R403 to R424) -/

/-- R409 to R422: at issue the operations of the die's tables make their checks, commit the store gate and go in flight
with their operands; KVST and KALLOC latch STEP and SPECW, PFXH its hash, PFXL the places of its list, SPECB its descriptor,
and SPECC and SPECA release in the die first. -/
def Obligations.TableOperationsStart : Prop :=
  ∀ (s t : State) (c : Ctl) (d a b e : IOp) (va vb : VOp) (spec pin : Bool) (draft : BitVec 4) (op : PfxOp),
    let window := t.core.special 14
    let noDraft := spec = true ∧ (window.getLsbD 8 = false ∨ window.toNat / 16 % 16 < draft.toNat)
    let latched := [t.core.special 13 &&& 0xFFFF, window]
    let gated := t.commitGate t.me
    let inFlight := fun (o : Out) (r : State) (x y z w : Word) (blk : List Word) => ∃ u q, o = .next u ∧
      u.core.pend = t.core.pend ++ [q] ∧ q.op.instr = t.core.cur.instr ∧ q.op.d = x ∧ q.op.a = y ∧ q.op.b = z ∧
      q.op.c = w ∧ q.blk = blk ∧ q.perf = false ∧ u.core.gate = [] ∧ u.mem = r.mem ∧
      u.core.s = s.core.s ∧ u.core.v = s.core.v ∧ u.core.p = s.core.p
    (s.Opens c [d, e] [] t →
      let x := t.src .d d
      let pos := t.src .c e
      let go := exec (.kvst c d va vb e spec draft) s
      (2 ^ 24 ≤ x.toNat → go = .next (t.raise .reservedField 0)) ∧
      (x.toNat < 2 ^ 24 → 2 ^ 24 ≤ pos.toNat → go = .next (t.raise .positionRange 0)) ∧
      (x.toNat < 2 ^ 24 → pos.toNat < 2 ^ 24 → noDraft → go = .next (t.raise .specWindow 0)) ∧
      (x.toNat < 2 ^ 24 → pos.toNat < 2 ^ 24 → ¬noDraft →
        inFlight go gated x 0 0 pos latched ∧
        (∀ u, go = .next u → ∀ q, u.core.pend.getLast? = some q → q.op.va = t.srcV .a va ∧ q.op.vb = t.srcV .b vb))) ∧
    (s.Opens c [] [d] t →
      (noDraft → exec (.kalloc c d spec draft) s = .next (t.raise .specWindow 0)) ∧
      (¬noDraft → inFlight (exec (.kalloc c d spec draft) s) gated 0 0 0 0 latched)) ∧
    (s.Opens c [a] [] t →
      let n := (t.src .a a).toNat
      inFlight (exec (.kfree c a) s) gated 0 (t.src .a a) 0 0 [] ∧
      (window.getLsbD 8 = false ∨ window.toNat / 16 % 16 + 1 < n → exec (.specc c a) s = .next (t.raise .specWindow 0)) ∧
      (window.getLsbD 8 = true → n ≤ window.toNat / 16 % 16 + 1 →
        inFlight (exec (.specc c a) s) (gated.releaseLines t.me .die) 0 (t.src .a a) 0 0 latched)) ∧
    (s.Opens c [] [] t →
      (window.getLsbD 8 = false → exec (.speca c) s = .next (t.raise .specWindow 0)) ∧
      (window.getLsbD 8 = true → inFlight (exec (.speca c) s) (gated.releaseLines t.me .die) 0 0 0 0 latched)) ∧
    (s.Opens c [a] [d] t → inFlight (exec (.pfxp c d a op) s) gated 0 (t.src .a a) 0 0 []) ∧
    (s.Opens c [a, b] [d] t →
      let x := t.src .a a
      let y := t.src .b b
      let hash := exec (.pfxh c d a b) s
      let look := exec (.pfxl c d a b pin) s
      let begin_ := exec (.specb c d a b) s
      inFlight (exec (.pfxi c d a b) s) gated 0 x y 0 [] ∧
      (tagOf y ∉ [0, 5, 7] → hash = .next (t.raise .spaceTag y)) ∧
      (tagOf y ∈ [0, 5, 7] → y.toNat % 64 ≠ 0 → hash = .next (t.raise .align y)) ∧
      (tagOf y ∈ [0, 5, 7] → y.toNat % 64 = 0 →
        (∀ f v, t.pieces y .read 1 64 = .fail f v → hash = .next (t.raise f v)) ∧
        (∀ v, t.pieces y .read 1 64 = .restart v → hash = t.restartAt v) ∧
        (∀ l, t.pieces y .read 1 64 = .ok [l] →
          let tok := fun i => natOf ((List.range 4).map fun j => t.view t.me (l.2.2.key + 4 * i + j))
          let h := (List.range 16).foldl (fun h i =>
            mix64 (h ^^^ (0x9E3779B97F4A7C15 * BitVec.ofNat 64 (tok i + i * 2 ^ 32 + 2 ^ 36)))) x
          inFlight hash (((t.touch t.me ((List.range 64).map (l.2.2.key + ·))).keepLeaves [l]).commitGate t.me) 0 x y 0
            [if h = 0 then 1 else h])) ∧
      (tagOf x ∉ [0, 5, 7] → look = .next (t.raise .spaceTag x) ∧ begin_ = .next (t.raise .spaceTag x)) ∧
      (tagOf x ∈ [0, 5, 7] → x.toNat % 16 ≠ 0 → look = .next (t.raise .align x)) ∧
      (tagOf x ∈ [0, 5, 7] → x.toNat % 64 ≠ 0 → begin_ = .next (t.raise .align x)) ∧
      (tagOf x ∈ [0, 5, 7] → x.toNat % 16 = 0 → y.toNat = 0 ∨ 64 < y.toNat → look = .next (t.raise .reservedField 0)) ∧
      (tagOf x ∈ [0, 5, 7] → x.toNat % 16 = 0 → 1 ≤ y.toNat → y.toNat ≤ 64 →
        (∀ f v, t.pieces x .rw y.toNat 16 = .fail f v → look = .next (t.raise f v)) ∧
        (∀ v, t.pieces x .rw y.toNat 16 = .restart v → look = t.restartAt v) ∧
        (∀ ls, t.pieces x .rw y.toNat 16 = .ok ls →
          inFlight look ((t.keepLeaves ls).commitGate t.me) 0 x y 0 [] ∧
          (∀ u, look = .next u → ∀ q, u.core.pend.getLast? = some q → q.keys = ls.map fun l => (l.1, l.2.2.key)))) ∧
      (tagOf x ∈ [0, 5, 7] → x.toNat % 64 = 0 →
        (∀ f v, t.pieces x .read 2 64 = .fail f v → begin_ = .next (t.raise f v)) ∧
        (∀ v, t.pieces x .read 2 64 = .restart v → begin_ = t.restartAt v) ∧
        (∀ ls, t.pieces x .read 2 64 = .ok ls →
          let w := ls.flatMap fun l => (List.range 8).map fun i => t.viewWord t.me (l.2.2.key + 8 * i)
          (2 ^ 20 ≤ y.toNat ∨ descriptorBad w = true →
            ∃ u : State, begin_ = .next (u.raise .reservedField 0) ∧ u.mem = t.mem ∧ u.core.pend = t.core.pend) ∧
          (y.toNat < 2 ^ 20 → descriptorBad w = false → window.getLsbD 8 = true →
            ∃ u : State, begin_ = .next (u.raise .specWindow 0) ∧ u.mem = t.mem ∧ u.core.pend = t.core.pend) ∧
          (y.toNat < 2 ^ 20 → descriptorBad w = false → window.getLsbD 8 = false → 
            inFlight begin_ (((t.touch t.me (ls.flatMap fun l => (List.range 64).map (l.2.2.key + ·))).keepLeaves ls).commitGate t.me)
              0 x y 0 w))))

/-- R409 to R422: what the operations of the die's tables do at their place in its order, in every form. Held back, they
change nothing. KALLOC takes the top of the free stack, KFREE gives a page back with the entries it ends, KVST writes a
token's rows and sideband word, PFXI enters a hash, PFXP counts pins, PFXL answers the matched chain, SPECB opens the
lowest free window and shows it in SPECW, SPECC keeps the first n drafts, SPECA none; each with the faults of its rule.
The bitmap's polarity is the model's choice (log entry 22), and so is what an operation of a window meets whose window is
no longer open or no longer its task's: SPEC_WINDOW for KVST and KALLOC, nothing for SPECC and SPECA (log entry 54). -/
def Obligations.TableOperationsPerform : Prop :=
  ∀ (s : State) (id : Nat) (p : Pend), s.core.pendOf id = some p →
    let d := s.me / 144
    let go := exec (.variableOpComplete id) s
    let held := s.cycle < p.due ∨ s.heldAtHome p = true ∨ s.tableHeld p = true
    let ends := fun (u : State) (x : Word) => go = .next (u.finishPend p (p.dest.map fun _ => x.setWidth 2048))
    let faults := fun (f : FCode) => go = .next (s.faultPend p f 0)
    let pages := s.kvPages d
    let free := (s.dieAt d).kvFree
    let own := (p.blk.getD 1 0).toNat % 8
    let win := (s.window d own).filter fun x => x.core == s.me % 144 && x.task == p.own.task
    let step := (p.blk.getD 0 0).toNat
    let resolved := fun (copies : State → State) (x : SpecWin) (keep : Nat → Bool) =>
      let v := copies <| x.writes.foldl (fun (t : State) y => t.perform none 1 (t.sideKey d y.1 y.2.1) (bytesOf 8
        (if keep y.2.2 then (t.wordAt (t.sideKey d y.1 y.2.1) &&& ~~~(0x800000FFFF : Word)).toNat + step % 65536 else 0))) s
      let v := x.allocs.foldl (fun (t : State) y => if keep y.2 then t else t.freePage d y.1) v
      let v := v.modDie d fun k => { k with windows := Store.set none k.windows own none }
      if v.core.owns p.own then v.modCore fun k => k.setSpecial 14 0 else v
    (held → (s.tableOp p).isSome = true → go = .next s) ∧
    (¬held →
    (∀ c r spec draft, p.op.instr = .kalloc c r spec draft →
      let noRoom := spec = true ∧ ∀ x, win = some x → 16 ≤ x.allocs.length
      (noRoom → faults .specWindow) ∧
      (¬noRoom → (s.dieAt d).kvcfg.getLsbD 0 = false ∨ free = 0 → faults .kvPoolEmpty) ∧
      (¬noRoom → (s.dieAt d).kvcfg.getLsbD 0 = true → 0 < free →
        let page := s.natAt (s.pageKey d pages + 4 * (free - 1)) 4
        let u := ((s.modDie d fun y => { y with kvFree := free - 1 }).setAllocated d page true)
        let u := u.perform none 1 (u.pageKey d page) (List.replicate 128 0)
        (spec = false → ends u (BitVec.ofNat 64 page)) ∧
        (∀ x, spec = true → win = some x → ends (u.setWindow d own
          (some { x with allocs := x.allocs ++ [(page, draft.toNat)] })) (BitVec.ofNat 64 page)))) ∧
    (∀ c r, p.op.instr = .kfree c r →
      let page := p.op.a.toNat
      let naming := (s.validPfx d).filter fun i => (s.pfx d i).page == page
      let hit := s.family d naming
      let held_ := ∃ w x, w < 8 ∧ s.window d w = some x ∧ ∃ y ∈ x.allocs, y.1 = page
      let pinned := (∃ i ∈ hit, (s.pfx d i).pin ≠ 0) ∨ ∃ i ∈ naming, ∃ j ∈ s.ancestors d 64 i, (s.pfx d j).pin ≠ 0
      (2 ^ 20 ≤ page → faults .reservedField) ∧
      (page < 2 ^ 20 → pages ≤ page ∨ s.allocated d page = false → faults .range) ∧
      (page < 2 ^ 20 → page < pages → s.allocated d page = true → held_ → faults .specWindow) ∧
      (page < 2 ^ 20 → page < pages → s.allocated d page = true → ¬held_ → pinned → faults .range) ∧
      (page < 2 ^ 20 → page < pages → s.allocated d page = true → ¬held_ → ¬pinned →
        let u := (s.dropPfx d hit).perform none 1 (s.pageKey d pages + 4 * free) (bytesOf 4 page)
        ends ((u.setAllocated d page false).modDie d fun y => { y with kvFree := y.kvFree + 1 }) 0)) ∧
    (∀ c x a b e spec draft, p.op.instr = .kvst c x a b e spec draft →
      let page := p.op.d.toNat % 2 ^ 20
      let slot := p.op.d.toNat / 2 ^ 20 % 16
      let base := s.pageKey d page
      let n := s.rowB d
      let sb := s.wordAt (base + 8 * slot)
      let bad := if spec then sb.getLsbD 31 = true ∨ ∀ x, win = some x → 256 ≤ x.writes.length
        else sb.getLsbD 31 = true ∧ sb.getLsbD 39 = true
      let put := fun (t : State) (k : Nat) (bs : List Byte) =>
        (t.flushKeys t.me ((List.range bs.length).map (k + ·))).perform (some t.me) 1 k bs
      let rows := put (put s (base + 128 + slot * n) (bytesOf n p.op.va.toNat)) (base + 128 + (16 + slot) * n)
        (bytesOf n p.op.vb.toNat)
      let pos := p.op.c.toNat % 2 ^ 24 * 2 ^ 40
      (pages ≤ page ∨ s.allocated d page = false → faults .range) ∧
      (page < pages → s.allocated d page = true → bad → faults .specWindow) ∧
      (page < pages → s.allocated d page = true → ¬bad →
        (spec = false → ends (put rows (base + 8 * slot) (bytesOf 8 (pos + own * 2 ^ 36 + 2 ^ 31 + step % 2 ^ 16))) 0) ∧
        (∀ x, spec = true → win = some x →
          ends ((put rows (base + 8 * slot) (bytesOf 8
              (pos + 2 ^ 39 + own * 2 ^ 36 + draft.toNat * 2 ^ 32 + 2 ^ 31 + x.base.toNat))).setWindow d own
            (some { x with writes := x.writes ++ [(page, slot, draft.toNat)] })) 0))) ∧
    (∀ c r a b, p.op.instr = .pfxh c r a b → ends s (p.blk.headD 0)) ∧
    (∀ c r a b, p.op.instr = .pfxi c r a b →
      let page := p.op.b.toNat % 2 ^ 20
      let parent := p.op.b.toNat / 2 ^ 20 % 64
      let pv := p.op.b.getLsbD 26
      let bad := p.op.a = 0 ∨ pages ≤ page ∨ s.allocated d page = false ∨ (pv = true ∧ (s.pfx d parent).valid = false)
      let there := (s.validPfx d).find? fun i => (s.pfx d i).w0 == p.op.a
      (2 ^ 27 ≤ p.op.b.toNat → faults .reservedField) ∧
      (p.op.b.toNat < 2 ^ 27 → bad → faults .range) ∧
      (p.op.b.toNat < 2 ^ 27 → ¬bad →
        (∀ i, there = some i → ends s (BitVec.ofNat 64 (2 ^ 63 + i))) ∧
        (there = none → (∀ i < 64, (s.pfx d i).valid = true) → faults .prefixTableFull) ∧
        (∀ i < 64, there = none → (s.pfx d i).valid = false → (∀ j < i, (s.pfx d j).valid = true) →
          ∃ u, ends u (BitVec.ofNat 64 i) ∧ (u.pfx d i).w0 = p.op.a ∧ (u.pfx d i).valid = true ∧
            (u.pfx d i).page = page ∧ (u.pfx d i).pin = 0 ∧
            (u.pfx d i).parent = (if pv then some parent else none) ∧ (u.pfx d i).w1.toNat / 2 ^ 56 % 64 = parent ∧ u.mem = s.mem ∧
            (∀ j, j ≠ i → u.pfx d j = s.pfx d j)))) ∧
    (∀ c r a op, p.op.instr = .pfxp c r a op →
      let i := p.op.a.toNat
      (64 ≤ i → faults .reservedField) ∧
      (i < 64 → (s.pfx d i).valid = false → faults .range) ∧
      (i < 64 → (s.pfx d i).valid = true →
        (op = .pin → (s.pfx d i).pin < 65535 → ∃ u, ends u (BitVec.ofNat 64 ((s.pfx d i).pin + 1)) ∧
          (u.pfx d i).pin = (s.pfx d i).pin + 1 ∧ (u.pfx d i).page = (s.pfx d i).page ∧ u.mem = s.mem) ∧
        (op = .unpin → 0 < (s.pfx d i).pin → ∃ u, ends u (BitVec.ofNat 64 ((s.pfx d i).pin - 1)) ∧
          (u.pfx d i).pin = (s.pfx d i).pin - 1 ∧ (u.pfx d i).page = (s.pfx d i).page ∧ u.mem = s.mem) ∧
        (op = .pin ∧ (s.pfx d i).pin = 65535 ∨ op = .unpin ∧ (s.pfx d i).pin = 0 → faults .range) ∧
        (op = .inv → (∃ j ∈ s.family d [i], (s.pfx d j).pin ≠ 0) → faults .range) ∧
        (op = .inv → (∀ j ∈ s.family d [i], (s.pfx d j).pin = 0) → ∃ u, ends u 0 ∧ u.mem = s.mem ∧
          (∀ j ∈ s.family d [i], (u.pfx d j).valid = false) ∧
          (∀ j, j ∉ s.family d [i] → u.pfx d j = s.pfx d j)))) ∧
    (∀ c r a b pin, p.op.instr = .pfxl c r a b pin →
      let r := s.touch s.me (p.keys.flatMap fun x => (List.range 8).map (x.2 + ·))
      let m := r.matchPfx d none (p.keys.map fun x => r.viewWord r.me x.2)
      let full := pin = true ∧ ∃ i ∈ m, (s.pfx d i).pin = 65535
      (full → go = .next (r.faultPend p .range 0)) ∧
      (¬full →
        let counted := if pin then
            m.foldl (fun (u : State) i => u.setPfx d i ((u.pfx d i).setPin ((u.pfx d i).pin + 1))) r
          else r
        let answers := (List.range p.keys.length).map fun j => match m[j]? with
          | some i => 2 ^ 63 + i * 2 ^ 20 + (s.pfx d i).page
          | none => 0
        ends ((p.keys.zip answers).foldl (fun (v : State) x =>
          (v.flushKeys v.me ((List.range 8).map (x.1.2 + 8 + ·))).perform (some v.me) 1 (x.1.2 + 8)
            (bytesOf 8 (BitVec.ofNat 64 x.2).toNat)) counted) (BitVec.ofNat 64 m.length))) ∧
    (∀ c r a b, p.op.instr = .specb c r a b →
      let w := (List.range 8).find? fun w => (s.window d w).isNone
      (w = none → faults .specWindow) ∧
      (∀ k, w = some k → s.core.owns p.own = true → ∃ u, ends u (BitVec.ofNat 64 k) ∧
        u.core.special 14 = BitVec.ofNat 64 (256 + p.op.b.toNat / 2 ^ 16 % 16 * 16 + k) ∧ u.mem = s.mem ∧
        u.window d k = some
          { core := s.me % 144, task := p.own.task, base := p.op.b.extractLsb' 0 16,
            ndraft := p.op.b.toNat / 2 ^ 16 % 16 + 1,
            regions := (List.range ((p.blk.getD 0 0).toNat % 8)).map fun r =>
              (p.blk.getD (1 + 2 * r) 0, (p.blk.getD (2 + 2 * r) 0).toNat / 2 ^ 32, (p.blk.getD (2 + 2 * r) 0).toNat % 2 ^ 32),
            allocs := [], writes := [] } ∧
        (∀ j, j ≠ k → u.window d j = s.window d j))) ∧
    (∀ c x, p.op.instr = .speca c → win = some x → ends (resolved (fun v => v) x fun _ => false) 0) ∧
    (∀ c a, p.op.instr = .speca c ∨ p.op.instr = .specc c a → win = none → ends s 0) ∧
    (∀ c a x, p.op.instr = .specc c a → win = some x →
      let n := p.op.a.toNat
      (n = 0 → ends (resolved (fun v => v) x fun _ => false) 0) ∧
      (0 < n →
        (∀ f v, s.regionKeys n x.regions = .error (some (f, v)) → go = .next (s.faultPend p f v)) ∧
        (s.regionKeys n x.regions = .error none → go = .next (s.setPend { p with due := 4096 + s.cycle })) ∧
        (∀ ls, s.regionKeys n x.regions = .ok ls →
          ends (resolved (fun v => v.copyRegions ls) x fun j => decide (j < n)) 0))))

/-! ## Tiles and the tensor engine (R200 to R239) -/

/-- R200, R208, R217 to R220: a tile-control operation enters the core's jobs with its operands and waits in PEND of its
tile; TSTAT lands a word of the tile image, zero for an unbound tile, two cycles on.

R208, R216, R221 to R226, R231 to R239: a tensor job or Scarab job enters the core's jobs with the operands that its
slot read, and changes no register, tile, accumulator or plane before it starts. TDRAIN under mode 4 reserves 64 counter
values a row. -/
def Obligations.TileAndTensorJobsEnter : Prop :=
  (∀ (s t : State) (c : Ctl) (i : TIdx) (d a b : IOp) (auto : Bool) (w : BitVec 3),
      let queued := fun (o : Out) (kind : Nat) (bit : Bool) (x y : Word) => ∃ u j, o = .next u ∧
        u.core.jobs = t.core.jobs ++ [j] ∧ j.start = none ∧ j.op.a = x ∧ j.op.b = y ∧ j.due = s.cycle + 1 ∧
        (u.core.tileWord i.toNat 3).toNat / 2 ^ 61 = 4 + kind ∧ (u.core.tileWord i.toNat 3).getLsbD 60 = bit ∧
        (u.core.tileWord i.toNat 3).toNat % 2 ^ 56 = (s.core.tileWord i.toNat 3).toNat % 2 ^ 56 ∧
        u.core.tileWord i.toNat 4 = x ∧ u.core.tileWord i.toNat 5 = y ∧
        (∀ k, k ≠ 8 * i.toNat + 3 → k ≠ 8 * i.toNat + 4 → k ≠ 8 * i.toNat + 5 → k ≠ 8 * i.toNat + 6 →
          Store.get 0 u.core.tiles k = Store.get 0 s.core.tiles k) ∧
        u.core.s = s.core.s ∧ u.core.v = s.core.v ∧ u.core.p = s.core.p ∧ u.core.spr = s.core.spr ∧
        u.core.acc = s.core.acc ∧ u.core.planes = s.core.planes ∧ u.mem = s.mem
      (s.Opens c [a] [] t → queued (exec (.tbind c i a) s) 0 false (t.src .a a) 0) ∧
      (s.Opens c [a, b] [] t → queued (exec (.tfetch c i a b auto) s) 1 auto (t.src .a a) (t.src .b b)) ∧
      (s.Opens c [] [] t →
        queued (exec (.trel c i) s) 2 false 0 0 ∧ queued (exec (.tbindUnb c i) s) 3 false 0 0) ∧
      (s.Opens c [] [d] t →
        exec (.tstat c d i w) s = .next (t.landI 2 d
          (if (s.core.tileWord i.toNat 0).getLsbD 63 then Store.get 0 s.core.tiles (8 * i.toNat + w.toNat) else 0)))) ∧
  (∀ (s t : State) (c : Ctl) (acc : BitVec 2) (i k : TIdx) (a b : IOp) (wf : WFmt) (half wsk ask sat clr sideB : Bool)
      (rm : RmSel),
      let queued := fun (o : Out) (x y : Word) (n : Nat) => ∃ u j, o = .next u ∧
        u.core.jobs = t.core.jobs ++ [j] ∧ j.start = none ∧ j.op.a = x ∧ j.op.b = y ∧ j.due = s.cycle + 1 ∧
        j.draw = (if n = 0 then j.draw else s.core.scarab.rctr) ∧
        u.core.scarab = { s.core.scarab with rctr := s.core.scarab.rctr + BitVec.ofNat 64 n } ∧
        u.core.tiles = s.core.tiles ∧ u.core.acc = s.core.acc ∧ u.core.planes = s.core.planes ∧
        u.core.active = s.core.active ∧ u.core.s = s.core.s ∧ u.core.v = s.core.v ∧ u.core.p = s.core.p ∧
        u.core.spr = s.core.spr ∧ u.mem = s.mem
      (s.Opens c [] [] t → queued (exec (.wswap c) s) 0 0 0) ∧
      (s.Opens c [a] [] t →
        let x := t.src .a a
        queued (exec (.tzero c acc a) s) x 0 0 ∧ queued (exec (.wload c i a) s) x 0 0 ∧
        queued (exec (.mma c acc i a wf half) s) x 0 0 ∧ queued (exec (.normk c i a sideB clr) s) x 0 0 ∧
        queued (exec (.aliasTab c a) s) x 0 0 ∧ queued (exec (.seed c a) s) x 0 0 ∧ queued (exec (.smmv c a) s) x 0 0 ∧
        queued (exec (.tdrain c i acc a rm sat clr) s) x 0
          (if modeOf rm t.fmode = .rsr then 64 * (x.toNat / 2 ^ 32 % 128 + 1) else 0)) ∧
      (s.Opens c [a, b] [] t →
        queued (exec (.mmas c acc i a b wf half wsk ask) s) (t.src .a a) (t.src .b b) 0 ∧
        queued (exec (.smm c acc i k a b) s) (t.src .a a) (t.src .b b) 0))

/-- R200 to R202, R209, R217 to R219: the operation that waits at a tile is performed once nothing earlier holds it.
TBIND checks its operand and writes the image, TBIND.unb clears it, TFETCH and an AUTO TREL commit the gate and begin a
fill, another TREL empties the tile; TFETCH and TREL fault on a tile that is not bound. A fill writes one row after the
other and ends READY with its count up by one. -/
def Obligations.TileOperationsPerform : Prop :=
  ∀ (s : State) (i : TIdx) (j : TJob) (c : Ctl) (a b : IOp) (auto : Bool) (row : Nat),
    let n := i.toNat
    let w := fun (u : State) (k : Nat) => u.core.tileWord n k
    (s.core.jobs.find? (fun j => j.control && j.start.isNone && (jobTiles j.op.instr).contains n) = some j →
      s.core.run = .running → s.mayStart s.me j = true →
      s.jobEdges s.me j (s.core.controlRegions j n).1 (s.core.controlRegions j n).2 = true →
      let go := exec (.tileControlPerform i) s
      let x := j.op.a
      let cleared := fun (u : State) => w u 4 = 0 ∧ w u 5 = 0 ∧ w u 6 = 0 ∧ (w u 3).toNat < 2 ^ 56
      let filling := fun (u : State) => (w u 0).toNat / 2 ^ 58 % 4 = 1 ∧
        ∃ y ∈ u.core.jobs, y.id = j.id ∧ y.start = some s.cycle ∧ y.fill = List.range ((w s 0).toNat / 2 ^ 45 % 256 + 1)
      let v := if (s.core.controlRegions j n).2 = [] then s else s.jobCommit (s.gateCore s.me j) j.own
      let fault := fun (f : FCode) (y : Word) => go = .next ((v.modCore fun k => k.clearPend n).failJob s.me j f y)
      let shapeBad := tPitch x % 8 ≠ 0 ∨ tPitch x < tRowBytes x ∨ tFmt x = 6 ∧ tCols x % 32 ≠ 0
      (j.op.instr = .tbind c i a →
        (x.toNat / 2 ^ 58 ≠ 0 ∨ x.getLsbD 53 = true ∨ 9 ≤ tFmt x → fault .reservedField 0) ∧
        (x.toNat < 2 ^ 58 → x.getLsbD 53 = false → tFmt x < 9 → x.toNat % 64 ≠ 0 → fault .align (BitVec.ofNat 64 (tBuf x))) ∧
        (x.toNat < 2 ^ 58 → x.getLsbD 53 = false → tFmt x < 9 → x.toNat % 64 = 0 → shapeBad → fault .tileShape 0) ∧
        (x.toNat < 2 ^ 58 → x.getLsbD 53 = false → tFmt x < 9 → x.toNat % 64 = 0 → ¬shapeBad → s.bufOk s.me x = false →
          fault .range (BitVec.ofNat 64 (tBuf x))) ∧
        (x.toNat < 2 ^ 58 → x.getLsbD 53 = false → tFmt x < 9 → x.toNat % 64 = 0 → ¬shapeBad → s.bufOk s.me x = true →
          ∃ u, go = .next u ∧ w u 0 = x ||| BitVec.ofNat 64 (2 ^ 63) ∧ w u 1 = 0 ∧ w u 2 = 0 ∧ (w u 3).toNat % 2 ^ 32 = 0 ∧ cleared u ∧
            u.mem = s.mem)) ∧
      (j.op.instr = .tbindUnb c i → ∃ u, go = .next u ∧ (∀ k < 8, w u k = 0) ∧ u.mem = s.mem) ∧
      (j.op.instr = .tfetch c i a b auto →
        ((w s 0).getLsbD 63 = false → fault .tileUnbound 0) ∧
        ((w s 0).getLsbD 63 = true → (tagOf x = 6 ∨ 8 ≤ tagOf x) → fault .spaceTag x) ∧
        ((w s 0).getLsbD 63 = true → tagOf x ≠ 6 → tagOf x < 8 →
          ∃ u, go = .next u ∧ w u 1 = x ∧ w u 2 = j.op.b ∧ (w u 0).getLsbD 62 = true ∧ (w u 0).getLsbD 61 = auto ∧
            cleared u ∧ filling u ∧ u.mem = v.mem)) ∧
      (j.op.instr = .trel c i →
        ((w s 0).getLsbD 63 = false → fault .tileUnbound 0) ∧
        ((w s 0).getLsbD 63 = true → (w s 0).getLsbD 61 = false →
          ∃ u, go = .next u ∧ (w u 0).toNat / 2 ^ 58 % 4 = 0 ∧ w u 1 = w s 1 ∧ cleared u ∧ u.mem = v.mem) ∧
        ((w s 0).getLsbD 63 = true → (w s 0).getLsbD 61 = true →
          ∃ u, go = .next u ∧ filling u ∧ cleared u ∧ u.mem = v.mem ∧
            w u 1 = addOffset (w s 1) (((w s 2).extractLsb' 32 32).signExtend 64)))) ∧
    (s.core.jobs.find? (fun j => j.control && (jobTiles j.op.instr).contains n && j.fill.contains row) = some j →
      j.due ≤ s.cycle → s.bufOk s.me (w s 0) = true → ∀ ks bs v,
      s.engineKeys s.me .read 3 (addOffset (w s 1) (BitVec.ofInt 64 (row * ((w s 2).extractLsb' 0 32).toInt)))
        (tRowBytes (w s 0)) = .keys ks → s.engineFetch s.me ks = (.ok bs, v) →
      let left := j.fill.filter (· != row)
      ∃ u, exec (.fillRow i row) s = .next u ∧
        u.mem = (v.enginePut s.me 1 ((List.range (tRowBytes (w s 0))).map fun y =>
          spadKey s.me (tBuf (w s 0) + row * tPitch (w s 0) + y)) bs).mem ∧
        (left = [] → (w u 0).toNat / 2 ^ 58 % 4 = 2 ∧ (w u 3).toNat % 2 ^ 32 = ((w s 3).toNat + 1) % 2 ^ 32 ∧
          ∀ y ∈ u.core.jobs, y.id ≠ j.id) ∧
        (left ≠ [] → w u 0 = w s 0 ∧ ∃ y ∈ u.core.jobs, y.id = j.id ∧ y.fill = left))

/-- R208 to R212, R221 to R224, R234, R236 to R239: a job that may start, and whose checks pass, starts: TZERO zeroes its
rows, WLOAD fills the shadow plane, WSWAP swaps the planes, MMA and MMAS begin to step, SEED sets KEY and the counters,
SMMV writes its record, NORMK adds its norms, ALIASTAB builds its table, SMM zeroes its rows and latches KEY and VTHR; a job whose check fails ends with that fault. The Lathe passes the rows that it skips and then, in its cycle, the next live one,
up to the last, or ends with that row's fault; an SMM passes a batch, or ends at a tile that has left the scratchpad; a job
that completes leaves, and a drained tile is READY. What an SMMV record shows of SMPN and VARX that software has written, and
when a batch looks at its tiles, are the model's choices (log entries 49 and 46). -/
def Obligations.TensorJobsRun : Prop :=
  ∀ (s t : State) (j : TJob) (c : Ctl) (acc : BitVec 2) (i k : TIdx) (a b : IOp) (wf : WFmt)
    (half wsk ask sat clr : Bool) (rm : RmSel) (f : FCode) (x : Word),
    (s.core.run = .running → s.core.jobs = [j] → j.control = false → s.mayStart s.me j = true → s.core.gate = [] →
      (s.coreAt (s.gateCore s.me j)).gate = [] → (s.coreAt (s.gateCore s.me j)).frozen = false →
      let go := exec .tensorJobStart s
      let n := j.op.a.toNat / 2 ^ 32 % 128 + 1
      let row := j.op.a.toNat / 2 ^ 24 % 128
      let started := fun (u : State) (len : Nat) => go = .next u ∧
        u.core.jobs = [{ j with start := some s.cycle, due := s.cycle + len }]
      (s.jobCheck s.me j = some (f, x) → j.card = none → s.core.owns j.own = true → go = .next (s.failJob s.me j f x).countArray) ∧
      (s.jobCheck s.me j = none →
        (j.op.instr = .tzero c acc a → ∃ u, started u ((n + 3) / 4) ∧ u.mem = s.mem ∧
          ∀ r, Store.get 0 u.core.acc r = if 128 * acc.toNat + row ≤ r ∧ r < 128 * acc.toNat + row + n then 0
            else Store.get 0 s.core.acc r) ∧
        (j.op.instr = .wload c i a → ∃ u, started u 64 ∧ u.mem = s.mem ∧ u.core.active = s.core.active ∧
          (∀ r < 32, ∀ y < 64, lane (u.core.planeRow (s.core.planeOf false) r) y =
            BitVec.ofNat 32 (s.cellOf s.me (s.core.tileWord i.toNat 0) (jobArow j.op.a) (jobKcol j.op.a + y) r)) ∧
          ∀ r < 32, u.core.planeRow (s.core.planeOf true) r = s.core.planeRow (s.core.planeOf true) r) ∧
        (j.op.instr = .wswap c → ∃ u, started u 1 ∧ u.core.active = !s.core.active ∧ u.core.planes = s.core.planes) ∧
        (j.op.instr = .mma c acc i a wf half ∨ j.op.instr = .mmas c acc i a b wf half wsk ask →
          ∃ u, go = .next u ∧ u.core.jobs = [{ j with start := some s.cycle, due := 0 }] ∧ u.core.acc = s.core.acc) ∧
        (j.op.instr = .seed c a → ∃ u, started u 1 ∧ u.core.special 21 = j.op.a ∧
          u.core.scarab = { s.core.scarab with rctr := 0, sctr := 0 }) ∧
        (j.op.instr = .tdrain c i acc a rm sat clr → ∃ u, started u (n + 8) ∧
          (u.core.tileWord i.toNat 0).toNat / 2 ^ 58 % 4 = 3) ∧
        (j.op.instr = .smmv c a → ∃ u, started u 2 ∧ u.core.scarab = s.core.scarab ∧
          u.mem = (s.enginePut s.me 1 ((List.range 32).map fun y => spadKey s.me (offOf j.op.a + y))
            (([s.core.scarab.reason.toNat * 2 ^ 56 + (s.core.special 24).toNat % 2 ^ 24, (s.core.special 23).toNat % 2 ^ 32,
              s.core.scarab.sq.toNat, s.core.scarab.cnrm.toNat] : List Nat).flatMap (bytesOf 8))).mem) ∧
        (j.op.instr = .normk c i a half clr → ∀ occ, s.normk s.me i.toNat j.op.a half clr = .ok (t, occ) →
          ∃ u, started u (occ + 8) ∧ u.core.scarab = (t.coreAt s.me).scarab ∧ u.mem = s.mem) ∧
        (j.op.instr = .aliasTab c a →
          (∀ z, s.core.scarab.buildTable j.op.a.toNat = some z → ∃ u, started u (2 * j.op.a.toNat + 32) ∧
            u.core.scarab = z ∧ u.mem = s.mem) ∧
          (s.core.scarab.buildTable j.op.a.toNat = none → j.card = none → ∃ u, go = .next u ∧
            u.core.scarab = { s.core.scarab with valid := false } ∧ u.core.jobs = [])) ∧
        (j.op.instr = .smm c acc i k a b → ∃ u, go = .next u ∧ u.mem = s.mem ∧
          (∀ r, Store.get 0 u.core.acc r = if 128 * acc.toNat + row ≤ r ∧ r < 128 * acc.toNat + row + n then 0
            else Store.get 0 s.core.acc r) ∧
          u.core.scarab.key = s.core.special 21 ∧ u.core.scarab.thr = (s.core.special 22).extractLsb' 0 32 ∧
          u.core.scarab.n = 0 ∧ u.core.scarab.sq = 0))) ∧
    (s.core.jobs.find? (fun j => j.start.isSome && (mmaOf j.op.instr).isSome && decide (j.rows < jobN j.op.a)) = some j →
      s.core.run = .running →
      let go := exec .latheStep s
      let due := j.start.getD 0 + j.live
      let passed := fun (u : State) (r l : Nat) => go = .next u ∧ u.mem = s.mem ∧ u.core.jobs = s.core.jobs.map fun y =>
        if y.id = j.id then { j with rows := r, live := l } else y
      (∀ m ≤ jobN j.op.a, (∀ r, j.rows ≤ r → r < m → s.latheRow s.me j r = none) →
        (m = jobN j.op.a → ∃ u, passed u m j.live ∧ u.core.acc = s.core.acc) ∧
        (m < jobN j.op.a → s.latheRow s.me j m ≠ none → s.cycle < due → ∃ u, passed u m j.live ∧ u.core.acc = s.core.acc) ∧
        (m < jobN j.op.a → s.latheRow s.me j m = some (.ok t) → s.cycle = due → ∃ u z, passed u z (j.live + 1) ∧
          u.core.acc = (t.coreAt s.me).acc ∧ m < z ∧ z ≤ jobN j.op.a ∧ (∀ r, m < r → r < z → t.latheRow s.me j r = none) ∧
          (z < jobN j.op.a → t.latheRow s.me j z ≠ none))) ∧
      (s.latheRow s.me j j.rows = some (.error (f, x)) → due ≤ s.cycle → go = .next (s.failJob s.me j f x))) ∧
    (s.core.jobs = [j] → j.op.instr = .smm c acc i k a b → j.start.isSome = true → j.due = 0 → 0 < j.live →
      j.live ≤ s.cycle → s.core.run = .running →
      let smax := j.op.b.toNat % 2 ^ 24
      let n := s.core.scarab.n.toNat + min 16 (smax - s.core.scarab.n.toNat)
      (s.core.batchOut j [i.toNat, k.toNat] = some x → ∃ u : State, exec .smmBatch s = .next (u.failJob s.me j .range x) ∧
        u.mem = s.mem ∧ u.core.acc = s.core.acc ∧ u.core.scarab.reason = 4) ∧
      (s.core.batchOut j [i.toNat, k.toNat] = none →
        s.samples s.me j.op acc.toNat i.toNat k.toNat (n - s.core.scarab.n.toNat) = .ok t →
        ∃ u, exec .smmBatch s = .next u ∧ u.core.special 24 = BitVec.ofNat 64 n ∧ u.core.scarab.n = BitVec.ofNat 24 n ∧
          u.core.scarab.sq = (t.coreAt s.me).scarab.sq ∧
          (n = smax → u.core.scarab.reason = 1 ∨ u.core.scarab.reason = 2) ∧ u.mem = t.mem)) ∧
    (s.core.jobs.find? (fun y => y.id == j.id && y.completes s.cycle) = some j →
      ∃ u, exec (.tensorJobComplete j.id) s = .next u ∧ (∀ y ∈ u.core.jobs, y.id ≠ j.id) ∧ u.mem = s.mem ∧
        (j.op.instr = .tdrain c i acc a rm sat clr → (u.core.tileWord i.toNat 0).toNat / 2 ^ 58 % 4 = 2) ∧
        (jobPath j.op.instr ≠ some .array → u.core.tiles = s.core.tiles))

/-! ## The copy engine and job cards (R333 to R351, R386, R423) -/

/-- R336, R339, R340, R345 to R348, R351, R358, R386, R423: at issue a copy operation makes its checks in order and enters
its copy queue with its operands; its barrier's expected value goes up by one and gives the entry its stamp, unless the
barrier has no address. CPY.set sets a barrier's address and expected value. That SEND's test of its node takes in, beside
membership, a fibre to it that is enabled and up (R21), is the model's choice (log entry 52). -/
def Obligations.CopyOperationsEnter : Prop :=
  ∀ (s t : State) (c : Ctl) (i : TIdx) (d a b : IOp) (q : BitVec 2) (cb smS smD : BitVec 3),
    let x := t.src .d d
    let y := t.src .a a
    let z := t.src .b b
    let entered := fun (o : Out) (l m n : Word) (blk : List Word → Prop) => ∃ u e, o = .next u ∧
      u.core.copies = t.core.copies ++ [e] ∧ e.q = q ∧ e.cb = cb ∧ e.op.d = l ∧ e.op.a = m ∧ e.op.b = n ∧
      e.stage = .queued ∧ blk e.blk ∧ e.failed = false ∧ e.card = none ∧ e.sa = (s.core.cbOf cb.toNat).addr ∧
      (e.sa = 0 → e.v = 0 ∧ u.core.cb = s.core.cb) ∧
      (e.sa ≠ 0 → e.v = (s.core.cbOf cb.toNat).exp + 1 ∧ ∀ k, u.core.cbOf k =
        if k = cb.toNat then { addr := e.sa, exp := e.v } else s.core.cbOf k) ∧
      u.core.s = s.core.s ∧ u.core.v = s.core.v ∧ u.core.p = s.core.p ∧ u.core.spr = s.core.spr ∧
      u.core.tiles = s.core.tiles ∧ u.mem = s.mem
    let fault := fun (o : Out) (f : FCode) (w : Word) => o = .next (t.raise f w)
    let none' := fun (l : List Word) => l = []
    let okSrc := tagOf y < 8 ∧ tagOf y ≠ 6
    let okDst := tagOf z < 8 ∧ tagOf z ≠ 6 ∧ tagOf z ≠ 2
    (s.Opens c [d, a, b] [] t →
      let cpy := exec (.cpy c d a b q cb) s
      let cpyt := exec (.cpyt c d a b q cb) s
      let send := exec (.send c d a b q cb) s
      let rq := exec (.sendRq c d a b q cb) s
      let kvld := exec (.kvld c i d a b q cb) s
      let lo := x.toNat % 2 ^ 32
      let hi := x.toNat / 2 ^ 32
      let badDst := fun (o : Out) => (tagOf z = 2 → fault o .decodedViewWrite z) ∧ (tagOf z = 6 ∨ 8 ≤ tagOf z → fault o .spaceTag z)
      (2 ^ 32 ≤ x.toNat → fault cpy .reservedField 0 ∧ fault send .reservedField 0 ∧ fault rq .reservedField 0) ∧
      (x.toNat < 2 ^ 32 → ¬okSrc → fault cpy .spaceTag y ∧ fault send .spaceTag y) ∧
      (¬okSrc → fault cpyt .spaceTag y) ∧
      (x.toNat < 2 ^ 32 → okSrc → badDst cpy ∧ badDst send) ∧
      (okSrc → badDst cpyt) ∧
      (x.toNat < 2 ^ 32 → okSrc → okDst → entered cpy x y z none') ∧
      (okSrc → okDst → entered cpyt x y z none') ∧
      (x.toNat < 2 ^ 32 → okSrc → okDst → tagOf z ≠ 3 → fault send .spaceTag z) ∧
      (x.toNat < 2 ^ 32 → okSrc → tagOf z = 3 →
        (t.reachable (offOf z / 2 ^ 52) = false → fault send .remoteUnreachable z) ∧
        (t.reachable (offOf z / 2 ^ 52) = true → entered send x y z none')) ∧
      (x.toNat < 2 ^ 32 → x = 0 ∨ 2048 < x.toNat ∨ x.toNat % 8 ≠ 0 → fault rq .reservedField 0) ∧
      (0 < x.toNat → x.toNat ≤ 2048 → x.toNat % 8 = 0 →
        (¬okSrc → fault rq .spaceTag y) ∧
        (okSrc → 2 ^ 16 ≤ z.toNat ∨ z.toNat / 64 % 4 ≠ 0 → fault rq .reservedField 0) ∧
        (okSrc → z.toNat < 2 ^ 16 → z.toNat / 64 % 4 = 0 →
          (t.reachable (z.toNat / 256) = false → fault rq .remoteUnreachable z) ∧
          (t.reachable (z.toNat / 256) = true → entered rq x y z none'))) ∧
      (2 ^ 25 ≤ lo ∨ 2 ^ 25 ≤ hi ∨ 2 ^ 17 ≤ z.toNat → fault kvld .reservedField 0) ∧
      (lo < 2 ^ 25 → hi < 2 ^ 25 → z.toNat < 2 ^ 17 →
        (2 ^ 24 < lo ∨ 2 ^ 24 < hi → fault kvld .positionRange 0) ∧
        (lo ≤ 2 ^ 24 → hi ≤ 2 ^ 24 →
          (tagOf y ∉ [0, 5, 7] → fault kvld .spaceTag y) ∧
          (tagOf y ∈ [0, 5, 7] → y.toNat % 4 ≠ 0 → fault kvld .align y) ∧
          (tagOf y ∈ [0, 5, 7] → y.toNat % 4 = 0 → entered kvld x y z
            (· = [if s.core.cur.latched then s.core.cur.c else s.core.special 14]))))) ∧
    (s.Opens c [a, b] [] t →
      (y ≠ 0 → tagOf y ∉ [0, 3, 4, 5, 7] → fault (exec (.cpySet c a b q cb) s) .spaceTag y) ∧
      (y = 0 ∨ tagOf y ∈ [0, 3, 4, 5, 7] → y.toNat % 8 ≠ 0 → fault (exec (.cpySet c a b q cb) s) .align y) ∧
      (y = 0 ∨ tagOf y ∈ [0, 3, 4, 5, 7] → y.toNat % 8 = 0 → exec (.cpySet c a b q cb) s =
        .next (t.modCore fun k => { k with cb := Store.set Cb.none k.cb cb.toNat { addr := y, exp := z } }))) ∧
    (s.Opens c [a] [] t →
      (tagOf y ∉ [0, 5, 7] → fault (exec (.cpyl c a q cb) s) .spaceTag y ∧ fault (exec (.coll c a q cb) s) .spaceTag y) ∧
      (tagOf y ∈ [0, 5, 7] → y.toNat % 32 ≠ 0 → fault (exec (.cpyl c a q cb) s) .align y) ∧
      (tagOf y ∈ [0, 5, 7] → y.toNat % 64 ≠ 0 → fault (exec (.coll c a q cb) s) .align y) ∧
      (tagOf y ∈ [0, 5, 7] → y.toNat % 32 = 0 → entered (exec (.cpyl c a q cb) s) 0 y 0 none') ∧
      (tagOf y ∈ [0, 5, 7] → y.toNat % 64 = 0 → entered (exec (.coll c a q cb) s) 0 y 0 none') ∧
      (let map := fun (v : VReg) (n : Nat) =>
          if s.core.cur.latched then (List.range 8).map fun i => v.extractLsb' (64 * i) 64 else s.core.mapReg n
        let ms := map s.core.cur.va smS.toNat
        let given := map s.core.cur.vb smD.toNat
        let md := if y = 0 then given else given.set 7 y
        let reshard := exec (.reshard c smS smD a q cb) s
        let ok := mapValid t.mesh ms = true ∧ mapValid t.mesh given = true
        let odd := y.toNat % 64 ≠ 0 ∨ y.toNat / 2 ^ 52 % 256 ≠ 0
        (¬ok → fault reshard .mapInvalid 0) ∧
        (ok → y ≠ 0 → 2 ≤ tagOf y → fault reshard .spaceTag y) ∧
        (ok → y ≠ 0 → tagOf y ≤ 1 → odd → fault reshard .align y) ∧
        (ok → y = 0 ∨ (tagOf y ≤ 1 ∧ ¬odd) →
          entered reshard (BitVec.ofNat 64 (storedSize t.mesh ms)) y
            (BitVec.ofNat 64 (storedSize t.mesh md)) (fun l => ∃ k, l = ms ++ md ++ [k]))))

/-- R336, R337, R340, R341, R346, R349 to R351: the head of a copy queue starts when nothing earlier holds it, with the gate
committed (a SEND.rq commits it before its stamp), and a copy reads its source as it stands; the engine moves the head of the next queue in rotation piece by
piece, and writes a piece where the destination lies; a send to
another package is handed to its send queue; a stamp is written when its entry is over, with bit 63 added for a failed
one, and the entry leaves.
When the barrier of a failed copy goes down, and that CPYL's start releases at partition scope, are the model's readings (log
entries 50 and 51). -/
def Obligations.CopiesMoveAndStamp : Prop :=
  ∀ (s t : State) (q : BitVec 2) (e : CopyEntry) (c : Ctl) (i : TIdx) (d a b : IOp) (cb smS smD : BitVec 3) (n : Nat)
    (bs : List Byte) (ks : List Nat),
    let now := fun (u : State) (x : CopyEntry) =>
      u.core.copies = s.core.copies.map fun y => if y.id = e.id then x else y
    (s.core.copyHead q = some e → e.stage = .queued →
      (s.copyReady s.me e = false → exec (.copyEntryStart q) s = .next s) ∧
      (s.copyReady s.me e = true →
        let g := s.jobCommit s.me e.own
        let go := exec (.copyEntryStart q) s
        (e.op.instr = .coll c a q cb ∨ e.op.instr = .reshard c smS smD a q cb ∨
            (e.op.instr = .send c d a b q cb ∧ s.outbound e ≠ none) →
          ∃ u, go = .next u ∧ now u { e with stage := .active } ∧ u.mem = g.mem) ∧
        (e.op.instr = .sendRq c d a b q cb → ∃ u, go = .next u ∧ now u { e with stage := .active } ∧ u.mem = s.mem) ∧
        (e.op.instr = .cpyl c a q cb → ∃ u, go = .next u ∧ now u { e with stage := .active } ∧
          u.mem = (g.release s.me .part).mem) ∧
        (e.op.instr = .cpy c d a b q cb ∨ e.op.instr = .cpyt c d a b q cb ∨
            (e.op.instr = .send c d a b q cb ∧ s.outbound e = none) → e.card = none →
          let from_ := e.span.1
          let len := e.span.2.2
          let r := g.snapshot g.me from_ len (len / 4096 + 1) []
          (len = 0 → ∃ u, go = .next u ∧ now u { e with stage := .performed } ∧ u.mem = g.mem) ∧
          (0 < len → r.1 = none → go = .next r.2) ∧
          (∀ l, 0 < len → r.1 = some l → ∃ u, go = .next u ∧ u.mem = r.2.mem ∧
            now u { e with stage := .active, pos := 0, buf := l, share := s.share (clusterOf s.me) })) ∧
        (e.op.instr = .kvld c i d a b q cb → s.core.bound i.toNat = true →
          tRows (s.core.tileWord i.toNat 0) % 16 = 0 → tRowBytes (s.core.tileWord i.toNat 0) = s.rowB (s.me / 144) →
          s.bufOk s.me (s.core.tileWord i.toNat 0) = true →
          ∃ u, go = .next u ∧ now u { e with stage := .active } ∧ u.mem = g.mem ∧
            (u.core.tileWord i.toNat 0).toNat / 2 ^ 58 % 4 = 1))) ∧
    (s.core.copyHead q = some e → q = s.core.lastq + 1 → e.stage = .active → e.card = none → e.share ≠ 2 ^ 20 →
      e.op.instr = .cpy c d a b q cb ∨ e.op.instr = .cpyt c d a b q cb →
      let from_ := e.span.1
      let dest := e.span.2.1
      let len := e.span.2.2
      let m := min 4096 (len - e.pos)
      let r := s.modCore fun k => { k with lastq := q }
      (r.pieceBytes s.me from_ e m = (.bytes bs, t) →
        let reach := t.engineKeys s.me .write (m / 4096 + 2) (addOffset dest (BitVec.ofNat 64 e.pos)) m
        (∀ f x, reach = .fail f x → exec .copyPiece s = .next (t.failCopy s.me e f x)) ∧
        (∀ x, reach = .wait x → exec .copyPiece s = .next t) ∧
        (reach = .keys ks → ∃ u, exec .copyPiece s = .next u ∧ u.core.lastq = q ∧
          u.mem = (t.enginePut s.me 1 ks bs).mem ∧
          (e.pos + m < len → now u { e with pos := e.pos + m }) ∧
          (len ≤ e.pos + m → e.op.instr = .cpy c d a b q cb → now u { e with pos := e.pos + m, stage := .performed }))) ∧
      (e.pos + m ≤ e.buf.length → tagOf from_ ≠ 4 ∧ tagOf from_ ≠ 5 ∨ s.share (clusterOf s.me) = e.share →
        r.pieceBytes s.me from_ e m = (.bytes ((e.buf.drop e.pos).take m), r))) ∧
    (s.core.copyHead q = some e → e.stage = .active → s.outbound e = some n →
      (Store.get SendQ.none s.pkg.sendq (n / 4)).descs.length < 64 → 0 < e.op.d.toNat % 2 ^ 32 →
      s.engineBytes s.me e.op.a (e.op.d.toNat % 2 ^ 32) = (.bytes bs, t) →
      ∃ u x, exec (.sendQueueEnter q) s = .next u ∧ now u { e with stage := .handed } ∧ u.mem = t.mem ∧
        (Store.get SendQ.none u.pkg.sendq (n / 4)).descs = (Store.get SendQ.none t.pkg.sendq (n / 4)).descs ++ [x] ∧
        x.node = n ∧ x.dest = e.op.b ∧ x.bytes = bs ∧ x.core = s.me ∧ x.copyId = e.id ∧ x.coll = none) ∧
    (s.core.copies = [e] → e.stage = .performed → e.card = none →
      (e.sa = 0 → ∃ u, exec .stampWrite s = .next u ∧ u.core.copies = [] ∧ u.mem = s.mem ∧
        (s.core.owns e.own = true → u.core.db = (s.core.barDown s.cycle e.op.bar).db)) ∧
      (∀ r : State, (r = s.jobCommit s.me e.own ∧ e.op.instr = .sendRq c d a b q cb) ∨
          (r = s ∧ ∀ c d a b q cb, e.op.instr ≠ .sendRq c d a b q cb) →
        let stamp := r.writeStamp s.me e.sa (if e.failed then e.v + 2 ^ 63 else e.v)
        (e.sa ≠ 0 → stamp = .done t → (t.coreAt s.me).copies = [e] →
          ∃ u, exec .stampWrite s = .next u ∧ (u.coreAt s.me).copies = [] ∧ u.mem = t.mem) ∧
        (e.sa ≠ 0 → stamp = .wait → exec .stampWrite s = .next s)))

/-- R333 to R335: JOBQ commits the gate, reads its card, checks it and puts it in its place in the cluster's queue; a card starts on the free
engine with the lowest core number once its edges are met; after its payload and its stamp it leaves the queue. That a card
on an absent migratable page holds its JOBQ, and that a failed card's stamp shows bit 63, are the model's reading (log entry
53). -/
def Obligations.JobCards : Prop :=
  ∀ (s t v : State) (c : Ctl) (a : IOp) (l : Loc) (id e : Nat) (x : Card) (failed : Bool),
    let cards := fun (u : State) => (u.clusterAt (clusterOf s.me)).cards
    let w := fun (k : Nat) => x.words.getD k 0
    (s.Opens c [a] [] t →
      let p := t.src .a a
      (tagOf p ∉ [0, 5, 7] → exec (.jobq c a) s = .next (t.raise .spaceTag p)) ∧
      (tagOf p ∈ [0, 5, 7] → p.toNat % 64 ≠ 0 → exec (.jobq c a) s = .next (t.raise .align p)) ∧
      (tagOf p ∈ [0, 5, 7] → p.toNat % 64 = 0 →
        let g := t.commitGate t.me
        (∀ f, g.access t.me p .read 64 0 false = .fail f → exec (.jobq c a) s = .next (g.raise f p)) ∧
        (g.access t.me p .read 64 0 false = .absent → exec (.jobq c a) s =
          .next (g.hold { t.core.cur with latched := true, guard := 1, a := p, go := false })) ∧
        (g.access t.me p .read 64 0 false = .at_ l →
          let r := g.keepLeaf t.me l
          let ws := (List.range 8).map fun i => r.viewWord t.me (l.key + 8 * i)
          let odd := (ws.getD 2 0).toNat % 8 ≠ 0 ∨ ∃ i < 4, (ws.getD (4 + i) 0).toNat % 64 ≠ 0
          (cardReserved ws = true → ∃ u : State, exec (.jobq c a) s = .next (u.raise .reservedField p) ∧ cards u = cards t) ∧
          (cardReserved ws = false → odd → ∃ u : State, exec (.jobq c a) s = .next (u.raise .align p) ∧ cards u = cards t) ∧
          (cardReserved ws = false → ¬odd →
            ∃ u y, exec (.jobq c a) s = .next u ∧ cards u = insertCard y (cards t) ∧ y.words = ws ∧ y.core = s.me ∧
              y.at_ = s.cycle ∧ y.engine = none ∧ y.failed = false ∧ y.pos = 0 ∧ u.mem = r.mem ∧ u.core.gate = [] ∧
              u.core.s = s.core.s ∧ u.core.db = (t.core.barUp t.core.cur.bar).db)))) ∧
    ((cards s).find? (fun y => y.id == id) = some x → x.engine = none →
      (s.cardReady (clusterOf s.me) x = false → exec (.jobCardStart id) s = .next s) ∧
      (s.cardReady (clusterOf s.me) x = true → s.freeEngine (clusterOf s.me) x.kind = none →
        exec (.jobCardStart id) s = .next s) ∧
      (s.cardReady (clusterOf s.me) x = true → s.freeEngine (clusterOf s.me) x.kind = some e → clusterOf e = clusterOf s.me →
        let g := if x.kind = 1 ∧ x.regions true = [] ∧ w 2 = 0 then s else s.jobCommit x.core x.own
        let placed := fun (u : State) => exec (.jobCardStart id) s = .next u ∧ u.mem = g.mem ∧
          cards u = (cards s).map fun y => if y.id = id then { x with engine := some e } else y
        (x.kind = 1 → tagOf (w 1) ∈ [0, 5, 7] → (w 1).toNat % 32 = 0 → ∃ u, placed u) ∧
        (x.kind = 0 → tagOf (w 1) ∈ [0, 5, 7] → (w 1).toNat % 32 = 0 → ∃ u y, placed u ∧
          (u.coreAt e).copies = (s.coreAt e).copies ++ [y] ∧ y.op.a = w 1 ∧ y.stage = .active ∧ y.card = some id) ∧
        (x.kind = 2 → tagOf (w 1) ∈ [0, 5, 7] → (w 1).toNat % 64 = 0 → ∃ u y, placed u ∧
          (u.coreAt e).copies = (s.coreAt e).copies ++ [y] ∧ y.op.a = w 1 ∧ y.stage = .active ∧ y.card = some id))) ∧
    ((cards s).find? (fun y => y.id == id) = some x → x.engine = some e → clusterOf e = clusterOf s.me →
      (s.cardOver e x = none → exec (.jobCardComplete id) s = .next s) ∧
      (s.cardOver e x = some failed →
        (w 2 = 0 → ∃ u, exec (.jobCardComplete id) s = .next u ∧ (∀ y ∈ cards u, y.id ≠ id) ∧ u.mem = s.mem) ∧
        (w 2 ≠ 0 → s.writeStamp x.core (w 2) (if failed then w 3 + 2 ^ 63 else w 3) = .done v →
          ∃ u, exec (.jobCardComplete id) s = .next u ∧ (∀ y ∈ cards u, y.id ≠ id) ∧ u.mem = v.mem)))

/-! ## The fabric (R388 to R402, R437) -/

/-- R394 to R396, R400 to R402: SLOTSEL, PARK, WAKE and WAKE.thr need supervisor mode and set out for the fabric
controller; there SLOTSEL makes a selection pending, or faults RANGE for a time that has come, PARK and WAKE change the
enabled bands of their mask, and WAKE.thr arms the threshold. LINKST answers the link word of its fibre. In the cycle in which
the hardware switches the rotation, PV, FIRST, LAST and EPOCH are the hardware's (R6; log entry 97). -/
def Obligations.FabricInstructions : Prop :=
  ∀ (s t : State) (c : Ctl) (a b d : IOp) (m : BitVec 8) (id : Nat) (p : Pend),
    let setsOut := fun (o : Out) (x y : Word) => ∃ u q, o = .next u ∧ u.core.pend = t.core.pend ++ [q] ∧
      q.op.a = x ∧ q.op.b = y ∧ q.perf = false ∧
      u.pkg = { t.pkg with fabops := t.pkg.fabops ++ [{ node := s.node, core := s.me, pend := q.id, reach := q.due }] } ∧
      u.mem = s.mem ∧ u.core.s = s.core.s ∧ u.core.spr = s.core.spr
    ((s.guardMask c).getLsbD 0 = true → s.supNow = false →
      exec (.slotsel c a b) s = .next (s.raise .priv 0) ∧ exec (.park c m) s = .next (s.raise .priv 0) ∧
      exec (.wake c m) s = .next (s.raise .priv 0) ∧ exec (.wakeThr c m a) s = .next (s.raise .priv 0)) ∧
    (s.Opens c [a, b] [] t → s.supNow = true →
      let x := t.src .a a
      (2 ^ 14 ≤ x.toNat ∨ x.toNat / 64 % 4 ≠ 0 ∨ x.toNat / 256 % 64 < x.toNat % 64 →
        exec (.slotsel c a b) s = .next (t.raise .reservedField 0)) ∧
      (x.toNat < 2 ^ 14 → x.toNat / 64 % 4 = 0 → x.toNat % 64 ≤ x.toNat / 256 % 64 →
        setsOut (exec (.slotsel c a b) s) x (t.src .b b))) ∧
    (s.Opens c [] [] t → s.supNow = true → setsOut (exec (.park c m) s) 0 0 ∧ setsOut (exec (.wake c m) s) 0 0) ∧
    (s.Opens c [a] [] t → s.supNow = true →
      (2 ^ 32 ≤ (t.src .a a).toNat → exec (.wakeThr c m a) s = .next (t.raise .reservedField 0)) ∧
      ((t.src .a a).toNat < 2 ^ 32 → setsOut (exec (.wakeThr c m a) s) (t.src .a a) 0)) ∧
    (s.Opens c [a] [d] t →
      (32 ≤ (t.src .a a).toNat → exec (.linkst c d a) s = .next (t.raise .reservedField 0)) ∧
      ((t.src .a a).toNat < 32 → ∃ u q, exec (.linkst c d a) s = .next u ∧ u.core.pend = t.core.pend ++ [q] ∧
        q.op.a = t.src .a a ∧ q.dest = [(t.wrI d 0).1] ∧ u.pkg = t.pkg ∧ u.mem = s.mem)) ∧
    (s.core.pendOf id = some p → p.op.instr = .linkst c d a → p.due ≤ s.cycle →
      exec (.variableOpComplete id) s = .next (s.finishPend p [(s.linkWord (p.op.a.toNat % 32)).setWidth 2048])) ∧
    (s.core.pendOf id = some p → ∀ r, r ≤ s.cycle → s.pkg.fabops = [{ node := s.node, core := s.me, pend := id, reach := r }] →
      let go := exec .fabricOpApply s
      let gone := fun (u : State) => u.pkg.fabops = [] ∧ ∀ y ∈ u.core.pend, y.id ≠ p.id
      let switching := s.pkg.switched = some s.cycle ∨
        (s.timeBase.isSome = true ∧ s.pkg.slotcfg.getLsbD 63 = true ∧ s.pkg.pepoch.toNat ≤ s.tb)
      (p.op.instr = .slotsel c a b → s.tb < p.op.b.toNat → switching → ∃ u, go = .next u ∧ gone u ∧
        u.pkg.pepoch = p.op.b ∧ u.pkg.slotcfg.getLsbD 63 = false ∧ u.pkg.epoch = s.switchRotation.pkg.epoch ∧
        u.pkg.slotcfg &&& 0x3F3F = s.switchRotation.pkg.slotcfg &&& 0x3F3F) ∧
      (p.op.instr = .slotsel c a b → s.tb < p.op.b.toNat → ¬switching → ∃ u, go = .next u ∧ gone u ∧ u.pkg.pepoch = p.op.b ∧
        u.pkg.slotcfg.getLsbD 63 = true ∧ u.pkg.slotcfg.toNat / 2 ^ 16 % 2 ^ 14 = p.op.a.toNat % 2 ^ 14 &&& 0x3F3F ∧
        u.pkg.slotcfg &&& 0x3F3F = s.pkg.slotcfg &&& 0x3F3F) ∧
      (p.op.instr = .slotsel c a b → p.op.b.toNat ≤ s.tb →
        go = .next ((s.modPkg fun g => { g with fabops := [] }).faultPend p .range p.op.b)) ∧
      (p.op.instr = .wakeThr c m a → ∃ u, go = .next u ∧ gone u ∧ u.pkg.armed = m ∧
        u.pkg.thr.toNat = p.op.a.toNat % 2 ^ 32) ∧
      (p.op.instr = .wake c m → ∃ u, go = .next u ∧ gone u ∧ ∀ k < 8, u.band k =
        if m.getLsbD k = true ∧ s.bandOk k = true ∧ s.band k = .parked then .waking s.cycle else s.band k) ∧
      (p.op.instr = .park c m → ∃ u, go = .next u ∧ gone u ∧ ∀ k < 8,
        let parkd := if s.pkg.armed.getLsbD k = true ∧ s.overThreshold = true then Band.waking s.cycle else .parked
        u.band k = if m.getLsbD k = true ∧ s.bandOk k = true then
            match s.band k with
            | .on => if s.bandBusy k then .parking else parkd
            | .waking _ => parkd
            | .parking => .parking
            | .parked => .parked
          else s.band k))

/-- R388 to R395, R397, R437: what the fabric does by itself. A packet sets out in its slot after the guard with the next
sequence number and the next IV, enciphered and on the channel of its target, goes again when it is overdue, and ends with its
acknowledgement; one that arrives unauthentic takes its fibres down, one that a port of it does not take is discarded, any
other is acknowledged; bands park, wake in 2520 cycles, which are 2400 ns, and wake when the threshold is
passed; a rotation entry begins when the one before is over, and a pending selection at its time.
When packets of a package enter, and that a resend goes whole, is the model's reading (log entry 65), and so is the form of
what is enciphered (log entry 95). -/
def Obligations.FabricEvents : Prop :=
  ∀ (s : State) (dest : BitVec 6) (d : Desc) (ds : List Desc) (z quota w seq : Nat) (f : Flight) (node : BitVec 8)
    (p : Packet) (band : BitVec 3) (fibre : BitVec 5) (k at_ : Nat) (w0 w1 : Word),
    let wire := fun (src to_ : Nat) (ctr : Word) (seq : Nat) (d : Word) (rq : Bool) (bs : List Byte) =>
      Config.aesGcm s.packetKey (BitVec.ofNat 32 (src * 64 + to_) ++ ctr) (Config.packetHeader seq d rq) bs
    let q := Store.get SendQ.none s.pkg.sendq dest.toNat
    let port := fun (u : State) (i : Nat) => Store.get 0 u.pkg.fab i
    (s.sendWindow dest.toNat = some (z, quota, w) →
      (q.descs = d :: ds → s.overdue dest.toNat = none →
        let n := nextPayload s.tb z quota w d.bytes.length
        (n = 0 → exec (.packetStart dest) s =
          .next (s.modPkg fun g => { g with sendq := Store.set SendQ.none g.sendq dest.toNat { q with
            sent := if q.slotAt = s.slotStart then q.sent else 0, shut := true, slotAt := s.slotStart } })) ∧
        (n ≠ 0 → q.iv = ones → exec (.packetStart dest) s = .next (s.bareFault .integrity)) ∧
        (n ≠ 0 → q.iv ≠ ones → ∃ u x, exec (.packetStart dest) s = .next u ∧
          let r := Store.get SendQ.none u.pkg.sendq dest.toNat
          r.flight = q.flight ++ [x] ∧ x.seq = q.seq ∧ x.desc = { d with bytes := d.bytes.take n } ∧
          x.iv = BitVec.ofNat 32 (s.pkgIndex * 64 + dest.toNat) ++ q.iv ∧
          x.wire = wire s.pkgIndex dest.toNat q.iv q.seq d.dest d.rq (d.bytes.take n) ∧
          (s.pkgIndex + x.chan.toNat) % 64 = dest.toNat ∧ (∀ i ∈ s.fibresTo dest.toNat, port u (6 * i) = port s (6 * i) + 1) ∧
          x.start = s.tb ∧ x.stop = s.tb + wireTime ((n + 63) / 64) w ∧ r.iv = q.iv + 1 ∧ r.seq = q.seq + 1 ∧
          r.busy = x.stop ∧ (d.bytes.length ≤ n → r.descs = ds) ∧
          (n < d.bytes.length → r.descs.map (·.bytes) = d.bytes.drop n :: ds.map (·.bytes)) ∧ u.mem = s.mem)) ∧
      (s.overdue dest.toNat = some f → f.desc.bytes.length ≤ quota →
        s.tb + wireTime ((f.desc.bytes.length + 63) / 64) w ≤ z → q.iv ≠ ones →
        ∃ u, exec (.packetResend dest) s = .next u ∧
          (Store.get SendQ.none u.pkg.sendq dest.toNat).iv = q.iv + 1 ∧
          (Store.get SendQ.none u.pkg.sendq dest.toNat).flight.map (fun x => (x.seq, x.desc.bytes)) =
            q.flight.map (fun x => (x.seq, if x.seq = f.seq then f.desc.bytes else x.desc.bytes)) ∧
          ∀ i ∈ s.fibresTo dest.toNat, port u (6 * i + 2) = port s (6 * i + 2) + 1)) ∧
    (q.flight.find? (fun x => x.seq == seq) = some f → f.stop ≤ s.tb → f.desc.rq = true → f.desc.coll = none →
      ∃ u, exec (.packetAck dest seq) s = .next u ∧ u.mem = s.mem ∧
        (Store.get SendQ.none u.pkg.sendq dest.toNat).flight = q.flight.filter fun x => x.seq != seq) ∧
    (q.flight.find? (fun x => x.seq == seq) = some f → f.stop ≤ s.tb → f.desc.rq = false → f.desc.coll = none →
      let reach := s.engineKeys f.desc.core .write 2 f.desc.dest f.desc.bytes.length
      ((∃ x, reach = .wait x) → exec (.packetAck dest seq) s = .next s) ∧
      (∀ ks, reach = .keys ks → ∃ u, exec (.packetAck dest seq) s = .next u ∧
        u.mem = (s.enginePut f.desc.core 1 ks f.desc.bytes).mem ∧
        (Store.get SendQ.none u.pkg.sendq dest.toNat).flight = q.flight.filter fun x => x.seq != seq)) ∧
    (s.pkg.waiting = [] →
      let genuine := p.wire = wire p.src.toNat s.pkgIndex p.ctr p.seq p.dest p.rq p.bytes
      let go := exec (.packetReceive node p) s
      let v := s.countFec p
      let shut := (packetPorts p).filter fun x => !s.portTakes p.chan x
      let got := Store.get 0 s.pkg.gotSeq p.src.toNat
      let taken := fun (u : State) => go = .next u ∧ u.pkg.waiting = [] ∧ Store.get 0 u.pkg.gotSeq p.src.toNat = p.seq + 1 ∧
        Store.get 0 u.pkg.acks p.src.toNat = p.seq + 1 ∧ ∀ i ∈ fibresOf p.fibres, port u (6 * i + 1) = port s (6 * i + 1) + 1
      ((p.src.toNat + p.chan.toNat) % 64 ≠ s.pkgIndex ∨ s.ownNode node.toNat = false ∨
          (∃ i < 8, p.bands.getLsbD i = true ∧ s.fuses.bands.getLsbD i = false) ∨
          (∃ i < 32, p.fibres.getLsbD i = true ∧ (s.fuses.fibres.getLsbD i && s.pkg.up.getLsbD i) = false) → go = .next s) ∧
      (∀ i < 32, port v (6 * i + 5) =
        port s (6 * i + 5) + BitVec.ofNat 64 ((p.fec.filter fun x => x.1.toNat == i).map (·.2)).sum) ∧
      (s.ownNode node.toNat = true → s.arrives p = true →
        (¬genuine → go = .next (v.failPorts (fibresOf p.fibres))) ∧
        (genuine → shut ≠ [] → go = .next ((v.keepChannel p).countPorts (shut.map (· / 8)).dedup 3)) ∧
        (genuine → shut = [] → p.seq < got → ∃ u, go = .next u ∧ u.mem = s.mem ∧ u.pkg.gotSeq = s.pkg.gotSeq ∧
          Store.get 0 u.pkg.acks p.src.toNat = p.seq + 1) ∧
        (genuine → shut = [] → p.seq = got → p.rq = false → ∀ ks,
          s.engineKeys (node.toNat % 4 * 144) .write 2 (BitVec.ofNat 64 (p.dest.toNat % 2 ^ 52)) p.bytes.length = .keys ks →
          ∃ u, taken u ∧ u.mem = ((keyRuns (ks.zip p.bytes)).foldl (fun (t : State) x => t.perform none 1 x.1 x.2) s).mem) ∧
        (genuine → shut = [] → p.seq = got → p.rq = true →
          let place := node.toNat % 4 * 64 + p.dest.toNat % 64
          let old := Store.get [] s.pkg.recvq place
          old.length + p.bytes.length / 8 ≤ 256 →
          ∃ u, taken u ∧ (Store.get [] u.pkg.recvq place).map (·.val) = old.map (·.val) ++
            (List.range (p.bytes.length / 8)).map fun i => BitVec.ofNat 64 (natOf ((p.bytes.drop (8 * i)).take 8))))) ∧
    (s.pkg.grid = none → s.fuses.fibres.getLsbD fibre.toNat = true → s.pkg.up.getLsbD fibre.toNat = true →
      ∃ u, exec (.integrityFailure fibre) s = .next u ∧ u.pkg.up.getLsbD fibre.toNat = false ∧
        (∀ i < 32, i ≠ fibre.toNat → u.pkg.up.getLsbD i = s.pkg.up.getLsbD i) ∧
        port u (6 * fibre.toNat + 4) = port s (6 * fibre.toNat + 4) + 1) ∧
    (∃ u, exec (.linkLayerNotice dest fibre) s = .next u ∧ (dest.toNat, fibre.toNat) ∈ u.pkg.avoid ∧
      (∀ x ∈ s.pkg.avoid, x ∈ u.pkg.avoid) ∧ u.mem = s.mem) ∧
    (s.band band.toNat = .parking → s.bandBusy band.toNat = false →
      ∃ u, exec (.bandParked band) s = .next u ∧ ∀ i, u.band i = if i ≠ band.toNat then s.band i
        else if s.pkg.armed.getLsbD band.toNat = true ∧ s.overThreshold = true then .waking s.cycle else .parked) ∧
    (s.band band.toNat = .waking k →
      (s.cycle < k + 2520 → exec (.bandWakeComplete band) s = .next s) ∧
      (k + 2520 ≤ s.cycle → ∃ u, exec (.bandWakeComplete band) s = .next u ∧
        ∀ i, u.band i = if i = band.toNat then .on else s.band i)) ∧
    (s.pkg.armed ≠ 0 → s.overThreshold = true → ∃ u, exec .thresholdFire s = .next u ∧ ∀ i < 8, u.band i =
      if s.pkg.armed.getLsbD i = true ∧ s.bandOk i = true ∧ s.band i = .parked then .waking s.cycle else s.band i) ∧
    (s.timeBase.isSome = true → s.slotOver = true → s.pkg.epoch.toNat ≤ s.tb → s.period ≠ 0 →
      findEntry s.rotation 0 ((s.tb - s.pkg.epoch.toNat) % s.period) = some (k, w0, w1, at_) →
      ∃ u, exec .slotStart s = .next u ∧ u.pkg.accept = [] ∧
        u.pkg.slot = some (k, s.tb - ((s.tb - s.pkg.epoch.toNat) % s.period - at_), w0, w1)) ∧
    (s.timeBase.isSome = true → s.pkg.slotcfg.getLsbD 63 = true → s.pkg.pepoch.toNat ≤ s.tb →
      ∃ u, exec .rotationSwitch s = .next u ∧ u.pkg.epoch = s.pkg.pepoch ∧ u.pkg.slot = none ∧ u.pkg.switched = some s.cycle ∧
        u.pkg.slotcfg.getLsbD 63 = false ∧ cfgFirst u.pkg.slotcfg = s.pkg.slotcfg.toNat / 2 ^ 16 % 64 ∧
        cfgLast u.pkg.slotcfg = s.pkg.slotcfg.toNat / 2 ^ 24 % 64)

/-! ## Collectives and resharding (R352 to R360, R380 to R387) -/

/-- R353 to R360: the walker takes a COLL whose record and plan are allowed, with its error words, and ends one that is not
with RESERVED_FIELD; from START on, a transfer whose source is ready is emitted: a copy to a node of the package is
written there, a contribution of the own node arrives, what goes to another package enters its send queue, one larger
than a slot ends the collective; a transfer is applied once everything directed at the node has arrived, a reduce transfer
by combining; a receiver's notice frees a slot; after the last transfer the status word is written and the copy entry is
over, or waits for its page; a package that leaves is no member any more.
Which records are refused beyond R353's list, how calls are matched and when the feedback buffer is read are the model's readings
(log entries 56 to 59). -/
def Obligations.CollectivesWalk : Prop :=
  ∀ (s u v o : State) (die : BitVec 2) (e id t : Nat) (x : CopyEntry) (c : Coll) (bs ps w : List Byte) (p : Word)
    (ks efb : List Nat) (m : Store (BitVec 32)) (node : BitVec 8) (pkg : BitVec 6) (f : FCode)
    (outside : List (BitVec 8 × List Byte)),
    let d := die.toNat
    let own := s.nodeOf d
    let isColl := fun (i : Instr) => match i with
      | .coll .. => true
      | _ => false
    ((s.dieAt d).colls.length < 8 → s.takable d isColl = [(e, x)] →
      let l := s.draw.2.localCore e x.card
      let r := wordsOf 16 bs
      let go := exec (.collWalkerTake die) s
      (s.draw.2.engineBytes l x.op.a 128 = (.fail f p, u) → go = .next (u.failCopy e x f p)) ∧
      (s.draw.2.engineBytes l x.op.a 128 = (.bytes bs, u) →
        (collBad u.mesh r = true → go = .next (u.failCopy e x .reservedField x.op.a)) ∧
        (collBad u.mesh r = false → x.card = none → u.edgesMet e x.id (collReach r false) (collReach r true) = false → go = .next u) ∧
        (collBad u.mesh r = false → x.card ≠ none ∨ u.edgesMet e x.id (collReach r false) (collReach r true) = true →
          u.engineBytes l (r.getD 3 0) 64 = (.bytes ps, v) →
          (planBad (wordsOf 8 ps) = true → go = .next (v.takeFails d e x r .reservedField x.op.a)) ∧
          (planBad (wordsOf 8 ps) = false →
            (v.readEfb l r (efbTransfers r) [] = (.fail f p, m, o) → go = .next (o.takeFails d e x r f p)) ∧
            (v.readEfb l r (efbTransfers r) [] = (.bytes [], m, o) →
              ∃ y z, go = .next y ∧ (y.dieAt d).colls = (o.dieAt d).colls ++ [z] ∧ z.rec_ = r ∧
                z.plan = wordsOf 8 ps ∧ z.efb = m ∧ z.core = e ∧ z.copyId = x.id ∧ z.emitted = 0 ∧ z.unacked = [] ∧
                z.applied = [] ∧ z.ended = none ∧ y.mem = o.mem ∧
                (y.coreAt e).copies = (o.coreAt e).copies.map
                  (fun b => if b.id = x.id then { x with stage := .handed } else b)))))) ∧
    (s.collOf d id = some c → c.ended = none →
      let tn := targetOf s.mesh c.rec_ own c.emitted
      let red := cGovern c.rec_ ≠ 0
      let emits := exec (.collTransferEmit die id) s
      let full := red ∧ tn ≠ own ∧ (c.plan.getD 1 0).toNat / 2 ^ 16 % 2 ^ 16 ≤ (c.unacked.filter fun u => u.2 == tn).length
      (cTotal c.rec_ ≤ c.emitted ∨ full ∨ (s.timeBase).getD 0 < (c.rec_.getD 15 0).toNat → emits = .next s) ∧
      (c.emitted < cTotal c.rec_ → (c.rec_.getD 15 0).toNat ≤ (s.timeBase).getD 0 → s.sourceReady d c c.emitted = true → ¬full →
        (s.reachable tn = false → emits = .next (s.failColl d c 2 0 .remoteUnreachable (s.collRecord c))) ∧
        (s.reachable tn = true →
          (s.buildTransfer c c.emitted = (.fail f p, u) → emits = .next (u.failColl d c 2 0 f p)) ∧
          (s.buildTransfer c c.emitted = (.wire w efb, u) →
            (slotBytes c < w.length → emits = .next (u.failColl d c 2 0 .reservedField (s.collRecord c))) ∧
            (w.length ≤ slotBytes c →
              emits = .next (u.emit d c c.emitted tn w efb) ∧
              (efb = [] → u.ownNode tn = true → ¬red →
                u.memberKeys (u.collCore c) tn (dstOf c.rec_ c.emitted) (copyResult c.rec_ w).length = .keys ks →
                ∃ y, emits = .next y ∧ y.mem = (u.enginePut (u.collCore c) 1 ks (copyResult c.rec_ w)).mem ∧
                  (∃ a ∈ (y.dieAt (tn % 4)).inbox, a.rec_ = c.rec_ ∧ a.num = c.num ∧ a.t = c.emitted ∧ a.src = u.nodeOf d)) ∧
              (efb = [] → u.ownNode tn = true → red → tn = u.nodeOf d →
                ∃ y, emits = .next y ∧ y.mem = u.mem ∧
                  ∃ a ∈ (y.dieAt d).inbox, a.rec_ = c.rec_ ∧ a.num = c.num ∧ a.t = c.emitted ∧ a.src = tn ∧
                    a.bytes = (received c.rec_ w).flatMap (bytesOf 8)) ∧
              (efb = [] → u.ownNode tn = false → (Store.get SendQ.none u.pkg.sendq (tn / 4)).descs.length < 64 →
                ∃ y z, emits = .next y ∧ y.mem = u.mem ∧ (Store.get SendQ.none y.pkg.sendq (tn / 4)).descs =
                    (Store.get SendQ.none u.pkg.sendq (tn / 4)).descs ++ [z] ∧ z.node = tn ∧ z.bytes = w ∧
                  z.coll = some (d, c.id, c.emitted)))))) ∧
      (t ∉ c.applied → t < cTotal c.rec_ → sourcesOf s.mesh c.rec_ own t ≠ [] →
        let g := outside.foldl (fun (y : State) o => y.takeOutside d c t o) s
        let go := exec (.collTransferApply die id t outside) s
        let arrived := (sourcesOf s.mesh c.rec_ own t).filterMap fun n =>
          (g.dieAt d).inbox.find? fun a => a.rec_ == c.rec_ && a.num == c.num && a.t == t && a.src == n
        g.collOf d id ≠ none →
        (arrived.length < (sourcesOf s.mesh c.rec_ own t).length → go = .next g) ∧
        (arrived.length = (sourcesOf s.mesh c.rec_ own t).length → cGovern c.rec_ = 0 → go = .next (g.markApplied d c t)) ∧
        (arrived.length = (sourcesOf s.mesh c.rec_ own t).length → cGovern c.rec_ ≠ 0 →
          g.engineBytes (g.collCore c) (dstOf c.rec_ t) (cCount c.rec_ * cSize c.rec_) = (.bytes bs, v) →
          v.memberKeys (g.collCore c) (v.nodeOf d) (dstOf c.rec_ t) bs.length = .keys ks →
          ∃ y, go = .next y ∧
            y.mem = (v.enginePut (g.collCore c) 1 ks (reducedBlock c.rec_ bs arrived)).mem)) ∧
      (collBlock s.mesh own c < cTotal c.rec_ → exec (.collComplete die id) s = .next s) ∧
      (cTotal c.rec_ ≤ collBlock s.mesh own c →
        (s.writeCollStatus d c 0 0 = none →
          exec (.collComplete die id) s = .next (s.setColl d { c with ended := some (0, 0, none) })) ∧
        (s.writeCollStatus d c 0 0 = some (none, v) →
          ∃ y, exec (.collComplete die id) s = .next y ∧ y.collOf d id = none ∧ y.mem = v.mem ∧
            ∀ z, (v.coreAt c.core).copies = [z] → z.id = c.copyId →
              (y.coreAt c.core).copies = [{ z with stage := .performed }]))) ∧
    (s.collOf d id = some c → s.ownNode node.toNat = false → cGovern c.rec_ ≠ 0 → ∀ a l, c.unacked = (a, node.toNat) :: l →
      ∃ y, exec (.slotFreeNotice die id node) s = .next y ∧ y.collOf d id = some { c with unacked := l } ∧ y.mem = s.mem) ∧
    (s.collOf d id = some c → ∀ k n g, c.ended = some (k, n, g) →
      exec (.collComplete die id) s = .next (s.closeColl d c k n g)) ∧
    ((∀ m ∈ s.others, m.pkg ≠ pkg) → exec (.memberLostNotice pkg) s = .next s) ∧
    (∃ y, exec (.memberLostNotice pkg) s = .next y ∧ ∀ m ∈ y.others, m.pkg ≠ pkg)

/-- R380 to R382, R386: the Jig refuses maps that differ, else takes the RESHARD with its plan and announces it to every die
of the package; an announcement of another member is counted; a piece of at most 64 KiB is written once all of it is
known; with every piece written, every receiver announced and every byte acknowledged the RESHARD is over.
Which of several holders supplies an element is the model's reading (log entry 61). -/
def Obligations.ReshardsRun : Prop :=
  ∀ (s u : State) (die : BitVec 2) (e id piece : Nat) (x : CopyEntry) (r : Resh) (bs : List Byte) (ps : List PlanStep)
    (plans : List Plan) (hit : Bool) (node : BitVec 8) (key : List Word) (base : Word) (ks : List Nat)
    (outside : List (Nat × Nat × Nat)),
    let d := die.toNat
    let isReshard := fun (i : Instr) => match i with
      | .reshard .. => true
      | _ => false
    let src := x.blk.take 8
    let dst := (x.blk.drop 8).take 8
    ((s.dieAt d).reshards.length < 4 → s.takable d isReshard = [(e, x)] →
      (mapsDiffer src dst = true ∨ (region (mBase src) x.op.d.toNat).meets (region (mBase dst) x.op.b.toNat) = true →
        exec (.jigTake die) s = .next (s.draw.2.failCopy e x .reshardUnplannable 0)) ∧
      (mapsDiffer src dst = false → (region (mBase src) x.op.d.toNat).meets (region (mBase dst) x.op.b.toNat) = false →
        (planFor s.mesh (s.dieAt d).plans src dst = none →
          exec (.jigTake die) s = .next (s.draw.2.failCopy e x .reshardUnplannable 0)) ∧
        (planFor s.mesh (s.dieAt d).plans src dst = some (ps, plans, hit) →
          s.draw.2.engineBytes e (mBase src) x.op.d.toNat = (.bytes bs, u) →
          ∃ y z, exec (.jigTake die) s = .next y ∧ (y.dieAt d).reshards = (u.dieAt d).reshards ++ [z] ∧ z.src = src ∧
            z.dst = dst ∧ z.steps = ps ∧ z.core = e ∧ z.copyId = x.id ∧ z.pieces = [] ∧ (y.dieAt d).plans = plans ∧
            (hit = true → z.due = u.cycle + 16) ∧ u.cycle + 16 ≤ z.due ∧ z.due ≤ u.cycle + 4096 ∧
            (∀ k < 4, (u.nodeOf d, z.key, z.num) ∈ (y.dieAt k).announced) ∧ y.mem = u.mem))) ∧
    (s.ownNode node.toNat = false → s.member node.toNat = true →
      ∃ y, exec (.reshardAnnounce node key base) s = .next y ∧ y.mem = s.mem ∧ ∀ k < 4, (y.dieAt k).announced =
        (node.toNat, key ++ [base],
          ((s.dieAt k).announced.filter fun a => a.1 == node.toNat && a.2.1 == key ++ [base]).length)
            :: (s.dieAt k).announced) ∧
    (s.reshOf d id = some r →
      (r.due ≤ s.cycle → piece ∈ s.inFlight r →
        let n := min 65536 (storedSize s.mesh r.dst - 65536 * piece)
        ((List.range n).mapM fun i => s.destByte d (s.withOutside r outside) (65536 * piece + i)) = some bs →
        s.engineKeys r.core .write (n / 4096 + 2) (addOffset (mBase r.dst) (BitVec.ofNat 64 (65536 * piece))) n = .keys ks →
        ∃ y, exec (.reshardPieceWrite die id piece outside) s = .next y ∧ y.mem = (s.enginePut r.core 1 ks bs).mem ∧
          ∀ z ∈ (y.dieAt d).reshards, z.id = id → piece ∈ z.pieces) ∧
      (let dests := receivers s.mesh r (s.nodeOf d)
        let go := exec (.reshardComplete die id) s
        (r.pieces.length < s.pieceCount r ∨
          (∃ n ∈ dests, s.announcedBy d n r = false ∨ s.holdsUp r n = true) → go = .next s) ∧
        (s.pieceCount r ≤ r.pieces.length →
          (∀ n ∈ dests, s.announcedBy d n r = true ∧ s.holdsUp r n = false) →
          ((∃ n ∈ dests, s.ownNode n = false) → s.draw.1 % 2 = 1 → go = .next s.draw.2) ∧
          ((∀ n ∈ dests, s.ownNode n = true) ∨ s.draw.1 % 2 = 0 →
            ∃ y, go = .next y ∧ y.reshOf d id = none ∧ y.mem = s.mem))))

/-! ## Launch, dispatch, power (R32, R35, R39 to R50, R99, R133, R136, R436, R439, R450) -/

/-- R35, R39 to R48, R99, R133, R136: the start vector at the head of the launch queue is refused, or starts a grid; an
idle core takes a root or a ready record and starts it with the registers of R35; a ready record gains a priority level
every 65,536 cycles; a grid that has ended leaves, and the launch queue advances; the watchdog and a bundle boundary
resolve their faults; an abort notice ends the grid. Where R99 and R32 leave a point open, log entry 43 names the choice; that the watchdog counts on
while a core drains or is frozen, and waits then, is log entry 82's. -/
def Obligations.LaunchesDispatchAndEnd : Prop :=
  ∀ (s : State) (v : StartVector) (vs : List StartVector) (g : Grid) (r : Nat) (x fa : Word) (fc : FCode) (l : Loc)
    (n : PoolNode) (i : Nat) (f : FaultNotice),
    (s.pkg.launchq = v :: vs → s.pkg.grid = none → s.pkg.booted = true → s.pkg.shutdown = false →
      let count := v.w1.toNat % 2 ^ 32
      let refused := ∃ u, exec .launchEvaluate s = .next u ∧ u.pkg.launchq = vs ∧ u.pkg.grid = none ∧ u.cores = s.cores
      (vecReserved v = true → refused) ∧ (2 ^ 20 < count → refused) ∧ (count = 0 → refused) ∧
      (4096 < (count + s.coresAll - 1) / s.coresAll → refused) ∧
      (vecReserved v = false → count ≤ 2 ^ 20 → count ≠ 0 → (count + s.coresAll - 1) / s.coresAll ≤ 4096 →
        ∃ u h, exec .launchEvaluate s = .next u ∧ u.pkg.grid = some h ∧ h.vec = v ∧ h.started = s.cycle ∧ h.dealt = [] ∧
          h.fault = none ∧ u.pkg.launchq = v :: vs ∧ u.pkg.recvq = [] ∧ u.mem = s.mem ∧ u.cores = s.cores)) ∧
    (s.pkg.grid = some g → g.fault = none → (∃ c, s.core.run = .idle c) → s.enabled s.me = true →
      (s.core.jobs.any (·.card.isSome)) = false → s.lent s.me = false →
      let reg := fun (u : State) (k : Nat) => Store.get 0 u.core.s k
      let runs := fun (u : State) (pc : Word) => u.core.run = .running ∧ u.core.pc = pc ∧ u.core.v = [] ∧ u.core.p = [] ∧
        (∀ k, 4 ≤ k → reg u k = 0) ∧ u.core.nextIssue = s.cycle + 1 ∧ u.core.tiles = [] ∧ u.core.gate = [] ∧
        u.core.special 31 = 0 ∧ u.core.special 14 = 0 ∧ u.core.special 11 = s.core.special 11 ∧
        u.core.special 20 = s.core.special 20 ∧ u.core.special 26 = s.core.special 26
      ((s.clusterAt (clusterOf s.me)).best = none → s.nextRoot g s.me = none → exec .dispatch s = .next s) ∧
      let faults := fun (u : State) (c : FCode) (a : Word) => exec .dispatch s =
        .next (u.resolveAll s.me [{ code := c, addr := a, slot := 9, bundle := u.core.pc, hard := true }])
      let recordFirst := fun (m : PoolNode) => s.rootPrio g < m.list ∨ s.rootPrio g = m.list ∧ m.enq ≤ g.started
      ((∀ y, (s.clusterAt (clusterOf s.me)).best = some y → ¬ recordFirst y.2) → s.nextRoot g s.me = some r →
        let va := (g.vec.w0 &&& ~~~(0xFFF : Word)) + BitVec.ofNat 64 (64 + 8 * s.me)
        (s.startEntry va = .error (.wait fa) → exec .dispatch s = .next s) ∧
        (s.startEntry va = .error (.fail fc fa) → ∃ u, runs u 0 ∧ u.mem = s.mem ∧ faults u fc fa) ∧
        (s.startEntry va = .ok x → x.toNat % 8 ≠ 0 → ∃ u, runs u x ∧ u.mem = s.mem ∧ faults u .reservedField va) ∧
        (s.startEntry va = .ok x → x.toNat % 8 = 0 → tagOf x ≠ 0 → ∃ u, runs u x ∧ u.mem = s.mem ∧ faults u .spaceTag x) ∧
        (s.startEntry va = .ok x → x.toNat % 8 = 0 → tagOf x = 0 →
        let index := s.coreIndex s.me + s.coresAll * r
        ∃ u, exec .dispatch s = .next u ∧ runs u x ∧ reg u 0 = g.vec.w2 ∧
          reg u 1 = BitVec.ofNat 64 (g.vec.w1.toNat % 2 ^ 32) ∧ reg u 2 = 0 ∧ reg u 3 = 0 ∧
          u.core.special 2 = BitVec.ofNat 64 r ∧ u.core.special 4 = 0 ∧
          u.core.special 27 = (g.vec.w3 &&& ~~~(0x3F : Word)) + BitVec.ofNat 64 (64 * index) ∧
          (u.core.special 1).toNat % 2 ^ 20 = index % 2 ^ 20 ∧ (u.core.special 30).toNat = g.vec.w6.toNat / 2 ^ 8 % 4 ∧
          u.core.info.argp = g.vec.w2 ∧ u.core.info.saved = false ∧ u.mem = s.mem ∧
          u.pkg.grid = some { g with dealt := Store.set 0 g.dealt s.me (r + 1) })) ∧
      ((s.clusterAt (clusterOf s.me)).best = some (i, n) → s.nextRoot g s.me = none ∨ recordFirst n →
        let w := fun (k : Nat) => s.wordAt (l.key + 8 * k)
        let bad := recordFault ((List.range 8).map w) (BitVec.ofNat 64 n.rec_)
        (s.translate none s.node 0 n.rec_ .read = .absent → exec .dispatch s = .next s) ∧
        (s.translate none s.node 0 n.rec_ .read = .fail fc →
          ∃ u, runs u 0 ∧ u.mem = s.mem ∧ faults u fc (BitVec.ofNat 64 n.rec_)) ∧
        (s.translate none s.node 0 n.rec_ .read = .at_ l → bad = some (fc, fa) →
          ∃ u, runs u (w 0 &&& ~~~7#64) ∧ u.mem = s.mem ∧ faults u fc fa) ∧
        (s.translate none s.node 0 n.rec_ .read = .at_ l → bad = none →
        ∃ u, exec .dispatch s = .next u ∧ runs u (w 0 &&& ~~~7#64) ∧ (∀ k < 4, reg u k = w (4 + k)) ∧
          ((s.clusterAt (clusterOf s.me)).ready = [] → Store.get none (u.clusterAt (clusterOf s.me)).pool i = none) ∧
          u.core.special 27 = BitVec.ofNat 64 n.rec_ ∧ (u.core.special 2).toNat = (w 1).toNat / 2 ^ 41 % 2 ^ 12 ∧ (u.core.special 1).toNat % 2 ^ 20 = (w 1).toNat / 2 ^ 20 % 2 ^ 20 ∧
          (u.core.special 4).toNat = (w 1).toNat / 2 ^ 53 % 16 ∧ (u.core.special 30).toNat = (w 1).toNat / 2 ^ 18 % 4 ∧
          u.core.info.argp = w 3 ∧ u.core.info.saved = true ∧ u.mem = s.mem))) ∧
    (∃ u, exec .priorityRaise s = .next u ∧ u.mem = s.mem ∧ u.cores = s.cores ∧
      ∀ k j m, Store.get none (s.clusterAt k).pool j = some m → Store.get none (u.clusterAt k).pool j = some
        (if m.waiting = false ∧ m.list < 7 ∧ m.since + 65536 ≤ s.cycle then
          { m with list := m.list + 1, since := m.since + 65536 } else m)) ∧
    (s.pkg.grid = some g →
      (g.fault = none → g.live ≠ 0 → exec .gridEnd s = .next s) ∧
      (s.gridQuiet = false → exec .gridEnd s = .next s) ∧
      (g.fault.isSome = true ∨ g.live = 0 → s.gridQuiet = true → ∃ u, exec .gridEnd s = .next u ∧ u.pkg.grid = none ∧
        u.pkg.launchq = s.pkg.launchq.tail ∧ u.pkg.recvq = [] ∧
        ∀ k, (u.clusterAt k).pool = [] ∧ (u.clusterAt k).crews = [] ∧ (u.clusterAt k).stageq = []) ∧
      ∃ u h, exec (.gridAbortNotice f) s = .next u ∧ u.pkg.grid = some h ∧ h.vec = g.vec ∧ h.live = 0 ∧
        h.fault = some (match g.fault with | some e => if s.cycle ≤ g.ended then earlierNotice e f else e | none => f) ∧
        h.ended = (if g.fault.isSome then g.ended else s.cycle) ∧ u.pkg.recvq = [] ∧ u.monitors = [] ∧
        ∀ q ∈ u.pkg.sendq, q.2.descs = []) ∧
    (s.pkg.grid = none → exec (.gridAbortNotice f) s = .next s) ∧
    ((∃ c, s.core.run = .idle c) ∨ s.cycle ≤ s.core.lastIssue + 2 ^ 28 → exec .watchdog s = .next s) ∧
    (s.core.lastIssue + 2 ^ 28 < s.cycle →
      let w : Raised := { code := .watchdog, addr := 0, slot := 9, bundle := s.core.pc, hard := false }
      let again := s.modCore fun c => { c with lastIssue := s.cycle }
      (s.core.run = .running → exec .watchdog s = .next (again.resolveAll s.me [w])) ∧
      ((∃ c, s.core.run = .draining c ∨ s.core.run = .frozen c) → exec .watchdog s =
        .next (again.modCore fun c => { c with late := c.late ++ [w] }))) ∧
    (let t := s.resolveOrphans;
      (t.core.run = .running → t.core.todo = [] → exec .faultResolveAtBoundary s =
        .next ((t.modCore fun c => { c with late := [] }).resolveLate t.me t.core.late)) ∧
      (t.core.run ≠ .running ∨ t.core.todo ≠ [] → exec .faultResolveAtBoundary s = .next t)) ∧
    (s.me % 144 ≠ 0 → s.resolveOrphans = s)

/-- R255, R436, R439, R450: a soft error counts one in its counter of the die, saturating, and faults a task that read
uncorrectable data, FADDR naming the walk it was read in; one at the unit of another package's node loses what that unit
keeps for a source and is counted there; the energy counters gain what the
interval delivered, once an interval; a mean of the last millisecond's 977 intervals above the power limit withholds issue in as
many of 16 cycles as the device chooses, up to 15, and one that is not, in none; the throttle and the thermal shutdown are as R450
says. The slot and bundle of a soft error's fault and the intervals that the mean is over are the model's choice (log entries 72
and 98). -/
def Obligations.PowerAndSoftErrors : Prop :=
  ∀ (s : State) (die : BitVec 2) (site : SoftSite) (u : Bool) (uj : List (BitVec 64)) (cycles : BitVec 4) (src : Nat) (on : Bool) (g : Grid)
    (n : BitVec 8) (e : Nat) (va : Word),
    let d := die.toNat
    let here := match site with
      | .sram | .mantis _ | .hbm | .t2 => true
      | .peerMantis .. => false
    let k := (match site with
      | .sram | .mantis _ | .peerMantis .. => 0
      | .hbm => 2
      | .t2 => 4) + if u then 1 else 0
    (here = true → ∃ t, exec (.softError die site u []) s = .next t ∧ t.mem = s.mem ∧ t.cores = s.cores ∧
      ∀ e j, Store.get 0 (t.dieAt e).secnt j = if e = d ∧ j = k ∧ Store.get 0 (s.dieAt e).secnt j ≠ BitVec.allOnes 32 then
        Store.get 0 (s.dieAt e).secnt j + 1 else Store.get 0 (s.dieAt e).secnt j) ∧
    (∃ t, exec (.softError die (.mantis src) true []) s = .next t ∧
      Store.get MantisSrc.none (t.dieAt d).mantis src = MantisSrc.none) ∧
    (exec (.softError die (.peerMantis n src) false []) s = .next s) ∧
    (s.ownNode n.toNat = false → s.member n.toNat = true → ∃ t, exec (.softError die (.peerMantis n src) true []) s = .next t ∧
      Store.get MantisSrc.none (t.dieAt (s.mantisDie n.toNat)).mantis src = MantisSrc.none ∧ t.mem = s.mem ∧ t.cores = s.cores ∧
      ∀ e, (t.dieAt e).secnt = (s.dieAt e).secnt) ∧
    (site = .sram ∨ site = .hbm ∨ site = .t2 → e < 576 → (s.coreAt e).owned = true →
      ∃ t, exec (.softError die site true [(e, some va)]) s = .next t ∧ (t.coreAt e).late = (s.coreAt e).late ++
        [{ code := .softErrorUncorrectable, addr := va, slot := 3, bundle := (s.coreAt e).pc, hard := false }]) ∧
    (s.energyTick ≤ s.pkg.engyAt → exec (.energyCounterTick uj) s = .next s) ∧
    (s.pkg.engyAt < s.energyTick → ∃ t, exec (.energyCounterTick uj) s = .next t ∧ t.pkg.engyAt = s.energyTick ∧
      (s.energyTick, ((List.range 6).map fun j => (uj.getD j 0).toNat).sum) ∈ t.pkg.engyLog ∧
      ∀ j, Store.get 0 t.pkg.engy j = if j < 6 then Store.get 0 s.pkg.engy j + uj.getD j 0 else Store.get 0 s.pkg.engy j) ∧
    (let energy := ((s.pkg.engyLog.filter fun x => s.pkg.engyAt < x.1 + 977).map (·.2)).sum
      ∃ t, exec (.powerLimitWithhold cycles) s = .next t ∧ t.pkg.withhold < 16 ∧ t.mem = s.mem ∧ t.cores = s.cores ∧
      (energy * 1000 ≤ s.pkg.pwrlim.toNat * (977 * 1024) → t.pkg.withhold = 0) ∧
      (977 ≤ s.pkg.engyAt → s.pkg.pwrlim.toNat * (977 * 1024) < energy * 1000 → t.pkg.withhold = cycles.toNat)) ∧
    (∃ t, exec (.thermalThrottle on) s = .next t ∧ t.pkg.hot = on ∧ t.mem = s.mem ∧ t.cores = s.cores ∧
      t.pkg.dlast = if on then s.pkg.dlast + 1 else s.pkg.dlast) ∧
    (∃ t, exec .thermalShutdown s = .next t ∧ t.pkg.shutdown = true ∧ t.pkg.dlast = s.pkg.dlast + 1 ∧
      (s.pkg.grid = some g → t.pkg.grid.map (·.live) = some 0))

/-! ## The host link (R5, R40, R127, R144, R145, R241, R250, R391, R398, R403, R440 to R450) -/

/-- R441, R443 to R445, R447: a message to an address of the port is discarded and counted when it is malformed or its tag is
not the session's, waits while another command executes, is answered GAP when its number is ahead, STALE when it is more
than 256 behind, and again from the store when it is not; one with an unknown opcode is refused. A response has the next
device number and the header of R443. SESSION and RESYNC carry a tag of zero. That a command waits while a PREEMPT executes,
that one without a session is discarded and SESSION clears the store, and the payload of each command, the number of SESSION's
response and the mail by which RESYNC reaches the device are the model's choice (log entries 67, 69 and 96). -/
def Obligations.HostProtocol : Prop :=
  ∀ (s : State) (h : HostHdr) (r : RegName) (v : List Word) (die : BitVec 2) (win : BitVec 4) (w0 w1 w2 : Word)
    (entry : BitVec 2) (job id : BitVec 16) (peer hostKey : BitVec 768) (wrapped : BitVec 320) (sv : StartVector) (core : Nat)
    (pkg : BitVec 6) (others : List Member) (fibre : BitVec 5) (ok : Bool) (nonce : BitVec 384)
    (range : Option (BitVec 8 × Nat × Nat)) (num : BitVec 32) (m : Msg) (pay : List Byte) (mail : List (HostHdr × List Byte)),
    let ahead := (h.seq - s.pkg.nexp).toNat
    let fits := fun (kind opc : Nat) (bs : List Byte) =>
      h.w0 = BitVec.ofNat 64 (0x534C01 * 2 ^ 40 + 2 ^ 32 * kind + 2 ^ 16 * opc + bs.length) ∧ bs.length ≤ 8192 ∧ h.w2 = 0 ∧ h.w3 = 0
    let signed := fun (bs : List Byte) => ∃ k, s.pkg.session = some k ∧ h.tag = Config.messageTag k [h.w0, h.w1, h.w2, h.w3] bs
    let discarded := fun (u : State) => u.modPkg fun p => { p with discards := p.discards + 1 }
    (s.pkg.booted = true → s.pkg.busy ≠ some (h, core) →
      ∀ x ∈ [(Instr.regrd h r, 0x20), (.regwr h r v, 0x21), (.formatWindowWrite h die win v, 0x21),
        (.l2lockWrite h die w0, 0x21), (.kvcfgWrite h die w0 (w1, w2), 0x21), (.slotcfgWrite h w0 w1 w2, 0x21),
        (.keyInstall h entry job peer wrapped, 0x21), (.launch h sv, 0x30), (.preempt h core, 0x31), (.resume h core, 0x32),
        (.partform h id pkg w0 w1 others, 0x40), (.detach h pkg, 0x41), (.dissolve h, 0x42), (.retrain h fibre ok, 0x43),
        (.attest h nonce range, 0x50), (.recall h num, 0x51)],
      let good := fits 0 x.2 (payloadOf x.1) ∧ signed (payloadOf x.1)
      (s.answersOn h.dst = false → exec x.1 s = .next s) ∧
      (s.answersOn h.dst = true → ¬good → exec x.1 s = .next (discarded s)) ∧
      (s.answersOn h.dst = true → good → s.pkg.busy.isSome = true ∨ s.pkg.later ≠ [] →
        exec x.1 s = .next (s.modPkg fun p => { p with later := p.later ++ [x.1] })) ∧
      (s.answersOn h.dst = true → good → s.pkg.busy = none → s.pkg.later = [] →
        (0 < ahead → ahead < 2 ^ 31 → exec x.1 s = .next (s.respond h x.2 .gap [s.pkg.nexp.setWidth 64])) ∧
        (2 ^ 31 ≤ ahead → ahead < 2 ^ 32 - 256 → exec x.1 s = .next (s.respond h x.2 .stale [])) ∧
        (2 ^ 32 - 256 ≤ ahead →
          (s.pkg.msgs.reverse.find? fun m => !m.notice && m.host == h.seq && m.status != 5) = some m →
          exec x.1 s = .next (s.sendMsg m)))) ∧
    (∀ opc st words, let u := s.respond h opc st words
      u.pkg.dlast = s.pkg.dlast + 1 ∧ u.pkg.nexp = s.pkg.nexp ∧ u.pkg.msgs.length ≤ max 256 s.pkg.msgs.length ∧
      ∃ y, u.pkg.msgs.getLast? = some y ∧ y.seq = u.pkg.dlast ∧ y.host = h.seq ∧ y.notice = false ∧ y.status = st.num ∧
        y.opcode = opc ∧ y.payload = words ∧
        let header := [BitVec.ofNat 64 (0x534C01 * 2 ^ 40 + 2 ^ 32 + 2 ^ 16 * opc + 8 * words.length), y.seq ++ h.seq,
          BitVec.ofNat 64 (2 ^ 32 * st.num), 0]
        (∀ k, s.pkg.session = some k →
          u.pkg.port = .message header words (Config.messageTag k header (words.flatMap fun w => bytesOf 8 w.toNat)))) ∧
    (s.pkg.booted = true → s.answersOn h.dst = true →
      (fits 0 0x10 (bytesOf 96 hostKey.toNat) → h.tag = 0 → ∃ u, exec (.session (h, hostKey)) s = .next u ∧
        u.pkg.nexp = 0 ∧ u.pkg.dlast = 0 ∧ u.pkg.msgs = [] ∧
        u.pkg.session = some ((Config.sha384 (bytesOf 48 (Config.ecdhX hostKey).toNat)).extractLsb' 0 256) ∧
        u.pkg.port = .message [BitVec.ofNat 64 (0x534C01 * 2 ^ 40 + 2 ^ 32 + 2 ^ 16 * 0x10), (0 : BitVec 32) ++ h.seq, 0, 0] [] 0) ∧
      (¬(fits 0 0x10 (bytesOf 96 hostKey.toNat) ∧ h.tag = 0) → exec (.session (h, hostKey)) s = .next (discarded s))) ∧
    (s.mail = [] → exec .resync s = .next s ∧ exec .hostMessageDiscard s = .next s) ∧
    (s.mail = (h, pay) :: mail →
      let t : State := { s with mail := mail }
      let kind := h.w0.toNat / 2 ^ 32 % 2 ^ 8
      let opc := h.w0.toNat / 2 ^ 16 % 2 ^ 16
      (s.answersOn h.dst = false → exec .resync s = .next t ∧ exec .hostMessageDiscard s = .next t) ∧
      (s.answersOn h.dst = true →
        (fits 3 opc [] → pay = [] → h.tag = 0 → exec .resync s = .next (t.modPkg fun p => { p with
          port := .message [BitVec.ofNat 64 (0x534C01 * 2 ^ 40 + 4 * 2 ^ 32 + 2 ^ 16 * opc + 8), p.dlast ++ h.seq, 0, 0]
            [p.dlast ++ p.nexp] 0 })) ∧
        (¬(fits 3 opc [] ∧ pay = [] ∧ h.tag = 0) → exec .resync s = .next (discarded t)) ∧
        (¬fits kind opc pay ∨ (kind ≠ 0 ∧ kind ≠ 3) → exec .hostMessageDiscard s = .next (discarded t)) ∧
        (kind = 0 → opc ≠ 0x10 → s.pkg.booted = true → ¬signed pay → exec .hostMessageDiscard s = .next (discarded t)) ∧
        (fits 0 opc pay → signed pay →
          opc ∉ [0x10, 0x20, 0x21, 0x30, 0x31, 0x32, 0x40, 0x41, 0x42, 0x43, 0x50, 0x51] →
          s.pkg.busy = none → s.pkg.later = [] → h.seq = s.pkg.nexp → exec .hostMessageDiscard s =
            .next ((t.modPkg fun p => { p with nexp := p.nexp + 1 }).respond h opc .opcode []))))

/-- R22, R241, R425, R441, R442, R449: boot checks the flash image's key, signature and version, zeroes the SRAMs and brings the
fibres up; a recovery write is taken only before; a reset leaves the memory outside the SRAMs, the fuses and the flash, and
every register at its reset value; bulk writes are performed at their home before they are acknowledged, bulk reads show it,
one to the capability frame is ignored, and an unknown queue pair draws a NAK. What a reset keeps, the fault of an access that no
populated range holds, and that the queue pairs come with the boot are the model's choice (log entries 27, 71 and 96). -/
def Obligations.BootResetAndBulkAccess : Prop :=
  ∀ (s : State) (image : List Byte) (qps : List Nat) (node : BitVec 8) (qp : HostAddr × Nat) (pa len : Nat) (bytes : List Byte),
    (s.pkg.booted = true → exec (.boot (image, qps)) s = .next s ∧ exec (.bootFlashRecovery image) s = .next s) ∧
    (s.pkg.booted = false →
      let img := if s.pkg.flash = [] then image else s.pkg.flash
      let good := Config.sha384 (Config.fwPublicKey img) = Config.fusedKeyDigest ∧
        Config.ecdsaVerify (Config.fwPublicKey img) (Config.sha384 img) (Config.fwSignature img) = true ∧
        Config.fusedMinVersion.toNat ≤ (Config.fwVersion img).toNat
      (¬good → exec (.boot (image, qps)) s = .next s) ∧
      (good → ∃ u, exec (.boot (image, qps)) s = .next u ∧ u.pkg.booted = true ∧ u.pkg.firmware = img ∧ u.pkg.qps = qps ∧
        u.pkg.up = s.fuses.fibres ∧ (∀ x ∈ u.mem, isGlobal x.1 = true) ∧
        (∀ k, isGlobal k = true → Memory.get u.mem k = Memory.get s.mem k) ∧ ∀ e, (u.coreAt e).cache = [])) ∧
    (s.pkg.booted = false → ∃ u, exec (.bootFlashRecovery image) s = .next u ∧ u.pkg.flash = image ∧ u.mem = s.mem) ∧
    (∃ u, exec .packageReset s = .next u ∧ u.cores = [] ∧ u.clusters = [] ∧ u.dies = [] ∧ u.cycle = 0 ∧ u.fuses = s.fuses ∧
      u.mem = s.mem ∧ u.pkg = { Package.reset with flash := s.pkg.flash }) ∧
    (s.pkg.booted = false ∨ s.answersOn qp.1 = false → exec (.roceWrite node qp pa bytes) s = .next s ∧
      exec (.roceRead node qp pa len) s = .next s ∧ exec (.roceRequestReject (qp.1, some qp.2)) s = .next s) ∧
    (s.pkg.booted = true → s.answersOn qp.1 = true → qp.2 ∉ s.pkg.qps →
      let nak := s.modPkg fun p => { p with port := .nak }
      exec (.roceWrite node qp pa bytes) s = .next nak ∧ exec (.roceRead node qp pa len) s = .next nak ∧
        exec (.roceRequestReject (qp.1, some qp.2)) s = .next nak) ∧
    (s.pkg.booted = true → s.answersOn qp.1 = true → qp.2 ∈ s.pkg.qps →
      exec (.roceRequestReject (qp.1, some qp.2)) s = .next s ∧
      (s.ownNode node.toNat = true →
        (capFrame ≤ pa → pa + bytes.length ≤ capFrame + 4096 →
          exec (.roceWrite node qp pa bytes) s = .next (s.modPkg fun p => { p with port := .ack })) ∧
        (s.populated node.toNat pa bytes.length = true → pa + bytes.length < capFrame →
          ∃ u, exec (.roceWrite node qp pa bytes) s = .next u ∧ u.cores = s.cores ∧ u.pkg.port = .ack ∧
            u.mem = (s.pokeBytes (s.nk node.toNat pa) bytes).mem) ∧
        (s.populated node.toNat pa len = true ∨ (capFrame ≤ pa ∧ pa + len ≤ capFrame + 4096) →
          exec (.roceRead node qp pa len) s = .next (s.modPkg fun p => { p with
            port := .data ((List.range len).map fun i => s.byteAt (s.nk node.toNat (pa + i))) })) ∧
        (s.populated node.toNat pa len = false → pa + len < capFrame →
          exec (.roceRead node qp pa len) s = .fault .hostAddressUnpopulated))) ∧
    exec (.roceRequestReject (qp.1, none)) s = .next s

/-- R6, R7, R127, R250, R391, R398, R399, R403, R431, R446, R447, R450: what a register command answers when its number is the
next, and what it changes. A refused one changes nothing but the numbers, a write of a read-only register is ignored, a format
window keeps what is written, reads with its reserved fields as zero, and is not enabled where R127 says so, a counter takes a
written value at the end of a cycle in which it stays, SLOTCFG in the cycle of the hardware's switch keeps what the switch
writes, and FREE of a pool takes what is written. The numbers of the registers in each space, when EN of a window is judged, the
fields of a write in the cycle of a switch and whose counters a key begins anew are the model's choice (log entries 25, 70, 97
and 95). -/
def Obligations.HostRegisters : Prop :=
  ∀ (s : State) (h : HostHdr) (r : RegName) (v : List Word) (die : BitVec 2) (win : BitVec 4) (w0 w1 w2 : Word)
    (entry : BitVec 2) (job : BitVec 16) (peer : BitVec 768) (wrapped : BitVec 320),
    s.answersOn h.dst = true → s.pkg.busy = none → s.pkg.later = [] → h.seq = s.pkg.nexp →
    let t := s.modPkg fun p => { p with nexp := p.nexp + 1 }
    let d := die.toNat
    let n := r.inst.toNat
    let i := r.index.toNat
    let answers := fun (o : Out) (opc : Nat) (st : Status) (pay : List Word) (u : State) => o = .next (u.respond h opc st pay)
    (s.takes (.regrd h r) h 0x20 = true →
      let rd := fun (st : Status) (pay : List Word) => answers (exec (.regrd h r) s) 0x20 st pay t
      (r.space = 1 → s.enabled n = true → (i = 0 → rd .ok [(s.coreAt n).special 11]) ∧ (i = 1 → rd .ok [(s.coreAt n).special 20]) ∧
        (i = 2 → rd .ok [(s.coreAt n).special 26]) ∧ (3 ≤ i → rd .value [])) ∧
      (r.space = 2 → n < 64 → i < 5 →
        let f := Store.get FmtWin.none (s.dieAt (n / 16)).fmtwin (n % 16)
        rd .ok [[f.src &&& 0xFFFFFFFFFFF00, f.scl &&& 0xFFFFFFFFFFFFF, f.view &&& 0xFFFFFFFFFF000, f.len &&& 0xFFFFFFFFFF,
          f.ctl &&& 0xFF03].getD i 0]) ∧
      (r.space = 3 → n < 4 → i = 0 → rd .ok [(s.dieAt n).l2lock]) ∧
      (r.space = 5 → n < 4 → i = 0 → rd .ok [(s.dieAt n).kvcfg, (s.dieAt n).npages, BitVec.ofNat 64 (s.dieAt n).kvFree]) ∧
      (r.space = 8 → i = 5 → n = 0 → rd .ok [BitVec.ofNat 64 s.tb, BitVec.ofNat 64 s.cycle]) ∧
      (r.space = 9 → i < 512 → rd .ok [s.capWord i]) ∧
      (r.space = 10 → i = 0 → rd .ok [s.pkg.pwrlim.setWidth 64]) ∧
      (12 ≤ r.space.toNat ∨ r.space = 0 → rd .opcode [])) ∧
    (s.takes (.regwr h r v) h 0x21 = true →
      let wr := fun (st : Status) (u : State) => answers (exec (.regwr h r v) s) 0x21 st [] u
      (r.space = 2 → n < 64 → i < 4 → v = [w0] → wr .ok (t.modDie (n / 16) fun x => { x with
        fmtwin := Store.set FmtWin.none x.fmtwin (n % 16)
          ((Store.get FmtWin.none (s.dieAt (n / 16)).fmtwin (n % 16)).put i w0) })) ∧
      (r.space = 9 → i < 512 → wr .ok t) ∧
      (r.space = 11 → n < 4 → wr .ok t) ∧
      (r.space = 8 → i = 5 → n = 0 → v.length = 2 → wr .ok t) ∧
      (r.space = 8 → i = 4 → n = 0 → v.length = 6 → s.pkg.ctrw = [] → ∃ u, wr .ok u ∧
        u.pkg.engy = s.pkg.engy ∧ u.mem = s.mem ∧ u.cores = s.cores ∧
        ∀ k < 6, Store.get 0 u.settleCtrs.pkg.engy k =
          if (4, 0, k) ∈ s.pkg.moved then Store.get 0 s.pkg.engy k else v.getD k 0) ∧
      (12 ≤ r.space.toNat ∨ r.space = 0 → wr .opcode t) ∧
      (r.space = 10 → i = 0 → v = [w0] →
        (w0.toNat < 600 ∨ 2400 < w0.toNat → wr .value t) ∧
        (600 ≤ w0.toNat → w0.toNat ≤ 2400 → wr .ok (t.modPkg fun p => { p with pwrlim := w0.setWidth 16 })))) ∧
    (s.takes (.formatWindowWrite h die win v) h 0x21 = true →
      (v.length ≠ 5 → answers (exec (.formatWindowWrite h die win v) s) 0x21 .value [] t) ∧
      (v.length = 5 → ∃ u, answers (exec (.formatWindowWrite h die win v) s) 0x21 .ok [] u ∧ u.mem = s.mem ∧
        let f := Store.get FmtWin.none (u.dieAt d).fmtwin win.toNat
        let g : FmtWin := { src := v.getD 0 0, scl := v.getD 1 0, view := v.getD 2 0, len := v.getD 3 0, ctl := v.getD 4 0 }
        f.src = g.src ∧ f.scl = g.scl ∧ f.view = g.view ∧ f.len = g.len ∧ f.ctl.toNat / 2 = g.ctl.toNat / 2 ∧
        (f.on = true ↔ g.on = true ∧ s.fmtOk d g = true))) ∧
    (let bad := w0.toNat / 2 ^ 52 ≠ 0 ∨ w0.toNat / 32 % 2 ^ 16 ≠ 0 ∨ 16 < w0.toNat % 32 ∨
        s.inHbm (s.nodeOf d) (w0.toNat / 2 ^ 21 % 2 ^ 31 * 2 ^ 21) (w0.toNat % 32 * 2 ^ 21) = false;
      s.takes (.l2lockWrite h die w0) h 0x21 = true →
      (bad → answers (exec (.l2lockWrite h die w0) s) 0x21 .value [] t) ∧
      (¬bad → answers (exec (.l2lockWrite h die w0) s) 0x21 .ok [] (t.modDie d fun y => { y with l2lock := w0 }))) ∧
    (let size := poolSize (64 * (w0.toNat / 2 % 4 + 1)) w1.toNat
      let bad := w0.toNat / 2 ^ 52 ≠ 0 ∨ w0.toNat / 8 % 2 ^ 9 ≠ 0 ∨ 2 ^ 20 < w1.toNat ∨ w2.toNat / 2 ^ 21 ≠ 0 ∨
        (w0.getLsbD 0 = true ∧ w1 = 0) ∨ s.populated (s.nodeOf d) (w0.toNat / 2 ^ 12 % 2 ^ 40 * 4096) size = false
      let go := exec (.kvcfgWrite h die w0 (w1, w2)) s;
      s.takes (.kvcfgWrite h die w0 (w1, w2)) h 0x21 = true →
      (s.launching = true → answers go 0x21 .state [] t) ∧
      (s.launching = false → bad → answers go 0x21 .value [] t) ∧
      (s.launching = false → ¬bad → ∃ u, answers go 0x21 .ok [] u ∧
        (u.dieAt d).kvcfg = w0 ∧ (u.dieAt d).npages = w1 ∧
        (w0.getLsbD 0 = true → (u.dieAt d).kvFree = w1.toNat ∧ (u.dieAt d).windows = [] ∧ (u.dieAt d).prefixes = []) ∧
        (w0.getLsbD 0 = false → (u.dieAt d).kvFree = w2.toNat ∧ u.mem = s.mem))) ∧
    (let bad := w0.toNat / 2 ^ 30 % 2 ^ 33 ≠ 0 ∨ w0.toNat / 2 ^ 22 % 4 ≠ 0 ∨ w0.toNat / 2 ^ 14 % 4 ≠ 0 ∨ w0.toNat / 64 % 4 ≠ 0 ∨
        w0.toNat / 256 % 64 < w0.toNat % 64 ∨
        (w0.getLsbD 63 = true ∧ w0.toNat / 2 ^ 24 % 64 < w0.toNat / 2 ^ 16 % 64)
      let due := s.timeBase.isSome = true ∧ s.pkg.slotcfg.getLsbD 63 = true ∧ s.pkg.pepoch.toNat ≤ s.tb
      let go := exec (.slotcfgWrite h w0 w1 w2) s;
      s.takes (.slotcfgWrite h w0 w1 w2) h 0x21 = true →
      (bad → answers go 0x21 .value [] t) ∧
      (¬bad → ¬due → s.pkg.switched ≠ some s.cycle → answers go 0x21 .ok []
        (t.modPkg fun p => { p with slotcfg := w0, epoch := w1, pepoch := w2 })) ∧
      (¬bad → ¬due → s.pkg.switched = some s.cycle → answers go 0x21 .ok [] (t.modPkg fun p => { p with
        slotcfg := (p.slotcfg &&& (0x3F3F : Word)) ||| (w0 &&& (0x3F3F0000 : Word)), pepoch := w2 })) ∧
      (¬bad → due → ∃ u, answers go 0x21 .ok [] u ∧ u.pkg.epoch = s.pkg.pepoch ∧ u.pkg.pepoch = w2 ∧
        u.pkg.slotcfg = ((s.pkg.slotcfg >>> 16 &&& (0x3F3F : Word)) ||| (w0 &&& (0x3F3F0000 : Word))) ∧ u.pkg.slot = none)) ∧
    (let kek := (Config.sha384 (bytesOf 48 (Config.ecdhX peer).toNat)).extractLsb' 0 256
      let go := exec (.keyInstall h entry job peer wrapped) s;
      s.takes (.keyInstall h entry job peer wrapped) h 0x21 = true →
      (Config.aesUnwrap kek wrapped = none → answers go 0x21 .auth [] t) ∧
      ∀ k, Config.aesUnwrap kek wrapped = some k → ∃ u, answers go 0x21 .ok [] u ∧
        (∀ e, Store.get none u.pkg.keys e = if e = entry.toNat then some (job, k) else Store.get none s.pkg.keys e) ∧
        ((∀ p, s.pkg.part = some p → p.id = job) → ∀ q ∈ u.pkg.sendq, q.2.iv = 0) ∧
        (∀ p, s.pkg.part = some p → p.id ≠ job → u.pkg.sendq = s.pkg.sendq))

/-- R40, R144, R145, R147, R149, R360, R364, R366, R397 to R399, R427, R444, R446, R449, R450: what the other commands do when
their number is the next. A new partition empties the send queues and keeps their IV counters; the time base runs on when a
partition is dissolved. The layout of the save area's SHADOW region, what a resume takes from the core itself, what a formation
clears, and the start of a PREEMPT after faults and traps are the model's choice (log entries 23, 24, 26 and 67). -/
def Obligations.HostCommands : Prop :=
  ∀ (s : State) (h : HostHdr) (sv : StartVector) (core : Nat) (id : BitVec 16) (pkg : BitVec 6) (mesh tb : Word)
    (others : List Member) (fibre : BitVec 5) (ok : Bool) (nonce : BitVec 384) (num : BitVec 32) (m : Msg) (p : Partition)
    (heads : List Nat),
    s.pkg.booted = true → s.answersOn h.dst = true → s.pkg.busy = none → s.pkg.later = [] → h.seq = s.pkg.nexp →
    s.pkg.freeze = none →
    let good := fun (i : Instr) (opc : Nat) => s.takes i h opc = true
    let t := s.modPkg fun p => { p with nexp := p.nexp + 1 }
    let answers := fun (i : Instr) (opc : Nat) (st : Status) (pay : List Word) (u : State) =>
      exec i s = .next (u.respond h opc st pay)
    (good (.launch h sv) 0x30 →
      (s.pkg.shutdown = true → answers (.launch h sv) 0x30 .state [] t) ∧
      (s.pkg.shutdown = false → 16 ≤ s.pkg.launchq.length → answers (.launch h sv) 0x30 .busy [] t) ∧
      (s.pkg.shutdown = false → s.pkg.launchq.length < 16 → answers (.launch h sv) 0x30 .ok []
        (t.modPkg fun p => { p with launchq := p.launchq ++ [sv] }))) ∧
    (good (.preempt h core) 0x31 →
      (s.enabled core = false → answers (.preempt h core) 0x31 .value [] t) ∧
      (s.enabled core = true → (s.coreAt core).run ≠ .running → answers (.preempt h core) 0x31 .state [] t) ∧
      (s.enabled core = true → (s.coreAt core).run = .running → (s.coreAt core).beforeFreeze = false →
        (t.modPkg fun p => { p with busy := some (h, core) }).areaHeads core .write = some heads →
        ∃ u, exec (.preempt h core) s = .next u ∧ u.pkg.busy = some (h, core) ∧ (u.coreAt core).run = .draining s.cycle ∧
          (u.pkg.freeze.map fun z => (z.core, z.at_, z.heads)) = some (core, s.cycle, heads) ∧ u.mem = s.mem) ∧
      (s.enabled core = true → (s.coreAt core).run = .running → let u := t.modPkg fun p => { p with busy := some (h, core) };
        ((s.coreAt core).beforeFreeze = true → exec (.preempt h core) s = .next u) ∧
        ((s.coreAt core).beforeFreeze = false → u.areaHeads core .write = none → answers (.preempt h core) 0x31 .state [] t)) ∧
      (∀ z : Freeze, z.core = core → (s.coreAt core).run = .draining z.at_ →
        let u := s.modPkg fun p => { p with busy := some (h, core), freeze := some z };
        ((s.coreAt core).freezeReady z.at_ s.cycle = false → exec (.preempt h core) u = .next u) ∧
        ((s.coreAt core).freezeReady z.at_ s.cycle = true → exec (.preempt h core) u =
          .next (((u.writeArea z).modPkg fun p => { p with busy := none, freeze := none }).respond h 0x31 .ok [])))) ∧
    (good (.resume h core) 0x32 →
      (s.enabled core = false → answers (.resume h core) 0x32 .value [] t) ∧
      (s.enabled core = true → (s.coreAt core).frozen = false → answers (.resume h core) 0x32 .state [] t) ∧
      (s.enabled core = true → (s.coreAt core).frozen = true → t.areaHeads core .read = none →
        answers (.resume h core) 0x32 .state [] t) ∧
      (s.enabled core = true → (s.coreAt core).frozen = true → t.areaHeads core .read = some heads →
        ∃ u, answers (.resume h core) 0x32 .ok [] u ∧ (u.coreAt core).run = .running ∧
          (u.coreAt core).s = loadSreg (((t.flushKeys core ((List.range areaSize).map (areaKey heads)))).areaNat heads) 0x140)) ∧
    (good (.partform h id pkg mesh tb others) 0x40 →
      (meshOk mesh (4 * (others.length + 1)) = false → answers (.partform h id pkg mesh tb others) 0x40 .value [] t) ∧
      (meshOk mesh (4 * (others.length + 1)) = true → ∃ u, answers (.partform h id pkg mesh tb others) 0x40 .ok [] u ∧
        u.pkg.part = some { id := id, pkg := pkg, mesh := mesh, others := others } ∧
        u.pkg.anchor = some (tb.toNat, s.cycle) ∧ u.timeBase = some tb.toNat ∧
        (∀ e, u.readSpecial e 3 = BitVec.ofNat 64 (4 * pkg.toNat + e / 144) ∧ u.readSpecial e 15 = mesh) ∧
        (∀ q ∈ u.pkg.sendq, q.2.descs = [] ∧ q.2.flight = [] ∧ ∃ x ∈ s.pkg.sendq, x.1 = q.1 ∧ x.2.iv = q.2.iv) ∧
        (∀ x ∈ s.pkg.sendq, x.2.iv ≠ 0 → ∃ q ∈ u.pkg.sendq, q.1 = x.1 ∧ q.2.iv = x.2.iv) ∧ u.mem = s.mem ∧ u.cores = s.cores)) ∧
    (s.pkg.part = none → (good (.detach h pkg) 0x41 → answers (.detach h pkg) 0x41 .state [] t) ∧
      (good (.dissolve h) 0x42 → answers (.dissolve h) 0x42 .state [] t)) ∧
    (s.pkg.part = some p → good (.detach h pkg) 0x41 →
      (p.pkg ≠ pkg → (∀ y ∈ p.others, y.pkg ≠ pkg) → answers (.detach h pkg) 0x41 .value [] t) ∧
      (p.pkg ≠ pkg → (∃ y ∈ p.others, y.pkg = pkg) → ∃ u, answers (.detach h pkg) 0x41 .ok [] u ∧
        ∀ y ∈ u.others, y.pkg ≠ pkg) ∧
      (p.pkg = pkg → ∃ u, answers (.detach h pkg) 0x41 .ok [] u ∧ u.others = [])) ∧
    (s.pkg.part = some p → good (.dissolve h) 0x42 →
      (p.others = [] → ∃ u, answers (.dissolve h) 0x42 .ok [] u ∧ u.pkg.part = none ∧ u.timeBase = s.timeBase ∧
        (∀ e, u.readSpecial e 3 = s.readSpecial e 3 ∧ u.readSpecial e 15 = s.readSpecial e 15) ∧
        (∀ k ∈ u.pkg.keys, ∀ x, k.2 = some x → x.1 ≠ p.id) ∧ u.mem = s.mem)) ∧
    (good (.retrain h fibre ok) 0x43 →
      (s.fuses.fibres.getLsbD fibre.toNat = false → answers (.retrain h fibre ok) 0x43 .value [] t) ∧
      (s.fuses.fibres.getLsbD fibre.toNat = true → ∃ u, answers (.retrain h fibre ok) 0x43 .ok [] u ∧
        u.pkg.up.getLsbD fibre.toNat = ok ∧ (∀ k < 32, k ≠ fibre.toNat → u.pkg.up.getLsbD k = s.pkg.up.getLsbD k))) ∧
    (good (.attest h nonce none) 0x50 → answers (.attest h nonce none) 0x50 .ok
      (bytesWords (t.report nonce none ++ bytesOf 96 (Config.ecdsaSign (t.report nonce none)).toNat)) t) ∧
    (good (.recall h num) 0x51 →
      ((s.pkg.msgs.find? fun y => y.seq == num) = some m → answers (.recall h num) 0x51 .ok (m.header ++ m.payload) t) ∧
      ((s.pkg.msgs.find? fun y => y.seq == num) = none → answers (.recall h num) 0x51 .stale [] t))

/-! ## Decoding (R53, R56 to R69) -/

/-- The words that the manual's own examples give, each with the instruction it stands for, in the manual's order: R142,
the scalar, control, vector and tensor examples, and those of the memory and copy classes. -/
def Obligations.ExampleWordsDecode : Prop :=
  let c : Ctl := { guard := 0, gneg := false, rtag := none, sticky := false, stepV := false, stepR := 0 }
  decodeSlot 2 0x4300000000028000 = .ok (.trap c 5) ∧
  decodeSlot 0 0x00C0018081000000 = .ok (.mul c (.s 3) (.s 1) (.s 2) false false false) ∧
  decodeSlot 1 0x09400181CF1B8003 = .ok (.lih c (.s 3) (.s 3) 0x9E37 3) ∧
  decodeSlot 2 0x4100000000000000 = .ok (.loop c 0) ∧
  decodeSlot 2 0x4040000000000000 = .ok (.brl c 0) ∧
  decodeSlot 2 0x4140000080008003 = .ok (.rotset c (.s 1) 1 true true) ∧
  decodeSlot 5 0x8A802A2880004800 = .ok (.vmov { c with guard := 9 } 20 17) ∧
  decodeSlot 4 0x80C02A2AAB2BC8A0 = .ok (.vfma { c with guard := 9 } 20 21 22 23 .f16 .rtz false) ∧
  decodeSlot 6 0xC1E4828300438088 =
    .ok (.mma { c with rtag := some 4, sticky := true, stepV := true, stepR := 7 } 1 4 (.s 6) .fp4 true) ∧
  decodeSlot 6 0xC340018303800040 = .ok (.smm c 0 2 3 (.s 6) (.s 7)) ∧
  decodeSlot 3 0x5000028200080016 = .ok (.ld c (.s 5) 4 16 2 true 2) ∧
  decodeSlot 3 0x52C0030384048234 = .ok (.cas c (.s 6) (.s 7) (.s 8) (.s 9) true .acq true .part) ∧
  decodeSlot 3 0x57C0000200000002 = .ok (.tlbi c (.s 4) false .die) ∧
  decodeSlot 3 0x5340000000000140 = .ok (.phase c .rel .die) ∧
  decodeSlot 3 0x5380000000000000 = .ok (.fenceo c) ∧
  decodeSlot 3 0x5280070686000270 = .ok (.atom c (.s 14) (.s 13) (.s 12) (.s 0) .add true .ar .part) ∧
  decodeSlot 3 0x544004850E8E8001 = .ok (.tld c (.s 9) (.s 10) (.s 29) (.s 29) 1) ∧
  decodeSlot 7 0xE00004020280000A = .ok (.cpy c (.s 8) (.s 4) (.s 5) 1 2) ∧
  decodeSlot 7 0xE0C00402048000AA = .ok (.kvld c 5 (.s 8) (.s 4) (.s 9) 1 2) ∧
  decodeSlot 7 0xE2800003000001FC = .ok (.wakeThr c 0xFC (.s 6)) ∧
  decodeHeader 0x5200000000000000 = .ok
    { slots := 0x52, stall := 0, rep := 0, mark := false, wait := 0, set := none, scancel := 0 } ∧
  decodeHeader 0x0800000700000000 = .ok
    { slots := 0x08, stall := 0, rep := 0, mark := false, wait := 0, set := some 3, scancel := 0 }

/-- R68: the checks of a bundle in their order. A header fails with RESERVED_FIELD for a reserved bit or an index without
SETV, then with ILLEGAL_OPCODE for a repeat over slot S2 or S3. A slot word fails with ILLEGAL_OPCODE outside the opcode
ranges, ILLEGAL_SLOT in a slot that its class may not take, RESERVED_FIELD for a ready tag or a sticky bit that the slot
may not have, STICKY_INVALID for an operation that may not be sticky, and RESERVED_FIELD where its fields are those of no
well-formed instruction; else it decodes. Of several slots the first that fails is reported, with its word's address. -/
def Obligations.DecodingChecksInOrder : Prop :=
  (∀ w : BitVec 64,
    let reserved := w.getLsbD 44 = true ∨ w.toNat % 2 ^ 28 ≠ 0 ∨ (w.getLsbD 32 = false ∧ w.toNat / 2 ^ 33 % 8 ≠ 0)
    let repeats := w.toNat / 2 ^ 46 % 64 ≠ 0 ∧ (w.getLsbD 58 = true ∨ w.getLsbD 59 = true)
    (reserved → decodeHeader w = .error .reservedField) ∧
    (¬reserved → repeats → decodeHeader w = .error .illegalOpcode) ∧
    (¬reserved → ¬repeats → ∃ h, decodeHeader w = .ok h ∧ h.encode = w ∧ h.slots = w.extractLsb' 56 8 ∧
      h.stall = w.extractLsb' 52 4 ∧ h.rep = w.extractLsb' 46 6 ∧ h.mark = w.getLsbD 45 ∧ h.wait = w.extractLsb' 36 8 ∧
      h.set = (if w.getLsbD 32 then some (w.extractLsb' 33 3) else none) ∧ h.scancel = w.extractLsb' 28 4)) ∧
  (∀ (k : Nat) (w : BitVec 64), k < 8 →
    let opc := w.toNat / 2 ^ 54
    let tagged := w.getLsbD 53 = true
    let sticky := w.getLsbD 47 = true
    let first := fun (n : Nat) =>
      if n ≤ 0x030 then some 0 else if 0x100 ≤ n ∧ n ≤ 0x10D then some 2 else if 0x140 ≤ n ∧ n ≤ 0x15F then some 3
      else if 0x200 ≤ n ∧ n ≤ 0x22A then some 4 else if 0x300 ≤ n ∧ n ≤ 0x30E then some 6
      else if 0x380 ≤ n ∧ n ≤ 0x38B then some 7 else none
    let fits := fun (n : Nat) => k = n ∨ (k = n + 1 ∧ (n = 0 ∨ n = 4))
    let badTag := (k < 4 ∧ tagged) ∨ (¬tagged ∧ w.toNat / 2 ^ 48 % 32 ≠ 0) ∨ (k < 4 ∧ sticky)
    let badSticky := sticky ∧ ¬((0x200 ≤ opc ∧ opc ≤ 0x22A) ∨
      opc ∈ [0x301, 0x302, 0x304, 0x305, 0x306, 0x307, 0x308, 0x309, 0x380, 0x381, 0x383, 0x384])
    (first opc = none → decodeSlot k w = .error .illegalOpcode) ∧
    (∀ n, first opc = some n →
      (¬fits n → decodeSlot k w = .error .illegalSlot) ∧
      (fits n → badTag → decodeSlot k w = .error .reservedField) ∧
      (fits n → ¬badTag → badSticky → decodeSlot k w = .error .stickyInvalid) ∧
      (fits n → ¬badTag → ¬badSticky →
        (∀ i : Instr, i.wf = true → i.opClass.isSome = true → i.encode = w → decodeSlot k w = .ok i) ∧
        ((¬∃ i : Instr, i.wf = true ∧ i.opClass.isSome = true ∧ i.encode = w) → decodeSlot k w = .error .reservedField)))) ∧
  (∀ (pc : Word) (len j : Nat) (ks : List Nat) (ws : List Word) (n : Nat) (f : DecodeFault), ks.length = ws.length →
    n < ks.length → (∀ x < n, ∃ i, decodeSlot (ks.getD x 0) (ws.getD x 0) = .ok i) →
    decodeSlot (ks.getD n 0) (ws.getD n 0) = .error f →
    decodeSlots pc len j ks ws =
      .error (.fail (ofDecode f) (ks.getD n 0) (pc + BitVec.ofNat 64 (8 * (j + n + 1))) len false))

/-- R56 to R67: decoding the slot word of any well-formed slot instruction, in any slot its class may take, gives that
instruction back with every operand and modifier; and its word in the opcode table's numbering decodes to it. -/
def Obligations.DecodeOfEncodeIsTheInstruction : Prop :=
  ∀ (i : Instr) (k : OpClass), i.wf = true → i.opClass = some k →
    (∀ slot < 8, k.inSlot slot = true → decodeSlot slot i.encode = .ok i) ∧
    ∀ n, decodeTableWord n i.encode.toNat = some i

/-! ## Issue (R52, R68, R70, R75, R81, R82) -/

/-- R52, R70: a step runs what it decodes. What stands on the agenda for the present cycle is performed. On a core whose
bundle may issue, the step begins the issue, performs the operations decoded from the bundle's words one after another,
each by exec, and finishes the issue; what the pass adds is the core's own waiting and the next turn (log entries 1 and
6). A held operation goes to the issue once its tile is READY. -/
def Obligations.StepRunsTheDecodedBundle : Prop :=
  (∀ (s : State) (n : Nat) (i : Instr) (rest : List (Nat × Instr)), s.agenda = (n, i) :: rest → s.pass = 0 → s.me = 0 →
    n ≤ s.cycle → i.opClass = none → step s = exec i { s with agenda := rest }) ∧
  (∀ (s : State) (e : Nat) (pc w x : Word) (h : Header) (k : Nat) (i : Instr), s.fetchWord e pc = .ok w →
    s.fetchWord e (pc + 8) = .ok x → decodeHeader w = .ok h → h.present = [k] → decodeSlot k x = .ok i →
    s.fetchBundle e pc = .ok h [(k, i)]) ∧
  (∀ (s : State) (h : Header) (ops : List (Nat × Instr)), s.outside = none → s.pass = 2 → s.canFetch = true →
    s.fetchBundle s.me s.core.pc = .ok h ops →
    let is := s.core.issueOps h ops
    s.mayIssue h is = true → s.core.undersized is = none →
      exec .bundleIssue s = .next (s.beginIssue h is) ∧
      (s.beginIssue h is).core.todo = is ∧ (s.beginIssue h is).core.issues = s.core.issues + 1 ∧
      step s = match drain 9 (s.beginIssue h is) with
        | .next u =>
          .next (if s.core.issues = u.finish.core.issues then u.finish.progress.turn else u.finish.turn)
        | r => r) ∧
  (∀ (s : State) (n : Nat) (o : SlotOp) (rest : List SlotOp), s.core.todo = o :: rest →
    (∀ c, ctlOf o.instr = some c → c.sticky = false) → s.core.mustHold o = false →
    drain (n + 1) s =
      match exec o.instr ((s.modCore fun c => { c with todo := rest }).modCore fun c =>
          { c.perform o with cur := o, popped := [] }) with
      | .next u => drain n u
      | r => r) ∧
  (∀ (s : State) (n : Nat), s.core.todo = [] → drain n s = .next s) ∧
  (∀ (s : State) (k : BitVec 3) (x : Nat × SlotOp),
    s.core.held.find? (fun y => y.2.slot == k.toNat) = some x → s.core.todo = [] → s.core.run = .running →
    ¬(s.cycle ≤ s.core.lastIssue ∧ x.1 = s.core.issues) → (fixedLatency x.2.instr = true → s.core.landqLen < 32) →
    (∀ c t, ctlOf x.2.instr = some c → c.rtag = some t → s.core.tready.getLsbD t.toNat = true) →
    (∀ c a, x.2.instr = .jobq c a →
      x.2.guard = 0 ∨ (s.jobqRoom x.2.a = true ∧ s.accessFree x.2.instr ([(0, x.2.a)], 64) = true)) →
      ∃ u, exec (.heldSlotPerform k) s = .next u ∧ u.core.todo = [{ x.2 with go := true }] ∧
        u.core.held = s.core.held.filter (· != x) ∧ u.core.next = s.core.pc ∧ u.mem = s.mem ∧ u.core.land = s.core.land) ∧
  (∀ (s : State) (k : BitVec 3), s.core.held.find? (fun y => y.2.slot == k.toNat) = none →
    exec (.heldSlotPerform k) s = .next s)

/-! ## Guards and frames (R57, R71, R167) -/

/-- R57: a false guard makes a slot operation a no-op. In slots va and vb, and for the vector forms of slot ms, that is a
mask without a true lane; elsewhere a false bit 0. GUARD 0 is always true and its inversion never. -/
def Obligations.FalseGuardIsANoOp : Prop :=
  ∀ (s : State) (i : Instr) (f : Form) (c : Ctl), i.form = some (f, c) →
    (s.guardMask c = 0 → exec i s = .next s) ∧
    ((s.guardMask c).getLsbD 0 = false → ¬(0x200 ≤ f.opc.toNat ∧ f.opc.toNat ≤ 0x22A) →
      f.opc.toNat ∉ [0x143, 0x144, 0x145, 0x146, 0x147, 0x148, 0x149] → exec i s = .next s) ∧
    (s.core.cur.latched = false → c.guard = 0 → s.guardMask c = if c.gneg then 0 else BitVec.allOnes 64) ∧
    (s.core.cur.latched = false → ∀ j < 64, (s.guardMask c).getLsbD j =
      ((s.core.pphys (if c.guard < 8 then c.guard.toNat else 8 + (c.guard.toNat - 8 + (s.core.special 9).toNat) % 8)).getLsbD j
        != c.gneg))

/-- R71, R155, R167, R182: an operation of the scalar or the vector class that goes on changes no register, no memory
and no engine state at its issue: it adds at most one result to the landing queue, and that result names the
destination of the operation's d position (the special register of MSR), mapped through the bases at its issue. VPACK and
VQNT alone move the rounding counter. A VEXTR whose lane has a false guard bit writes nothing (R198). -/
def Obligations.ScalarAndVectorFrame : Prop :=
  ∀ (s u : State) (i : Instr) (f : Form) (c : Ctl), i.form = some (f, c) →
    (f.opc.toNat ≤ 0x030 ∨ (0x200 ≤ f.opc.toNat ∧ f.opc.toNat ≤ 0x22A)) → exec i s = .next u →
    (∀ k, u.byteAt k = s.byteAt k) ∧
    u.core.s = s.core.s ∧ u.core.v = s.core.v ∧ u.core.p = s.core.p ∧ u.core.spr = s.core.spr ∧
    u.core.acc = s.core.acc ∧ u.core.tiles = s.core.tiles ∧ u.core.planes = s.core.planes ∧
    u.core.sm = s.core.sm ∧ u.core.qtab = s.core.qtab ∧ u.core.cb = s.core.cb ∧ u.core.db = s.core.db ∧
    u.core.shadow = s.core.shadow ∧ u.core.gate = s.core.gate ∧ u.core.next = s.core.next ∧ u.core.pend = s.core.pend ∧
    u.core.jobs = s.core.jobs ∧ u.core.copies = s.core.copies ∧
    (f.opc.toNat ≠ 0x225 → f.opc.toNat ≠ 0x227 → u.core.scarab = s.core.scarab) ∧
    u.core.scarab = { s.core.scarab with rctr := u.core.scarab.rctr } ∧
    (∀ e, e ≠ s.me → u.coreAt e = s.coreAt e) ∧ u.dies = s.dies ∧ u.cycle = s.cycle ∧
    ∃ ls : List Landing, u.core.land = s.core.land ++ ls ∧ ls.length ≤ 1 ∧ ∀ l ∈ ls, s.cycle < l.due ∧
      ((∃ d a b x, i = .vextr c d a b x) ∧ l.writes = [] ∨ ∃ w, l.writes = [w] ∧
      (f.opc.toNat = 0x030 → w.kind = .special ∧ w.idx = f.bc.toNat) ∧
      (f.opc.toNat ≠ 0x030 →
        (f.d.toNat < 0x20 → w.kind = .scalar ∧ w.idx = f.d.toNat) ∧
        (0x20 ≤ f.d.toNat → f.d.toNat < 0x28 → w.kind = .push ∧ w.idx = f.d.toNat - 0x20) ∧
        (0x28 ≤ f.d.toNat → f.d.toNat < 0x40 → w.kind = .pred ∧ w.idx = pPhys s.bases.2 (f.d.toNat - 0x28)) ∧
        (0x40 ≤ f.d.toNat → w.kind = .vector ∧ w.idx = vPhys s.bases.1 (f.d.toNat - 0x40))))

/-! ## Rounding (R100, R112, R113) -/

/-- R100, R101, R112, R113: rounding without FTZ or SAT. A value of at most the largest finite magnitude becomes a finite
value of its sign; towards zero, up or down it is the nearest on that side, and to nearest no finite value of the format
lies closer, a tie going to the pattern whose lowest bit is 0. Beyond that magnitude a directed mode gives the largest
finite value or, away from zero, infinity where the format has one. -/
def Obligations.RoundingGivesANeighbour : Prop :=
  ∀ (f : FFmt) (mode : RMode) (neg : Bool) (m : Nat) (e : Int), m ≠ 0 → mode ≠ .rsr →
    let p := roundF f mode false false 0 (.fin neg m e)
    let v := valueOf neg m e
    let finite := fun (q : Nat) (x : ℚ) => ∃ g k n, decodeF f false q = .fin g k n ∧ x = valueOf g k n
    ∃ top : ℚ, finite f.maxFinite top ∧ (∀ q x, finite q x → |x| ≤ top) ∧
      (|v| ≤ top → ∃ k n, decodeF f false p = .fin neg k n ∧
        (mode = .rtz → |valueOf neg k n| ≤ |v| ∧ ∀ q x, finite q x → |x| ≤ |v| → |x| ≤ |valueOf neg k n|) ∧
        (mode = .rup → v ≤ valueOf neg k n ∧ ∀ q x, finite q x → v ≤ x → valueOf neg k n ≤ x) ∧
        (mode = .rdn → valueOf neg k n ≤ v ∧ ∀ q x, finite q x → x ≤ v → x ≤ valueOf neg k n) ∧
        (mode = .rne → ∀ q x, finite q x → |valueOf neg k n - v| ≤ |x - v| ∧
          (x ≠ valueOf neg k n → |valueOf neg k n - v| = |x - v| → p % 2 = 0))) ∧
      (top < |v| →
        (mode = .rtz ∨ (mode = .rup ∧ neg = true) ∨ (mode = .rdn ∧ neg = false) ∨ f.hasInf = false →
          ∃ k n, decodeF f false p = .fin neg k n ∧ |valueOf neg k n| = top) ∧
        ((mode = .rup ∧ neg = false) ∨ (mode = .rdn ∧ neg = true) → f.hasInf = true → decodeF f false p = .inf neg))

/-! ## Reset and the invariant (R5, R148 to R151, R241, R312, R394, R425, R450) -/

/-- R5, R149, R241, R312, R394, R425, R450: package reset leaves every core idle with its special registers, barriers,
queues and engines at zero and not in supervisor mode, every cluster and die at zero with SCHEDCFG.BASE at 31, no
partition, every band on, the power limit at 2400 W, the cycle counter at zero and no firmware booted; memory is in
canonical form and reads zero. That scalar, vector and predicate registers, and memory outside the SRAMs, hold zero is
the model's choice (log entries 3 and 4). -/
def Obligations.ResetIsAsStated : Prop :=
  let s := State.reset
  (∀ e, (s.coreAt e).run = .idle 0 ∧ (∀ i, s.readSpecial e i = if i = 5 then BitVec.ofNat 64 (e % 144) else 0) ∧
    (s.coreAt e).sup = false ∧ (∀ n, (s.coreAt e).sreg n = 0) ∧ (∀ n, (s.coreAt e).vphys n = 0) ∧
    (∀ n, (s.coreAt e).pphys n = if n = 0 then BitVec.allOnes 64 else 0) ∧
    (∀ j, Store.get 0 (s.coreAt e).db j = 0 ∧ Store.get 0 (s.coreAt e).qtab j = 0 ∧ Store.get 0 (s.coreAt e).tiles j = 0 ∧
      Store.get 0 (s.coreAt e).pm j = 0) ∧
    (s.coreAt e).land = [] ∧ (s.coreAt e).pend = [] ∧ (s.coreAt e).jobs = [] ∧ (s.coreAt e).copies = [] ∧
    (s.coreAt e).mantisSeq = 0) ∧ s.pkg.ctrw = [] ∧ (∀ d, (s.dieAt d).owed = [] ∧ (s.dieAt d).orphans = []) ∧
  (∀ d, (s.dieAt d).schedcfg = 31 ∧ (s.dieAt d).kvcfg = 0 ∧ (s.dieAt d).errcnt = [] ∧ (s.dieAt d).secnt = []) ∧
  (∀ k, (s.clusterAt k).clshare = 0 ∧ (s.clusterAt k).pool = [] ∧ (s.clusterAt k).stageq = [] ∧ (s.clusterAt k).ready = []) ∧
  s.pkg.part = none ∧ s.timeBase = none ∧ s.pkg.grid = none ∧ s.pkg.launchq = [] ∧ s.pkg.booted = false ∧
  s.pkg.bands = [] ∧ s.pkg.pwrlim = 2400 ∧ s.cycle = 0 ∧
  Memory.wf s.mem = true ∧ ∀ k, Memory.get s.mem k = 0

/-- The invariant of the memory: whatever step the machine takes, the list of its bytes keeps strictly rising addresses
and lists no byte that is zero, which is what an unlisted address reads as (log entry 4), so that equal memories are
equal lists; and the part's fuses stay as they are (R24). -/
def Obligations.MemoryFormIsKept : Prop :=
  ∀ s t : State, Memory.wf s.mem = true → step s = .next t → Memory.wf t.mem = true ∧ t.fuses = s.fuses
end

