-- ==== Sys2Proof/Laws/Store.lean ====
section
/-! SUPPORT. Laws of the sparse store: read after write, and that every operation keeps the canonical form. -/

namespace Sys2Proof.Store

variable {α : Type}

@[simp] theorem get_nil (d : α) (n : Nat) : get d [] n = d := rfl

theorem get_erase (d : α) (m : Store α) (n k : Nat) : get d (erase m n) k = if k = n then d else get d m k := by
  induction m with
  | nil => simp [erase]
  | cons x m ih =>
    obtain ⟨j, v⟩ := x
    by_cases h : j = n
    · subst h
      by_cases h' : k = j
      · subst h'; simpa [erase] using ih
      · simp [erase, ih, get, h', Ne.symm h']
    · by_cases h' : j = k
      · subst h'; simp [erase, h, get]
      · simp [erase, h, get, h', ih]

theorem get_insert (d : α) (m : Store α) (n k : Nat) (x : α) (h' : ∀ y ∈ m, y.1 ≠ n) :
    get d (insert m n x) k = if k = n then x else get d m k := by
  induction m with
  | nil => by_cases hk : n = k <;> simp [insert, get, hk, eq_comm]
  | cons y m ih =>
    obtain ⟨j, v⟩ := y
    have hj : j ≠ n := h' (j, v) (by simp)
    have hm : ∀ y ∈ m, y.1 ≠ n := fun y hy => h' y (by simp [hy])
    unfold insert
    split
    · by_cases hk : n = k <;> simp [get, hk, eq_comm]
    · by_cases hk : j = k
      · subst hk; simp [get, hj]
      · simp [get, hk, ih hm]

theorem mem_erase (m : Store α) (n : Nat) (y : Nat × α) (h : y ∈ erase m n) : y ∈ m ∧ y.1 ≠ n := by
  induction m with
  | nil => simp [erase] at h
  | cons x m ih =>
    obtain ⟨j, v⟩ := x
    unfold erase at h
    split at h
    · exact ⟨List.mem_cons_of_mem _ (ih h).1, (ih h).2⟩
    · rcases List.mem_cons.mp h with rfl | h
      · exact ⟨List.mem_cons_self, by assumption⟩
      · exact ⟨List.mem_cons_of_mem _ (ih h).1, (ih h).2⟩

/-- Read after write: the key written holds the value, every other key holds what it held. -/
theorem get_set [DecidableEq α] (d : α) (m : Store α) (n k : Nat) (x : α) :
    get d (set d m n x) k = if k = n then x else get d m k := by
  have hm : ∀ y ∈ erase m n, y.1 ≠ n := fun y hy => (mem_erase m n y hy).2
  unfold set
  split
  · rename_i h; rw [get_erase, h]
  · rw [get_insert d _ n k x hm, get_erase]
    by_cases hk : k = n <;> simp [hk]

@[simp] theorem get_set_self [DecidableEq α] (d : α) (m : Store α) (n : Nat) (x : α) : get d (set d m n x) n = x := by
  simp [get_set]

theorem get_set_ne [DecidableEq α] (d : α) (m : Store α) {n k : Nat} (x : α) (h : k ≠ n) :
    get d (set d m n x) k = get d m k := by simp [get_set, h]

/-! ## The canonical form -/

/-- The form as a statement about all pairs: keys rise and no pair holds the default. -/
theorem wf_iff [DecidableEq α] (d : α) (m : Store α) :
    wf d m = true ↔ (m.Pairwise fun x y => x.1 < y.1) ∧ ∀ x ∈ m, x.2 ≠ d := by
  induction m with
  | nil => simp [wf]
  | cons x m ih =>
    obtain ⟨k, v⟩ := x
    cases m with
    | nil => simp [wf]
    | cons y m =>
      obtain ⟨j, w⟩ := y
      simp only [wf, Bool.and_eq_true, decide_eq_true_eq, ih, List.pairwise_cons, List.mem_cons]
      constructor
      · rintro ⟨⟨hv, hk⟩, ⟨hj, hm⟩, hd⟩
        refine ⟨⟨?_, hj, hm⟩, ?_⟩
        · rintro z (rfl | hz)
          · exact hk
          · exact hk.trans (hj z hz)
        · rintro z (rfl | hz)
          · exact hv
          · exact hd z hz
      · rintro ⟨⟨hk, hj, hm⟩, hd⟩
        exact ⟨⟨hd _ (.inl rfl), hk _ (.inl rfl)⟩, ⟨hj, hm⟩, fun z hz => hd z (.inr hz)⟩

theorem erase_eq_filter (m : Store α) (n : Nat) : erase m n = m.filter fun x => x.1 ≠ n := by
  induction m with
  | nil => rfl
  | cons x m ih =>
    obtain ⟨k, v⟩ := x
    by_cases h : k = n <;> simp [erase, h, ih]

theorem wf_erase [DecidableEq α] (d : α) (m : Store α) (n : Nat) (h : wf d m = true) : wf d (erase m n) = true := by
  rw [wf_iff] at *
  rw [erase_eq_filter]
  exact ⟨h.1.filter _, fun x hx => h.2 x (List.mem_filter.mp hx).1⟩

theorem mem_insert (m : Store α) (n : Nat) (x : α) (y : Nat × α) : y ∈ insert m n x ↔ y = (n, x) ∨ y ∈ m := by
  induction m with
  | nil => simp [insert]
  | cons z m ih =>
    unfold insert
    split
    · simp
    · simp only [List.mem_cons, ih]; tauto

theorem wf_insert [DecidableEq α] (d : α) (m : Store α) (n : Nat) (x : α) (hx : x ≠ d) (hn : ∀ y ∈ m, y.1 ≠ n)
    (h : wf d m = true) : wf d (insert m n x) = true := by
  rw [wf_iff] at *
  obtain ⟨hp, hd⟩ := h
  refine ⟨?_, ?_⟩
  · induction m with
    | nil => simp [insert]
    | cons z m ih =>
      obtain ⟨k, v⟩ := z
      rw [List.pairwise_cons] at hp
      unfold insert
      split
      · rename_i hk
        rw [List.pairwise_cons]
        refine ⟨?_, List.pairwise_cons.mpr hp⟩
        intro y hy
        rcases List.mem_cons.mp hy with rfl | hy
        · exact hk
        · exact hk.trans (hp.1 y hy)
      · rename_i hk
        have hk' : k < n := by
          have := hn (k, v) (by simp)
          simp only at this hk
          omega
        rw [List.pairwise_cons]
        refine ⟨?_, ih (fun y hy => hn y (by simp [hy])) hp.2 (fun y hy => hd y (by simp [hy]))⟩
        intro y hy
        rcases (mem_insert m n x y).mp hy with rfl | hy
        · exact hk'
        · exact hp.1 y hy
  · intro y hy
    rcases (mem_insert m n x y).mp hy with rfl | hy
    · exact hx
    · exact hd y hy

/-- A write keeps the canonical form. -/
theorem wf_set [DecidableEq α] (d : α) (m : Store α) (n : Nat) (x : α) (h : wf d m = true) : wf d (set d m n x) = true := by
  unfold set
  split
  · exact wf_erase d m n h
  · exact wf_insert d _ n x ‹_› (fun y hy => (mem_erase m n y hy).2) (wf_erase d m n h)

/-- Dropping pairs keeps the canonical form. -/
theorem wf_filter [DecidableEq α] (d : α) (m : Store α) (p : Nat × α → Bool) (h : wf d m = true) :
    wf d (m.filter p) = true := by
  rw [wf_iff] at *
  exact ⟨h.1.filter _, fun x hx => h.2 x (List.mem_filter.mp hx).1⟩

end Sys2Proof.Store
end

