-- ==== Sys2Proof/Laws/State.lean ====
section
/-! SUPPORT. One lemma for each field of State under each of the named updates, and for what a part of the state
reads as after an update of it or of another part. -/

namespace Sys2Proof.Machine

/-! ## Fields of the state -/

@[simp] theorem State.setCoreAt_clusters (s : State) (e : Nat) (c : Core) : (s.setCoreAt e c).clusters = s.clusters := rfl
@[simp] theorem State.setCoreAt_dies (s : State) (e : Nat) (c : Core) : (s.setCoreAt e c).dies = s.dies := rfl
@[simp] theorem State.setCoreAt_pkg (s : State) (e : Nat) (c : Core) : (s.setCoreAt e c).pkg = s.pkg := rfl
@[simp] theorem State.setCoreAt_mem (s : State) (e : Nat) (c : Core) : (s.setCoreAt e c).mem = s.mem := rfl
@[simp] theorem State.setCoreAt_fuses (s : State) (e : Nat) (c : Core) : (s.setCoreAt e c).fuses = s.fuses := rfl
@[simp] theorem State.setCoreAt_cycle (s : State) (e : Nat) (c : Core) : (s.setCoreAt e c).cycle = s.cycle := rfl
@[simp] theorem State.setCoreAt_monitors (s : State) (e : Nat) (c : Core) : (s.setCoreAt e c).monitors = s.monitors := rfl
@[simp] theorem State.setCoreAt_seen (s : State) (e : Nat) (c : Core) : (s.setCoreAt e c).seen = s.seen := rfl
@[simp] theorem State.setCoreAt_me (s : State) (e : Nat) (c : Core) : (s.setCoreAt e c).me = s.me := rfl
@[simp] theorem State.setCoreAt_pass (s : State) (e : Nat) (c : Core) : (s.setCoreAt e c).pass = s.pass := rfl
@[simp] theorem State.setCoreAt_agenda (s : State) (e : Nat) (c : Core) : (s.setCoreAt e c).agenda = s.agenda := rfl
@[simp] theorem State.setCoreAt_mail (s : State) (e : Nat) (c : Core) : (s.setCoreAt e c).mail = s.mail := rfl
@[simp] theorem State.setCoreAt_oracle (s : State) (e : Nat) (c : Core) : (s.setCoreAt e c).oracle = s.oracle := rfl
@[simp] theorem State.setCoreAt_free (s : State) (e : Nat) (c : Core) : (s.setCoreAt e c).free = s.free := rfl

@[simp] theorem State.modCoreAt_clusters (s : State) (e : Nat) (f : Core → Core) : (s.modCoreAt e f).clusters = s.clusters := rfl
@[simp] theorem State.modCoreAt_dies (s : State) (e : Nat) (f : Core → Core) : (s.modCoreAt e f).dies = s.dies := rfl
@[simp] theorem State.modCoreAt_pkg (s : State) (e : Nat) (f : Core → Core) : (s.modCoreAt e f).pkg = s.pkg := rfl
@[simp] theorem State.modCoreAt_mem (s : State) (e : Nat) (f : Core → Core) : (s.modCoreAt e f).mem = s.mem := rfl
@[simp] theorem State.modCoreAt_fuses (s : State) (e : Nat) (f : Core → Core) : (s.modCoreAt e f).fuses = s.fuses := rfl
@[simp] theorem State.modCoreAt_cycle (s : State) (e : Nat) (f : Core → Core) : (s.modCoreAt e f).cycle = s.cycle := rfl
@[simp] theorem State.modCoreAt_monitors (s : State) (e : Nat) (f : Core → Core) : (s.modCoreAt e f).monitors = s.monitors := rfl
@[simp] theorem State.modCoreAt_seen (s : State) (e : Nat) (f : Core → Core) : (s.modCoreAt e f).seen = s.seen := rfl
@[simp] theorem State.modCoreAt_me (s : State) (e : Nat) (f : Core → Core) : (s.modCoreAt e f).me = s.me := rfl
@[simp] theorem State.modCoreAt_pass (s : State) (e : Nat) (f : Core → Core) : (s.modCoreAt e f).pass = s.pass := rfl
@[simp] theorem State.modCoreAt_agenda (s : State) (e : Nat) (f : Core → Core) : (s.modCoreAt e f).agenda = s.agenda := rfl
@[simp] theorem State.modCoreAt_mail (s : State) (e : Nat) (f : Core → Core) : (s.modCoreAt e f).mail = s.mail := rfl
@[simp] theorem State.modCoreAt_oracle (s : State) (e : Nat) (f : Core → Core) : (s.modCoreAt e f).oracle = s.oracle := rfl
@[simp] theorem State.modCoreAt_free (s : State) (e : Nat) (f : Core → Core) : (s.modCoreAt e f).free = s.free := rfl

@[simp] theorem State.setCore_clusters (s : State) (c : Core) : (s.setCore c).clusters = s.clusters := rfl
@[simp] theorem State.setCore_dies (s : State) (c : Core) : (s.setCore c).dies = s.dies := rfl
@[simp] theorem State.setCore_pkg (s : State) (c : Core) : (s.setCore c).pkg = s.pkg := rfl
@[simp] theorem State.setCore_mem (s : State) (c : Core) : (s.setCore c).mem = s.mem := rfl
@[simp] theorem State.setCore_fuses (s : State) (c : Core) : (s.setCore c).fuses = s.fuses := rfl
@[simp] theorem State.setCore_cycle (s : State) (c : Core) : (s.setCore c).cycle = s.cycle := rfl
@[simp] theorem State.setCore_monitors (s : State) (c : Core) : (s.setCore c).monitors = s.monitors := rfl
@[simp] theorem State.setCore_seen (s : State) (c : Core) : (s.setCore c).seen = s.seen := rfl
@[simp] theorem State.setCore_me (s : State) (c : Core) : (s.setCore c).me = s.me := rfl
@[simp] theorem State.setCore_pass (s : State) (c : Core) : (s.setCore c).pass = s.pass := rfl
@[simp] theorem State.setCore_agenda (s : State) (c : Core) : (s.setCore c).agenda = s.agenda := rfl
@[simp] theorem State.setCore_mail (s : State) (c : Core) : (s.setCore c).mail = s.mail := rfl
@[simp] theorem State.setCore_oracle (s : State) (c : Core) : (s.setCore c).oracle = s.oracle := rfl
@[simp] theorem State.setCore_free (s : State) (c : Core) : (s.setCore c).free = s.free := rfl

@[simp] theorem State.modCore_clusters (s : State) (f : Core → Core) : (s.modCore f).clusters = s.clusters := rfl
@[simp] theorem State.modCore_dies (s : State) (f : Core → Core) : (s.modCore f).dies = s.dies := rfl
@[simp] theorem State.modCore_pkg (s : State) (f : Core → Core) : (s.modCore f).pkg = s.pkg := rfl
@[simp] theorem State.modCore_mem (s : State) (f : Core → Core) : (s.modCore f).mem = s.mem := rfl
@[simp] theorem State.modCore_fuses (s : State) (f : Core → Core) : (s.modCore f).fuses = s.fuses := rfl
@[simp] theorem State.modCore_cycle (s : State) (f : Core → Core) : (s.modCore f).cycle = s.cycle := rfl
@[simp] theorem State.modCore_monitors (s : State) (f : Core → Core) : (s.modCore f).monitors = s.monitors := rfl
@[simp] theorem State.modCore_seen (s : State) (f : Core → Core) : (s.modCore f).seen = s.seen := rfl
@[simp] theorem State.modCore_me (s : State) (f : Core → Core) : (s.modCore f).me = s.me := rfl
@[simp] theorem State.modCore_pass (s : State) (f : Core → Core) : (s.modCore f).pass = s.pass := rfl
@[simp] theorem State.modCore_agenda (s : State) (f : Core → Core) : (s.modCore f).agenda = s.agenda := rfl
@[simp] theorem State.modCore_mail (s : State) (f : Core → Core) : (s.modCore f).mail = s.mail := rfl
@[simp] theorem State.modCore_oracle (s : State) (f : Core → Core) : (s.modCore f).oracle = s.oracle := rfl
@[simp] theorem State.modCore_free (s : State) (f : Core → Core) : (s.modCore f).free = s.free := rfl

@[simp] theorem State.modCluster_cores (s : State) (k : Nat) (f : Cluster → Cluster) : (s.modCluster k f).cores = s.cores := rfl
@[simp] theorem State.modCluster_dies (s : State) (k : Nat) (f : Cluster → Cluster) : (s.modCluster k f).dies = s.dies := rfl
@[simp] theorem State.modCluster_pkg (s : State) (k : Nat) (f : Cluster → Cluster) : (s.modCluster k f).pkg = s.pkg := rfl
@[simp] theorem State.modCluster_mem (s : State) (k : Nat) (f : Cluster → Cluster) : (s.modCluster k f).mem = s.mem := rfl
@[simp] theorem State.modCluster_fuses (s : State) (k : Nat) (f : Cluster → Cluster) : (s.modCluster k f).fuses = s.fuses := rfl
@[simp] theorem State.modCluster_cycle (s : State) (k : Nat) (f : Cluster → Cluster) : (s.modCluster k f).cycle = s.cycle := rfl
@[simp] theorem State.modCluster_monitors (s : State) (k : Nat) (f : Cluster → Cluster) : (s.modCluster k f).monitors = s.monitors := rfl
@[simp] theorem State.modCluster_seen (s : State) (k : Nat) (f : Cluster → Cluster) : (s.modCluster k f).seen = s.seen := rfl
@[simp] theorem State.modCluster_me (s : State) (k : Nat) (f : Cluster → Cluster) : (s.modCluster k f).me = s.me := rfl
@[simp] theorem State.modCluster_pass (s : State) (k : Nat) (f : Cluster → Cluster) : (s.modCluster k f).pass = s.pass := rfl
@[simp] theorem State.modCluster_agenda (s : State) (k : Nat) (f : Cluster → Cluster) : (s.modCluster k f).agenda = s.agenda := rfl
@[simp] theorem State.modCluster_mail (s : State) (k : Nat) (f : Cluster → Cluster) : (s.modCluster k f).mail = s.mail := rfl
@[simp] theorem State.modCluster_oracle (s : State) (k : Nat) (f : Cluster → Cluster) : (s.modCluster k f).oracle = s.oracle := rfl
@[simp] theorem State.modCluster_free (s : State) (k : Nat) (f : Cluster → Cluster) : (s.modCluster k f).free = s.free := rfl

@[simp] theorem State.modDie_cores (s : State) (d : Nat) (f : Die → Die) : (s.modDie d f).cores = s.cores := rfl
@[simp] theorem State.modDie_clusters (s : State) (d : Nat) (f : Die → Die) : (s.modDie d f).clusters = s.clusters := rfl
@[simp] theorem State.modDie_pkg (s : State) (d : Nat) (f : Die → Die) : (s.modDie d f).pkg = s.pkg := rfl
@[simp] theorem State.modDie_mem (s : State) (d : Nat) (f : Die → Die) : (s.modDie d f).mem = s.mem := rfl
@[simp] theorem State.modDie_fuses (s : State) (d : Nat) (f : Die → Die) : (s.modDie d f).fuses = s.fuses := rfl
@[simp] theorem State.modDie_cycle (s : State) (d : Nat) (f : Die → Die) : (s.modDie d f).cycle = s.cycle := rfl
@[simp] theorem State.modDie_monitors (s : State) (d : Nat) (f : Die → Die) : (s.modDie d f).monitors = s.monitors := rfl
@[simp] theorem State.modDie_seen (s : State) (d : Nat) (f : Die → Die) : (s.modDie d f).seen = s.seen := rfl
@[simp] theorem State.modDie_me (s : State) (d : Nat) (f : Die → Die) : (s.modDie d f).me = s.me := rfl
@[simp] theorem State.modDie_pass (s : State) (d : Nat) (f : Die → Die) : (s.modDie d f).pass = s.pass := rfl
@[simp] theorem State.modDie_agenda (s : State) (d : Nat) (f : Die → Die) : (s.modDie d f).agenda = s.agenda := rfl
@[simp] theorem State.modDie_mail (s : State) (d : Nat) (f : Die → Die) : (s.modDie d f).mail = s.mail := rfl
@[simp] theorem State.modDie_oracle (s : State) (d : Nat) (f : Die → Die) : (s.modDie d f).oracle = s.oracle := rfl
@[simp] theorem State.modDie_free (s : State) (d : Nat) (f : Die → Die) : (s.modDie d f).free = s.free := rfl

@[simp] theorem State.modPkg_cores (s : State) (f : Package → Package) : (s.modPkg f).cores = s.cores := rfl
@[simp] theorem State.modPkg_clusters (s : State) (f : Package → Package) : (s.modPkg f).clusters = s.clusters := rfl
@[simp] theorem State.modPkg_dies (s : State) (f : Package → Package) : (s.modPkg f).dies = s.dies := rfl
@[simp] theorem State.modPkg_mem (s : State) (f : Package → Package) : (s.modPkg f).mem = s.mem := rfl
@[simp] theorem State.modPkg_fuses (s : State) (f : Package → Package) : (s.modPkg f).fuses = s.fuses := rfl
@[simp] theorem State.modPkg_cycle (s : State) (f : Package → Package) : (s.modPkg f).cycle = s.cycle := rfl
@[simp] theorem State.modPkg_monitors (s : State) (f : Package → Package) : (s.modPkg f).monitors = s.monitors := rfl
@[simp] theorem State.modPkg_seen (s : State) (f : Package → Package) : (s.modPkg f).seen = s.seen := rfl
@[simp] theorem State.modPkg_me (s : State) (f : Package → Package) : (s.modPkg f).me = s.me := rfl
@[simp] theorem State.modPkg_pass (s : State) (f : Package → Package) : (s.modPkg f).pass = s.pass := rfl
@[simp] theorem State.modPkg_agenda (s : State) (f : Package → Package) : (s.modPkg f).agenda = s.agenda := rfl
@[simp] theorem State.modPkg_mail (s : State) (f : Package → Package) : (s.modPkg f).mail = s.mail := rfl
@[simp] theorem State.modPkg_oracle (s : State) (f : Package → Package) : (s.modPkg f).oracle = s.oracle := rfl
@[simp] theorem State.modPkg_free (s : State) (f : Package → Package) : (s.modPkg f).free = s.free := rfl

@[simp] theorem State.modPkg_pkg (s : State) (f : Package → Package) : (s.modPkg f).pkg = f s.pkg := rfl

/-! ## Cores, clusters and dies read back -/

theorem State.coreAt_setCoreAt (s : State) (e k : Nat) (c : Core) :
    (s.setCoreAt e c).coreAt k = if k = e then c else s.coreAt k := Store.get_set ..
theorem State.coreAt_modCoreAt (s : State) (e k : Nat) (f : Core → Core) :
    (s.modCoreAt e f).coreAt k = if k = e then f (s.coreAt e) else s.coreAt k := Store.get_set ..
@[simp] theorem State.coreAt_setCoreAt_self (s : State) (e : Nat) (c : Core) : (s.setCoreAt e c).coreAt e = c := by
  simp [State.coreAt_setCoreAt]
@[simp] theorem State.coreAt_modCoreAt_self (s : State) (e : Nat) (f : Core → Core) :
    (s.modCoreAt e f).coreAt e = f (s.coreAt e) := by simp [State.coreAt_modCoreAt]
@[simp] theorem State.core_modCore (s : State) (f : Core → Core) : (s.modCore f).core = f s.core :=
  State.coreAt_modCoreAt_self s s.me f
@[simp] theorem State.core_setCore (s : State) (c : Core) : (s.setCore c).core = c :=
  State.coreAt_setCoreAt_self s s.me c
theorem State.coreAt_modCore_ne (s : State) (f : Core → Core) {e : Nat} (h : e ≠ s.me) :
    (s.modCore f).coreAt e = s.coreAt e := by simp [State.modCore, State.coreAt_modCoreAt, h]

@[simp] theorem State.coreAt_modCluster (s : State) (k e : Nat) (f : Cluster → Cluster) :
    (s.modCluster k f).coreAt e = s.coreAt e := rfl
@[simp] theorem State.coreAt_modDie (s : State) (d e : Nat) (f : Die → Die) : (s.modDie d f).coreAt e = s.coreAt e := rfl
@[simp] theorem State.coreAt_modPkg (s : State) (e : Nat) (f : Package → Package) :
    (s.modPkg f).coreAt e = s.coreAt e := rfl
@[simp] theorem State.core_modCluster (s : State) (k : Nat) (f : Cluster → Cluster) : (s.modCluster k f).core = s.core := rfl
@[simp] theorem State.core_modDie (s : State) (d : Nat) (f : Die → Die) : (s.modDie d f).core = s.core := rfl
@[simp] theorem State.core_modPkg (s : State) (f : Package → Package) : (s.modPkg f).core = s.core := rfl

theorem State.clusterAt_modCluster (s : State) (k j : Nat) (f : Cluster → Cluster) :
    (s.modCluster k f).clusterAt j = if j = k then f (s.clusterAt k) else s.clusterAt j := Store.get_set ..
@[simp] theorem State.clusterAt_modCluster_self (s : State) (k : Nat) (f : Cluster → Cluster) :
    (s.modCluster k f).clusterAt k = f (s.clusterAt k) := by simp [State.clusterAt_modCluster]
@[simp] theorem State.clusterAt_modCore (s : State) (k : Nat) (f : Core → Core) : (s.modCore f).clusterAt k = s.clusterAt k :=
  rfl
@[simp] theorem State.clusterAt_modCoreAt (s : State) (e k : Nat) (f : Core → Core) :
    (s.modCoreAt e f).clusterAt k = s.clusterAt k := rfl
@[simp] theorem State.clusterAt_modDie (s : State) (d k : Nat) (f : Die → Die) :
    (s.modDie d f).clusterAt k = s.clusterAt k := rfl
@[simp] theorem State.clusterAt_modPkg (s : State) (k : Nat) (f : Package → Package) :
    (s.modPkg f).clusterAt k = s.clusterAt k := rfl

theorem State.dieAt_modDie (s : State) (d j : Nat) (f : Die → Die) :
    (s.modDie d f).dieAt j = if j = d then f (s.dieAt d) else s.dieAt j := Store.get_set ..
@[simp] theorem State.dieAt_modDie_self (s : State) (d : Nat) (f : Die → Die) :
    (s.modDie d f).dieAt d = f (s.dieAt d) := by simp [State.dieAt_modDie]
@[simp] theorem State.dieAt_modCore (s : State) (d : Nat) (f : Core → Core) : (s.modCore f).dieAt d = s.dieAt d := rfl
@[simp] theorem State.dieAt_modCoreAt (s : State) (e d : Nat) (f : Core → Core) :
    (s.modCoreAt e f).dieAt d = s.dieAt d := rfl
@[simp] theorem State.dieAt_modCluster (s : State) (k d : Nat) (f : Cluster → Cluster) :
    (s.modCluster k f).dieAt d = s.dieAt d := rfl
@[simp] theorem State.dieAt_modPkg (s : State) (d : Nat) (f : Package → Package) : (s.modPkg f).dieAt d = s.dieAt d := rfl

/-! ## Special registers of a core -/

theorem Core.special_setSpecial (c : Core) (i j : Nat) (x : Word) :
    (c.setSpecial i x).special j = if j = i then x else c.special j := Store.get_set ..
@[simp] theorem Core.special_setSpecial_self (c : Core) (i : Nat) (x : Word) : (c.setSpecial i x).special i = x := by
  simp [Core.special_setSpecial]

@[simp] theorem Core.setSpecial_run (c : Core) (i : Nat) (x : Word) : (c.setSpecial i x).run = c.run := rfl
@[simp] theorem Core.setSpecial_info (c : Core) (i : Nat) (x : Word) : (c.setSpecial i x).info = c.info := rfl
@[simp] theorem Core.setSpecial_start (c : Core) (i : Nat) (x : Word) : (c.setSpecial i x).start = c.start := rfl
@[simp] theorem Core.setSpecial_s (c : Core) (i : Nat) (x : Word) : (c.setSpecial i x).s = c.s := rfl
@[simp] theorem Core.setSpecial_v (c : Core) (i : Nat) (x : Word) : (c.setSpecial i x).v = c.v := rfl
@[simp] theorem Core.setSpecial_p (c : Core) (i : Nat) (x : Word) : (c.setSpecial i x).p = c.p := rfl
@[simp] theorem Core.setSpecial_pc (c : Core) (i : Nat) (x : Word) : (c.setSpecial i x).pc = c.pc := rfl
@[simp] theorem Core.setSpecial_nextIssue (c : Core) (i : Nat) (x : Word) : (c.setSpecial i x).nextIssue = c.nextIssue := rfl
@[simp] theorem Core.setSpecial_rep (c : Core) (i : Nat) (x : Word) : (c.setSpecial i x).rep = c.rep := rfl
@[simp] theorem Core.setSpecial_issues (c : Core) (i : Nat) (x : Word) : (c.setSpecial i x).issues = c.issues := rfl
@[simp] theorem Core.setSpecial_lastIssue (c : Core) (i : Nat) (x : Word) : (c.setSpecial i x).lastIssue = c.lastIssue := rfl
@[simp] theorem Core.setSpecial_db (c : Core) (i : Nat) (x : Word) : (c.setSpecial i x).db = c.db := rfl
@[simp] theorem Core.setSpecial_cb (c : Core) (i : Nat) (x : Word) : (c.setSpecial i x).cb = c.cb := rfl
@[simp] theorem Core.setSpecial_rot (c : Core) (i : Nat) (x : Word) : (c.setSpecial i x).rot = c.rot := rfl
@[simp] theorem Core.setSpecial_qtab (c : Core) (i : Nat) (x : Word) : (c.setSpecial i x).qtab = c.qtab := rfl
@[simp] theorem Core.setSpecial_streams (c : Core) (i : Nat) (x : Word) : (c.setSpecial i x).streams = c.streams := rfl
@[simp] theorem Core.setSpecial_sm (c : Core) (i : Nat) (x : Word) : (c.setSpecial i x).sm = c.sm := rfl
@[simp] theorem Core.setSpecial_tiles (c : Core) (i : Nat) (x : Word) : (c.setSpecial i x).tiles = c.tiles := rfl
@[simp] theorem Core.setSpecial_acc (c : Core) (i : Nat) (x : Word) : (c.setSpecial i x).acc = c.acc := rfl
@[simp] theorem Core.setSpecial_planes (c : Core) (i : Nat) (x : Word) : (c.setSpecial i x).planes = c.planes := rfl
@[simp] theorem Core.setSpecial_active (c : Core) (i : Nat) (x : Word) : (c.setSpecial i x).active = c.active := rfl
@[simp] theorem Core.setSpecial_land (c : Core) (i : Nat) (x : Word) : (c.setSpecial i x).land = c.land := rfl
@[simp] theorem Core.setSpecial_gate (c : Core) (i : Nat) (x : Word) : (c.setSpecial i x).gate = c.gate := rfl
@[simp] theorem Core.setSpecial_gateClosed (c : Core) (i : Nat) (x : Word) : (c.setSpecial i x).gateClosed = c.gateClosed := rfl
@[simp] theorem Core.setSpecial_marked (c : Core) (i : Nat) (x : Word) : (c.setSpecial i x).marked = c.marked := rfl
@[simp] theorem Core.setSpecial_shadow (c : Core) (i : Nat) (x : Word) : (c.setSpecial i x).shadow = c.shadow := rfl
@[simp] theorem Core.setSpecial_sticky (c : Core) (i : Nat) (x : Word) : (c.setSpecial i x).sticky = c.sticky := rfl
@[simp] theorem Core.setSpecial_held (c : Core) (i : Nat) (x : Word) : (c.setSpecial i x).held = c.held := rfl
@[simp] theorem Core.setSpecial_pend (c : Core) (i : Nat) (x : Word) : (c.setSpecial i x).pend = c.pend := rfl
@[simp] theorem Core.setSpecial_jobs (c : Core) (i : Nat) (x : Word) : (c.setSpecial i x).jobs = c.jobs := rfl
@[simp] theorem Core.setSpecial_copies (c : Core) (i : Nat) (x : Word) : (c.setSpecial i x).copies = c.copies := rfl
@[simp] theorem Core.setSpecial_lastq (c : Core) (i : Nat) (x : Word) : (c.setSpecial i x).lastq = c.lastq := rfl
@[simp] theorem Core.setSpecial_scarab (c : Core) (i : Nat) (x : Word) : (c.setSpecial i x).scarab = c.scarab := rfl
@[simp] theorem Core.setSpecial_cache (c : Core) (i : Nat) (x : Word) : (c.setSpecial i x).cache = c.cache := rfl
@[simp] theorem Core.setSpecial_backing (c : Core) (i : Nat) (x : Word) : (c.setSpecial i x).backing = c.backing := rfl
@[simp] theorem Core.setSpecial_tlb (c : Core) (i : Nat) (x : Word) : (c.setSpecial i x).tlb = c.tlb := rfl
@[simp] theorem Core.setSpecial_mantisSeq (c : Core) (i : Nat) (x : Word) : (c.setSpecial i x).mantisSeq = c.mantisSeq := rfl
@[simp] theorem Core.setSpecial_wait (c : Core) (i : Nat) (x : Word) : (c.setSpecial i x).wait = c.wait := rfl
@[simp] theorem Core.setSpecial_waitOp (c : Core) (i : Nat) (x : Word) : (c.setSpecial i x).waitOp = c.waitOp := rfl
@[simp] theorem Core.setSpecial_mwait (c : Core) (i : Nat) (x : Word) : (c.setSpecial i x).mwait = c.mwait := rfl
@[simp] theorem Core.setSpecial_mwaitOp (c : Core) (i : Nat) (x : Word) : (c.setSpecial i x).mwaitOp = c.mwaitOp := rfl
@[simp] theorem Core.setSpecial_pm (c : Core) (i : Nat) (x : Word) : (c.setSpecial i x).pm = c.pm := rfl
@[simp] theorem Core.setSpecial_nextId (c : Core) (i : Nat) (x : Word) : (c.setSpecial i x).nextId = c.nextId := rfl
@[simp] theorem Core.setSpecial_cur (c : Core) (i : Nat) (x : Word) : (c.setSpecial i x).cur = c.cur := rfl
@[simp] theorem Core.setSpecial_todo (c : Core) (i : Nat) (x : Word) : (c.setSpecial i x).todo = c.todo := rfl
@[simp] theorem Core.setSpecial_raised (c : Core) (i : Nat) (x : Word) : (c.setSpecial i x).raised = c.raised := rfl
@[simp] theorem Core.setSpecial_restart (c : Core) (i : Nat) (x : Word) : (c.setSpecial i x).restart = c.restart := rfl
@[simp] theorem Core.setSpecial_next (c : Core) (i : Nat) (x : Word) : (c.setSpecial i x).next = c.next := rfl
@[simp] theorem Core.setSpecial_transfer (c : Core) (i : Nat) (x : Word) : (c.setSpecial i x).transfer = c.transfer := rfl
@[simp] theorem Core.setSpecial_popped (c : Core) (i : Nat) (x : Word) : (c.setSpecial i x).popped = c.popped := rfl
@[simp] theorem Core.setSpecial_dbNow (c : Core) (i : Nat) (x : Word) : (c.setSpecial i x).dbNow = c.dbNow := rfl
@[simp] theorem Core.setSpecial_late (c : Core) (i : Nat) (x : Word) : (c.setSpecial i x).late = c.late := rfl
@[simp] theorem Core.setSpecial_marking (c : Core) (i : Nat) (x : Word) : (c.setSpecial i x).marking = c.marking := rfl
@[simp] theorem Core.setSpecial_runs (c : Core) (i : Nat) (x : Word) : (c.setSpecial i x).runs = c.runs := rfl
@[simp] theorem Core.setSpecial_tready (c : Core) (i : Nat) (x : Word) : (c.setSpecial i x).tready = c.tready := rfl
@[simp] theorem Core.setSpecial_stallTo (c : Core) (i : Nat) (x : Word) : (c.setSpecial i x).stallTo = c.stallTo := rfl
@[simp] theorem Core.setSpecial_kept (c : Core) (i : Nat) (x : Word) : (c.setSpecial i x).kept = c.kept := rfl
@[simp] theorem Core.setSpecial_thaw (c : Core) (i : Nat) (x : Word) : (c.setSpecial i x).thaw = c.thaw := rfl
@[simp] theorem Core.setSpecial_counted (c : Core) (i : Nat) (x : Word) : (c.setSpecial i x).counted = c.counted := rfl

end Sys2Proof.Machine
end

