-- ==== Sys2Proof/Laws/Memory.lean ====
section
/-! SUPPORT. What every memory operation does to the list of bytes: the canonical form is kept, a byte written is the byte
read, and no other byte of memory changes. -/

namespace Sys2Proof.Machine

/-! ## The list itself -/

theorem Memory.get_set (m : List Host.Cell) (k n : Nat) (b : Byte) :
    Memory.get (Memory.set m k b) n = if n = k then b else Memory.get m n := Store.get_set 0 m k n b

theorem Memory.wf_set (m : List Host.Cell) (k : Nat) (b : Byte) (h : Memory.wf m = true) :
    Memory.wf (Memory.set m k b) = true := Store.wf_set 0 m k b h

theorem Memory.wf_filter (m : List Host.Cell) (p : Nat → Bool) (h : Memory.wf m = true) :
    Memory.wf (m.filter fun c => p c.1) = true := Store.wf_filter 0 m (fun c => p c.1) h

theorem State.reset_wf : Memory.wf State.reset.mem = true := rfl

/-! ## Performed writes -/

/-- A byte write changes nothing but its own byte of memory. -/
theorem State.pokeByte_get (s : State) (k n : Nat) (b : Byte) :
    Memory.get (s.pokeByte k b).mem n =
      if n = k ∧ s.ignoresWrite k = false then b else Memory.get s.mem n := by
  unfold State.pokeByte
  by_cases h : s.ignoresWrite k = true
  · simp [h]
  · simp [h, Memory.get_set]

theorem State.pokeByte_wf {s : State} (h : Memory.wf s.mem = true) (k : Nat) (b : Byte) :
    Memory.wf (s.pokeByte k b).mem = true := by
  unfold State.pokeByte
  split
  · exact h
  · exact Memory.wf_set _ _ _ h

theorem State.pokeBytes_wf {s : State} (h : Memory.wf s.mem = true) (k : Nat) (bs : List Byte) :
    Memory.wf (s.pokeBytes k bs).mem = true := by
  induction bs generalizing s k with
  | nil => exact h
  | cons b bs ih => exact ih (State.pokeByte_wf h k b) (k + 1)

/-- A write of bytes leaves every byte outside them as it was. -/
theorem State.pokeBytes_get_ne (s : State) (k n : Nat) (bs : List Byte) (h : n < k ∨ k + bs.length ≤ n) :
    Memory.get (s.pokeBytes k bs).mem n = Memory.get s.mem n := by
  induction bs generalizing s k with
  | nil => rfl
  | cons b bs ih =>
    simp only [List.length_cons] at h
    have hk : n ≠ k := by omega
    rw [State.pokeBytes, ih (s.pokeByte k b) (k + 1) (by omega), State.pokeByte_get, if_neg (by simp [hk])]

theorem State.perform_mem (s : State) (o : Option Nat) (c k : Nat) (bs : List Byte) :
    (s.perform o c k bs).mem = (s.pokeBytes k bs).mem := rfl

theorem State.perform_wf {s : State} (h : Memory.wf s.mem = true) (o : Option Nat) (c k : Nat) (bs : List Byte) :
    Memory.wf (s.perform o c k bs).mem = true := State.pokeBytes_wf h k bs

/-- What holds of a state, and is kept by every step of a fold, holds at its end. -/
theorem foldl_keeps {α β : Type} (P : α → Prop) (f : α → β → α) (hf : ∀ a b, P a → P (f a b)) (l : List β) (a : α)
    (h : P a) : P (l.foldl f a) := by
  induction l generalizing a with
  | nil => exact h
  | cons b l ih => exact ih (f a b) (hf a b h)

/-- A write-back of bytes of one word writes them and nothing else of memory. -/
theorem State.performBack_mem (s : State) (e k : Nat) (bs : List (Nat × Byte)) :
    (s.performBack e k bs).mem = (bs.foldl (fun t x => t.pokeByte x.1 x.2) s).mem := by
  unfold State.performBack
  cases bs <;> rfl

theorem State.performBack_wf {s : State} (h : Memory.wf s.mem = true) (e k : Nat) (bs : List (Nat × Byte)) :
    Memory.wf (s.performBack e k bs).mem = true := by
  rw [State.performBack_mem]
  exact foldl_keeps (fun t : State => Memory.wf t.mem = true) _ (fun _ _ ht => State.pokeByte_wf ht _ _) bs s h

/-! ## A core's own view: the phase cache and the gate -/

@[simp] theorem State.cachePut_mem (s : State) (e k : Nat) (b : Byte) (d : Bool) : (s.cachePut e k b d).mem = s.mem := rfl

@[simp] theorem State.fetchCache_mem (s : State) (e w : Nat) : (s.fetchCache e w).mem = s.mem := by
  refine foldl_keeps (fun t : State => t.mem = s.mem) _ (fun t j ht => ?_) _ s rfl
  split
  · exact ht
  · exact ht

@[simp] theorem State.touch_mem (s : State) (e : Nat) (ks : List Nat) : (s.touch e ks).mem = s.mem := by
  induction ks generalizing s with
  | nil => rfl
  | cons k ks ih =>
    unfold State.touch
    rw [ih]
    split
    · rfl
    · split
      · exact State.fetchCache_mem s e _
      · split <;> rfl

/-- A read changes no memory. -/
@[simp] theorem State.coreRead_mem (s : State) (e k n : Nat) : (s.coreRead e k n).2.mem = s.mem :=
  State.touch_mem s e _

theorem State.writeBack_wf {s : State} (h : Memory.wf s.mem = true) (e n : Nat) (m : BitVec 128) :
    Memory.wf (s.writeBack e n m).mem = true :=
  foldl_keeps (fun t : State => Memory.wf t.mem = true) _ (fun _ _ ht => State.performBack_wf ht e _ _) _ s h

theorem State.backFirst_wf {s : State} (h : Memory.wf s.mem = true) (e k n : Nat) :
    Memory.wf (s.backFirst e k n).mem = true := by
  unfold State.backFirst
  extract_lets b
  split
  · exact h
  · exact State.writeBack_wf h e _ _

theorem foldl_cachePut_mem (l : List Nat) (e k : Nat) (bs : List Byte) (s : State) :
    (l.foldl (fun t j => t.cachePut e (k + j) (bs.getD j 0) true) s).mem = s.mem :=
  foldl_keeps (fun t : State => t.mem = s.mem) (fun t j => t.cachePut e (k + j) (bs.getD j 0) true) (fun _ _ h => h) l s rfl

/-- An ordinary store: a global byte stays in the phase cache, behind any older write-back of it, a local one is
performed. -/
theorem State.coreStore_mem (s : State) (e k : Nat) (bs : List Byte) :
    (s.coreStore e k bs).mem =
      if isGlobal k then (if s.ignoresWrite k then s.mem else (s.backFirst e k bs.length).mem) else (s.pokeBytes k bs).mem := by
  unfold State.coreStore
  split
  · split
    · rfl
    · exact foldl_cachePut_mem _ e k bs _
  · rfl

theorem State.coreStore_wf {s : State} (h : Memory.wf s.mem = true) (e k : Nat) (bs : List Byte) :
    Memory.wf (s.coreStore e k bs).mem = true := by
  rw [State.coreStore_mem]
  split
  · split
    · exact h
    · exact State.backFirst_wf h e k _
  · exact State.pokeBytes_wf h k bs

theorem State.performGate_wf {s : State} (h : Memory.wf s.mem = true) (e : Nat) (gs : List GateEntry) :
    Memory.wf (s.performGate e gs).mem = true := by
  induction gs generalizing s with
  | nil => exact h
  | cons g gs ih =>
    exact ih (foldl_keeps (fun t : State => Memory.wf t.mem = true) _ (fun _ _ ht => State.coreStore_wf ht e _ _) _ s h)

theorem State.commitGate_wf {s : State} (h : Memory.wf s.mem = true) (e : Nat) : Memory.wf (s.commitGate e).mem = true :=
  State.performGate_wf h e _

theorem State.flushGate_wf {s : State} (h : Memory.wf s.mem = true) (e : Nat) (ks : List Nat) :
    Memory.wf (s.flushGate e ks).mem = true := by
  unfold State.flushGate
  dsimp only
  split
  · exact h
  · exact State.performGate_wf h e _

theorem State.releaseLines_wf {s : State} (h : Memory.wf s.mem = true) (e : Nat) (sc : Scope) :
    Memory.wf (s.releaseLines e sc).mem = true := by
  refine foldl_keeps (fun t : State => Memory.wf t.mem = true) _ (fun t n ht => ?_) _ s h
  split
  · exact State.writeBack_wf ht e n _
  · split
    · exact ht
    · exact ht

theorem State.release_wf {s : State} (h : Memory.wf s.mem = true) (e : Nat) (sc : Scope) :
    Memory.wf (s.release e sc).mem = true := State.releaseLines_wf (State.commitGate_wf h e) e sc

/-- An acquire changes no memory. -/
@[simp] theorem State.acquire_mem (s : State) (e : Nat) : (s.acquire e).mem = s.mem := rfl

theorem State.performKeys_wf {s : State} (h : Memory.wf s.mem = true) (e : Nat) (ks : List Nat) :
    Memory.wf (s.performKeys e ks).mem = true := by
  induction ks generalizing s with
  | nil => exact h
  | cons k ks ih =>
    unfold State.performKeys
    refine ih ?_
    split
    · exact State.writeBack_wf h e _ _
    · exact h

/-- What leaves a core's phase cache leaves memory as it is. -/
@[simp] theorem State.dropKeys_mem (s : State) (e : Nat) (ks : List Nat) : (s.dropKeys e ks).mem = s.mem := by
  induction ks generalizing s with
  | nil => rfl
  | cons k ks ih =>
    unfold State.dropKeys
    rw [ih]
    split <;> rfl

theorem State.flushKeys_wf {s : State} (h : Memory.wf s.mem = true) (e : Nat) (ks : List Nat) :
    Memory.wf (s.flushKeys e ks).mem = true := by
  unfold State.flushKeys
  rw [State.dropKeys_mem]
  exact State.performKeys_wf h e ks

theorem State.engineRead_wf {s : State} (h : Memory.wf s.mem = true) (e : Nat) (ks : List Nat) :
    Memory.wf (s.engineRead e ks).2.mem = true := State.performKeys_wf (State.flushGate_wf h e ks) e ks

theorem State.engineWrite_wf {s : State} (h : Memory.wf s.mem = true) (e k : Nat) (bs : List Byte) (c : Nat) :
    Memory.wf (s.engineWrite e k bs c).mem = true := by
  unfold State.engineWrite
  exact State.perform_wf (State.flushKeys_wf (State.flushGate_wf h e _) e _) none c k bs

/-- What an engine writes, at whatever keys and in whatever runs, keeps the form. -/
theorem State.enginePut_wf {s : State} (h : Memory.wf s.mem = true) (e c : Nat) (ks : List Nat) (bs : List Byte) :
    Memory.wf (s.enginePut e c ks bs).mem = true :=
  foldl_keeps (fun t : State => Memory.wf t.mem = true) _ (fun _ _ ht => State.perform_wf ht none c _ _) _ _
    (State.flushKeys_wf (State.flushGate_wf h e ks) e ks)

/-! ## The device's own accesses -/

theorem State.enterRecord_mem (s : State) (k : Nat) (w : Waiter) (n : Nat) : (s.enterRecord k w n).mem = s.mem := by
  unfold State.enterRecord
  split <;> rfl

/-- Records that enter pools leave memory as it is. -/
@[simp] theorem State.enterReady_mem (s : State) (k : Nat) : (s.enterReady k).mem = s.mem := by
  refine foldl_keeps (fun t : State => t.mem = s.mem) _ (fun t w ht => ?_) _ s rfl
  split
  · exact ht
  · exact ht

theorem State.makeWrite_wf {s : State} (h : Memory.wf s.mem = true) (o : Owed) (k : Nat) :
    Memory.wf (s.makeWrite o k).mem = true := by
  unfold State.makeWrite
  split
  case h_4 =>
    extract_lets t
    split
    · exact State.perform_wf (State.perform_wf h _ _ _ _) _ _ _ _
    · exact State.perform_wf h _ _ _ _
  all_goals exact State.perform_wf h _ _ _ _

/-- What follows a device write leaves memory as it is. -/
@[simp] theorem State.afterWrite_mem (s : State) (o : Owed) : (s.afterWrite o).mem = s.mem := by
  unfold State.afterWrite
  split
  · rfl
  · rw [State.enterReady_mem]; rfl
  · rfl

theorem State.deviceWrite_wf {s : State} (h : Memory.wf s.mem = true) (d : Nat) (o : Owed) :
    Memory.wf (s.deviceWrite d o).2.mem = true := by
  unfold State.deviceWrite
  dsimp only
  split
  · exact h
  · split
    · rw [State.afterWrite_mem]; exact State.makeWrite_wf h o _
    · exact h
    · exact h

theorem State.setAllocated_wf {s : State} (h : Memory.wf s.mem = true) (d n : Nat) (x : Bool) :
    Memory.wf (s.setAllocated d n x).mem = true := by
  unfold State.setAllocated
  exact State.perform_wf h none 1 _ _

theorem State.freePage_wf {s : State} (h : Memory.wf s.mem = true) (d n : Nat) :
    Memory.wf (s.freePage d n).mem = true := by
  unfold State.freePage
  rw [State.modDie_mem]
  exact State.setAllocated_wf (State.perform_wf h none 1 _ _) d n false

/-! ## Faults and traps -/

@[simp] theorem State.raise_mem (s : State) (c : FCode) (x : Word) : (s.raise c x).mem = s.mem := rfl
@[simp] theorem State.countError_mem (s : State) (d : Nat) (c : FCode) : (s.countError d c).mem = s.mem := rfl
@[simp] theorem State.transferTo_mem (s : State) (x : Word) (b : Bool) : (s.transferTo x b).mem = s.mem := rfl

/-- The entry to the trap handler performs the gate and writes no other memory. -/
theorem State.enterTrap_wf {s : State} (h : Memory.wf s.mem = true) (e : Nat) (imm : BitVec 16) (b : Word) (n : Nat) :
    Memory.wf (s.enterTrap e imm b n).mem = true := State.commitGate_wf h e

/-- What taking an exception leaves in the core: supervisor mode, the return address, the code, the operand and the bundle,
and the handler's address as the next bundle (R142). -/
theorem State.enterTrap_core (s : State) (e : Nat) (imm : BitVec 16) (b : Word) (n : Nat) :
    let c := (s.enterTrap e imm b n).coreAt e
    c.special 31 = 1 ∧ c.special 19 = b + BitVec.ofNat 64 n ∧ c.special 16 = 0x220 ∧ c.special 17 = imm.setWidth 64 ∧
      c.special 18 = b ∧ c.sticky = [] ∧ c.pc = ((s.commitGate e).coreAt e).special 20 &&& ~~~7#64 := by
  unfold State.enterTrap
  rw [State.coreAt_modCoreAt_self]
  simp only [Core.special, Core.setSpecial, Store.get_set]
  simp

/-- What returning from one leaves: user mode and the saved address as the next bundle (R143). -/
theorem State.returnTrap_core (s : State) (e : Nat) :
    let c := (s.returnTrap e).coreAt e
    c.special 31 = 0 ∧ c.sticky = [] ∧ c.pc = (s.coreAt e).special 19 &&& ~~~7#64 := by
  unfold State.returnTrap
  rw [State.coreAt_modCoreAt_self]
  simp only [Core.special, Core.setSpecial, Store.get_set]
  simp

end Sys2Proof.Machine
end

