-- ==== Sys2Proof/Laws/Operands.lean ====
section
/-! SUPPORT. What the shared operations of the slots do: a slot that opens runs its body on the state after its pops, a
slot whose guard is false does nothing, and a result changes the landing queue alone. -/

namespace Sys2Proof.Machine

theorem State.withOperands_eq {s t : State} {rd wr : List IOp} (h : s.Takes rd wr t) (k : State → Out) :
    s.withOperands rd wr k = k t := by
  rcases h with ⟨h, rfl⟩ | ⟨h, hm, rfl⟩ <;> simp [State.withOperands, *]

theorem State.scalarSlot_eq {s t : State} {c : Ctl} {rd wr : List IOp} (h : s.Opens c rd wr t) (k : State → Out) :
    s.scalarSlot c rd wr k = k t := by
  simp [State.scalarSlot, h.1, State.withOperands_eq h.2]

theorem State.vectorSlot_eq {s t : State} {c : Ctl} {rd wr : List IOp} {m : Word} (h : s.OpensLanes c rd wr m t)
    (k : Word → State → Out) : s.vectorSlot c rd wr k = k m t := by
  obtain ⟨rfl, h0, ht⟩ := h
  unfold State.vectorSlot; rw [if_neg h0, State.withOperands_eq ht]

theorem State.scalarSlot_false {s : State} {c : Ctl} (h : (s.guardMask c).getLsbD 0 = false) (rd wr : List IOp)
    (k : State → Out) : s.scalarSlot c rd wr k = .next s := by
  unfold State.scalarSlot; rw [h]; rfl

theorem State.vectorSlot_false {s : State} {c : Ctl} (h : s.guardMask c = 0) (rd wr : List IOp)
    (k : Word → State → Out) : s.vectorSlot c rd wr k = .next s := by
  simp [State.vectorSlot, h]

@[simp] theorem qsOf_nil : qsOf [] = [] := rfl
@[simp] theorem Core.mapped_nil (k : Core) : k.mapped [] [] = true := rfl
@[simp] theorem State.popAll_nil (s : State) : s.popAll [] = s := rfl

theorem State.takes_nil {s t : State} : s.Takes [] [] t ↔ t = s := by
  unfold State.Takes
  cases s.core.cur.latched <;> simp

/-! ## Pops -/

@[simp] theorem State.popQ_me (s : State) (e n : Nat) : (s.popQ e n).2.me = s.me := by
  unfold State.popQ; dsimp only; split <;> rfl
@[simp] theorem State.popQ_mem (s : State) (e n : Nat) : (s.popQ e n).2.mem = s.mem := by
  unfold State.popQ; dsimp only; split <;> rfl
@[simp] theorem State.popQ_cycle (s : State) (e n : Nat) : (s.popQ e n).2.cycle = s.cycle := by
  unfold State.popQ; dsimp only; split <;> rfl
@[simp] theorem State.popQ_dies (s : State) (e n : Nat) : (s.popQ e n).2.dies = s.dies := by
  unfold State.popQ; dsimp only; split <;> rfl

theorem State.popAll_frame (s : State) (ns : List Nat) :
    (s.popAll ns).me = s.me ∧ (s.popAll ns).mem = s.mem ∧ (s.popAll ns).cycle = s.cycle ∧ (s.popAll ns).dies = s.dies := by
  induction ns generalizing s with
  | nil => exact ⟨rfl, rfl, rfl, rfl⟩
  | cons n ns ih =>
    obtain ⟨h1, h2, h3, h4⟩ := ih ((s.popQ s.me n).2.modCore fun k => { k with popped := Store.set 0 k.popped n (s.popQ s.me n).1 })
    exact ⟨h1.trans (by simp), h2.trans (by simp), h3.trans (by simp), h4.trans (by simp)⟩

/-! ## Results -/

@[simp] theorem State.land_mem (s : State) (n : Nat) (ws : List Wr) : (s.land n ws).mem = s.mem := rfl
@[simp] theorem State.land_me (s : State) (n : Nat) (ws : List Wr) : (s.land n ws).me = s.me := rfl
@[simp] theorem State.land_clusters (s : State) (n : Nat) (ws : List Wr) : (s.land n ws).clusters = s.clusters := rfl
@[simp] theorem State.land_dies (s : State) (n : Nat) (ws : List Wr) : (s.land n ws).dies = s.dies := rfl
@[simp] theorem State.land_pkg (s : State) (n : Nat) (ws : List Wr) : (s.land n ws).pkg = s.pkg := rfl
@[simp] theorem State.land_cycle (s : State) (n : Nat) (ws : List Wr) : (s.land n ws).cycle = s.cycle := rfl

/-- A result adds one landing at the end of the core's landing queue and changes nothing else of the core. -/
theorem State.land_core (s : State) (n : Nat) (ws : List Wr) :
    (s.land n ws).core = { s.core with
      land := s.core.land ++ [{ due := s.cycle + n, placed := s.cycle, slot := s.core.cur.slot, num := s.core.cur.num,
                                bundle := s.core.cur.bundle, llb := false, latch := false, writes := ws, vas := [] }] } := by
  unfold State.land; rw [State.core_modCore]

@[simp] theorem State.landI_mem (s : State) (n : Nat) (d : IOp) (x : Word) : (s.landI n d x).mem = s.mem := by
  unfold State.landI State.wrI
  cases d <;> simp [State.reserveQ]
  split <;> rfl

end Sys2Proof.Machine
end

