-- ==== Sys2Proof/Tests/Slice0.lean ====
section
/-! SUPPORT. The author's own tests: terms that the well-formedness check refuses, words written out from the
encodings of R56 to R67, a few single steps, and a state that meets the hypotheses of each statement. -/

set_option maxRecDepth 100000

namespace Sys2Proof.Tests

open Sys2Proof Sys2Proof.Machine

/-- No guard, no tag, not sticky. -/
def c0 : Ctl := { guard := 0, gneg := false, rtag := none, sticky := false, stepV := false, stepR := 0 }
/-- Guard p9, tag t4, sticky. -/
def cv : Ctl := { guard := 9, gneg := false, rtag := some 4, sticky := true, stepV := false, stepR := 0 }

/-! ## Well-formedness (R68, step 8, and the full descriptions) -/

/-- Modifiers outside the guard belong to the slots that have them: a ready tag, a sticky bit or a STEP field on a
scalar operation (R68), a STEP field on a vector operation (R67), a STEP field without S, or S on an operation that may
not be sticky. -/
theorem test_wf_modifiers :
    Instr.wf (.add { c0 with rtag := some 1 } (.s 1) (.s 2) (.s 3) false false false) = false ∧
    Instr.wf (.add { c0 with sticky := true } (.s 1) (.s 2) (.s 3) false false false) = false ∧
    Instr.wf (.ret { c0 with stepR := 1 }) = false ∧
    Instr.wf (.vmov { cv with stepR := 7 } 1 2) = false ∧
    Instr.wf (.wswap { c0 with stepV := true }) = false ∧
    Instr.wf (.tstat { c0 with sticky := true } (.s 1) 0 0) = false ∧
    Instr.wf (.vmov cv 1 2) = true ∧ Instr.wf (.wswap { c0 with sticky := true, stepV := true, stepR := 3 }) = true := by
  decide

/-- The ranges of the scalar and control fields: a 32-bit shift by 32, a field that leaves the word, WAITANY of no
barrier (R158, R161, R363). -/
theorem test_wf_scalar :
    Instr.wf (.shli c0 (.s 1) (.s 2) 32 true) = false ∧ Instr.wf (.shli c0 (.s 1) (.s 2) 31 true) = true ∧
    Instr.wf (.shri c0 (.s 1) (.s 2) 63 false) = true ∧ Instr.wf (.srai c0 (.s 1) (.s 2) 63 true) = false ∧
    Instr.wf (.ext c0 (.s 1) (.s 2) 32 32 false) = false ∧ Instr.wf (.ext c0 (.s 1) (.s 2) 31 32 false) = true ∧
    Instr.wf (.ins c0 (.s 1) (.s 2) 63 1) = false ∧ Instr.wf (.waitany c0 (.s 1) 0 false false) = false := by
  decide

/-- The exclusions of the memory class: a sign-extended 8-byte load, group length 7, a scope on a relaxed order,
a third operand of an operation that has none, FADD of 8 bytes, TLBI.all with a register, DRAFT without SPEC. -/
theorem test_wf_memory :
    Instr.wf (.ld c0 (.s 1) 2 0 0 true 3) = false ∧ Instr.wf (.ldq c0 1 2 0 true 3) = false ∧
    Instr.wf (.ldvs c0 1 (.s 1) (.s 2) (.s 3) 7 0) = false ∧ Instr.wf (.stvs c0 1 (.s 1) (.s 2) (.s 3) 7) = false ∧
    Instr.wf (.atom c0 (.s 1) (.s 2) (.s 3) (.s 0) .add true .relaxed .crew) = false ∧
    Instr.wf (.atom c0 (.s 1) (.s 2) (.s 3) (.s 1) .add true .relaxed .core) = false ∧
    Instr.wf (.atom c0 (.s 1) (.s 2) (.s 3) (.s 1) .inc true .relaxed .core) = true ∧
    Instr.wf (.atom c0 (.s 1) (.s 2) (.s 3) (.s 0) .fadd true .relaxed .core) = false ∧
    Instr.wf (.cas c0 (.s 1) (.s 2) (.s 3) (.s 4) true .relaxed false .die) = false ∧
    Instr.wf (.cas c0 (.s 1) (.s 2) (.s 3) (.s 4) true .relaxed true .die) = true ∧
    Instr.wf (.tlbi c0 (.s 1) true .die) = false ∧ Instr.wf (.kalloc c0 (.s 1) false 1) = false ∧
    Instr.wf (.kvst c0 (.s 1) 0 0 (.s 2) false 1) = false := by decide

/-- The types of the vector class: SAT with f32, an integer type on a floating row and the reverse, un and or of
integers, HI of a 32-bit type, RM of an integer reduction, the pairs of VCVT, SAT outside E5M2. -/
theorem test_wf_vector :
    Instr.wf (.vadd c0 1 2 3 .f32 .fmode true) = false ∧ Instr.wf (.vadd c0 1 2 3 .i32 .fmode false) = false ∧
    Instr.wf (.vfma c0 1 2 3 4 .n32 .fmode false) = false ∧ Instr.wf (.vmin c0 1 2 3 .i32) = false ∧
    Instr.wf (.viadd c0 1 2 3 .f16 false) = false ∧ Instr.wf (.vimin c0 1 2 3 .f32) = false ∧
    Instr.wf (.vcmp c0 1 2 3 .un .i32 false) = false ∧ Instr.wf (.vcmp c0 1 2 3 .or .n32 false) = false ∧
    Instr.wf (.vcmp c0 1 2 3 .eq .f32 true) = false ∧ Instr.wf (.vcmp c0 1 2 3 .un .f16 true) = true ∧
    Instr.wf (.vred c0 1 2 .add .i32 .rne false) = false ∧ Instr.wf (.vscan c0 1 2 .min .f16 .fmode true) = false ∧
    Instr.wf (.vcvt c0 1 2 .f16 .f32 .fmode false) = false ∧ Instr.wf (.vcvt c0 1 2 .i32 .f32 .fmode true) = false ∧
    Instr.wf (.vpack c0 1 2 3 .f32 .fmode false) = false ∧ Instr.wf (.vunpk c0 1 2 .f32 false) = false ∧
    Instr.wf (.vqnt c0 1 2 3 .f16 .e4m3 .fmode true) = false ∧ Instr.wf (.vqnt c0 1 2 3 .f16 .e5m2 .fmode true) = true ∧
    Instr.wf (.vrope c0 1 2 3 (.s 1) .f32 .fmode true) = false := by decide

/-! ## Decoding (R53, R56 to R69)

Each word is put together from the fields of its row: OPC in bits 63 to 54, RTAG 53 to 48, S 47, D 46 to 39, A 38 to
31, B 30 to 23, C 22 to 15, GUARD and its inversion 14 to 10, MOD 9 to 0. -/

/-- A header with one slot and no more, one with every field in use (R53), and the headers that R68 refuses: a reserved bit,
an index without SETV, a repeat over slot S2. -/
theorem test_decode_header :
    decodeHeader 0x0100000000000000 = .ok { slots := 1, stall := 0, rep := 0, mark := false, wait := 0, set := none, scancel := 0 } ∧
    decodeHeader 0x13FFEFFF50000000 =
      .ok { slots := 0x13, stall := 15, rep := 63, mark := true, wait := 0xFF, set := some 7, scancel := 5 } ∧
    decodeHeader 0x000000010000000F = .error .reservedField ∧
    decodeHeader 0x0000100000000000 = .error .reservedField ∧
    decodeHeader 0x0000000200000000 = .error .reservedField ∧
    decodeHeader 0x0400400000000000 = .error .illegalOpcode ∧
    decodeHeader 0x0200400000000000 =
      .ok { slots := 2, stall := 0, rep := 1, mark := false, wait := 0, set := none, scancel := 0 } := by decide

/-- The refusals of R68 in their order: an opcode outside the ranges, a slot that the class may not take, a ready tag in
slot S0, TAG without RV, S on an operation that may not be sticky, a field of no well-formed instruction. -/
theorem test_decode_refusals :
    decodeSlot 0 0x0C40000000000000 = .error .illegalOpcode ∧
    decodeSlot 2 0x0000019088800001 = .error .illegalSlot ∧
    decodeSlot 0 0x0020019088800001 = .error .reservedField ∧
    decodeSlot 4 0x8001800000000000 = .error .reservedField ∧
    decodeSlot 6 0xC0C0818380000000 = .error .stickyInvalid ∧
    decodeSlot 4 0x80002A2AAB000028 = .error .reservedField ∧
    decodeSlot 0 0x0000019088800021 = .error .reservedField := by decide

theorem test_decode_scalar_1 :
    decodeSlot 0 0x0000019088800001 = .ok (.add c0 (.s 3) (.q 1) (.s 17) true false false) ∧
    decodeSlot 0 0x0040019088800002 = .ok (.sub c0 (.s 3) (.q 1) (.s 17) false true false) ∧
    decodeSlot 0 0x00C0019088800004 = .ok (.mul c0 (.s 3) (.q 1) (.s 17) false false true) ∧
    decodeSlot 0 0x0080138FFFFB0005 = .ok (.addi c0 (.q 7) (.s 31) 0xFFF6 true false true) ∧
    decodeSlot 0 0x0100018488800001 = .ok (.mulh c0 (.s 3) (.s 9) (.s 17) true) ∧
    decodeSlot 1 0x0140018488800000 = .ok (.mulhu c0 (.s 3) (.s 9) (.s 17) false) ∧
    decodeSlot 1 0x01C0018488800000 = .ok (.div c0 (.s 3) (.s 9) (.s 17) false) ∧
    decodeSlot 0 0x0200018488800001 = .ok (.divu c0 (.s 3) (.s 9) (.s 17) true) ∧
    decodeSlot 1 0x0240018488800000 = .ok (.rem c0 (.s 3) (.s 9) (.s 17) false) ∧
    decodeSlot 0 0x0280018488800001 = .ok (.remu c0 (.s 3) (.s 9) (.s 17) true) ∧
    decodeSlot 1 0x02C0018488800000 = .ok (.and c0 (.s 3) (.s 9) (.s 17) false) ∧
    decodeSlot 0 0x0300018488800001 = .ok (.or c0 (.s 3) (.s 9) (.s 17) true) := by decide

theorem test_decode_scalar_2 :
    decodeSlot 1 0x0340018488800000 = .ok (.xor c0 (.s 3) (.s 9) (.s 17) false) ∧
    decodeSlot 0 0x0380018488800001 = .ok (.andn c0 (.s 3) (.s 9) (.s 17) true) ∧
    decodeSlot 0 0x0480018488800001 = .ok (.shl c0 (.s 3) (.s 9) (.s 17) true) ∧
    decodeSlot 1 0x04C0018488800000 = .ok (.shr c0 (.s 3) (.s 9) (.s 17) false) ∧
    decodeSlot 0 0x0500018488800001 = .ok (.sra c0 (.s 3) (.s 9) (.s 17) true) ∧
    decodeSlot 0 0x0600018488800001 = .ok (.rotr c0 (.s 3) (.s 9) (.s 17) true) ∧
    decodeSlot 0 0x0700018488800001 = .ok (.min c0 (.s 3) (.s 9) (.s 17) true) ∧
    decodeSlot 1 0x0740018488800000 = .ok (.max c0 (.s 3) (.s 9) (.s 17) false) ∧
    decodeSlot 0 0x0780018488800001 = .ok (.minu c0 (.s 3) (.s 9) (.s 17) true) ∧
    decodeSlot 1 0x07C0018488800000 = .ok (.maxu c0 (.s 3) (.s 9) (.s 17) false) ∧
    decodeSlot 0 0x0180008102040001 = .ok (.madd c0 (.s 1) (.s 2) (.s 4) (.s 8) true) ∧
    decodeSlot 0 0x03C0028340008000 = .ok (.andi c0 (.s 5) (.s 6) 0x8001 false) := by decide

theorem test_decode_scalar_3 :
    decodeSlot 0 0x0400028340008000 = .ok (.ori c0 (.s 5) (.s 6) 0x8001 false) ∧
    decodeSlot 0 0x0440028340008000 = .ok (.xori c0 (.s 5) (.s 6) 0x8001 false) ∧
    decodeSlot 0 0x0540028300108000 = .ok (.shli c0 (.s 5) (.s 6) 33 false) ∧
    decodeSlot 0 0x0580028300108000 = .ok (.shri c0 (.s 5) (.s 6) 33 false) ∧
    decodeSlot 0 0x05C0028300108000 = .ok (.srai c0 (.s 5) (.s 6) 33 false) ∧
    decodeSlot 0 0x0640028300000001 = .ok (.clz c0 (.s 5) (.s 6) true) ∧
    decodeSlot 0 0x0680028300000001 = .ok (.ctz c0 (.s 5) (.s 6) true) ∧
    decodeSlot 0 0x06C0028300000001 = .ok (.popc c0 (.s 5) (.s 6) true) ∧
    decodeSlot 0 0x0800028300000004 = .ok (.abs c0 (.s 5) (.s 6) false true) ∧
    decodeSlot 0 0x08400283039B8000 = .ok (.sel c0 (.s 5) (.s 6) (.s 7) 15) ∧
    decodeSlot 0 0x0880180303800013 = .ok (.cmp c0 8 (.s 6) (.s 7) true .gtu) ∧
    decodeSlot 0 0x08C014037FFF8004 = .ok (.cmpi c0 0 (.s 6) 0xFFFF false .lt) := by decide

theorem test_decode_scalar_4 :
    decodeSlot 0 0x090001803E0A8000 = .ok (.li c0 (.s 3) 0x7C15) ∧
    decodeSlot 0 0x09400181BCDC8002 = .ok (.lih c0 (.s 3) (.s 3) 0x79B9 2) ∧
    decodeSlot 0 0x0980159100000000 = .ok (.mov c0 (.p 3) (.i (.q 2))) ∧
    decodeSlot 0 0x0980111B80000000 = .ok (.mov c0 (.i (.q 2)) (.p 15)) ∧
    decodeSlot 0 0x09C0008107818001 = .ok (.ext c0 (.s 1) (.s 2) 3 60 true) ∧
    decodeSlot 0 0x0A00008107E00000 = .ok (.ins c0 (.s 1) (.s 2) 0 63) ∧
    decodeSlot 0 0x0A40008101800007 = .ok (.lea c0 (.s 1) (.s 2) (.s 3) 7) ∧
    decodeSlot 0 0x0A80008100068000 = .ok (.ptag c0 (.s 1) (.s 2) 13) ∧
    decodeSlot 0 0x0AC0149515800001 = .ok (.pand c0 1 2 3 true) ∧
    decodeSlot 0 0x0B00149515800001 = .ok (.por c0 1 2 3 true) ∧
    decodeSlot 0 0x0B40149515800001 = .ok (.pxor c0 1 2 3 true) ∧
    decodeSlot 0 0x0B80149500000000 = .ok (.pnot c0 1 2) := by decide

theorem test_decode_scalar_5 :
    decodeSlot 0 0x0BC00200001F8000 = .ok (.mrs c0 (.s 4) 63) ∧
    decodeSlot 0 0x0C00000200050000 = .ok (.msr c0 (.s 4) 10) := by decide

theorem test_decode_control_1 :
    decodeSlot 2 0x400000007FFF8000 = .ok (.br c0 0xFFFF) ∧
    decodeSlot 2 0x4040000000020000 = .ok (.brl c0 4) ∧
    decodeSlot 2 0x4080000380000001 = .ok (.brr c0 (.s 7) true) ∧
    decodeSlot 2 0x40C0000000000000 = .ok (.ret c0) ∧
    decodeSlot 2 0x410000007FFF0000 = .ok (.loop c0 0xFFFE) ∧
    decodeSlot 2 0x41400000801F8002 = .ok (.rotset c0 (.s 1) 63 false true) ∧
    decodeSlot 2 0x4180000000000000 = .ok (.yield c0) ∧
    decodeSlot 2 0x41C0000000000000 = .ok (.done c0) ∧
    decodeSlot 2 0x4200000081000000 = .ok (.spawn c0 (.s 1) (.s 2)) ∧
    decodeSlot 2 0x4240030202800001 = .ok (.waits c0 (.s 6) (.s 4) (.s 5) true) ∧
    decodeSlot 2 0x4280038000028001 = .ok (.waitany c0 (.s 7) 5 true false) ∧
    decodeSlot 2 0x42C0000000000000 = .ok (.cbar c0) := by decide

theorem test_decode_control_2 :
    decodeSlot 2 0x4300000055E68000 = .ok (.trap c0 0xABCD) ∧
    decodeSlot 2 0x4340000000001C00 = .ok (.eret { c0 with guard := 3, gneg := true }) := by decide

theorem test_decode_memory_1 :
    decodeSlot 3 0x500002827FFC000D = .ok (.ld c0 (.s 5) 4 0xFFF8 1 true 1) ∧
    decodeSlot 3 0x5040110200040003 = .ok (.ldq c0 2 4 8 false 3) ∧
    decodeSlot 3 0x5040110200040023 = .ok (.ldqBind c0 2 4 8) ∧
    decodeSlot 3 0x5080128200080003 = .ok (.st c0 (.q 5) 4 16 3) ∧
    decodeSlot 3 0x50C02A0200080018 = .ok (.ldv c0 20 4 16 3) ∧
    decodeSlot 3 0x51002A0081018310 = .ok (.ldvs c0 20 (.s 1) (.s 2) (.s 3) 6 2) ∧
    decodeSlot 3 0x51402A00BF800068 = .ok (.ldvg c0 20 (.s 1) 63 3 1) ∧
    decodeSlot 3 0x51802A0200080000 = .ok (.ldvq c0 20 4 16) ∧
    decodeSlot 3 0x51C02A0200080000 = .ok (.stv c0 20 4 16) ∧
    decodeSlot 3 0x52002A0081018000 = .ok (.stvs c0 20 (.s 1) (.s 2) (.s 3) 0) ∧
    decodeSlot 3 0x52402A00A4800040 = .ok (.stvx c0 20 (.s 1) 9 2) ∧
    decodeSlot 3 0x528000810182014A = .ok (.atom c0 (.s 1) (.s 2) (.s 3) (.s 4) .dec false .rel .die) := by decide

theorem test_decode_memory_2 :
    decodeSlot 3 0x52C0008101820084 = .ok (.cas c0 (.s 1) (.s 2) (.s 3) (.s 4) false .relaxed true .crew) ∧
    decodeSlot 3 0x53000081018000CC = .ok (.ropMcas c0 (.s 1) (.s 2) (.s 3) 3 .ar) ∧
    decodeSlot 3 0x5300008101800041 = .ok (.ropEnq c0 (.s 1) (.s 2) (.s 3) .acq) ∧
    decodeSlot 3 0x530000810180003E = .ok (.ropChase c0 (.s 1) (.s 2) (.s 3) 15 .relaxed) ∧
    decodeSlot 3 0x5340000000000260 = .ok (.phase c0 .ar .part) ∧
    decodeSlot 3 0x5380000000000000 = .ok (.fenceo c0) ∧
    decodeSlot 3 0x53C0000100000000 = .ok (.fencex c0 (.s 2)) ∧
    decodeSlot 3 0x5400000200200001 = .ok (.pref c0 4 64 true) ∧
    decodeSlot 3 0x544004850E8E8001 = .ok (.tld c0 (.s 9) (.s 10) (.s 29) (.s 29) 1) ∧
    decodeSlot 3 0x5480048505860007 = .ok (.tst c0 (.s 9) (.s 10) (.s 11) (.s 12) 7) ∧
    decodeSlot 3 0x54C0000200000003 = .ok (.shmld c0 (.s 4) 3) ∧
    decodeSlot 3 0x5500000200000003 = .ok (.shmst c0 (.s 4) 3) := by decide

theorem test_decode_memory_3 :
    decodeSlot 3 0x554000A12182001F = .ok (.kvst c0 (.s 1) 2 3 (.s 4) true 15) ∧
    decodeSlot 3 0x5580008000000007 = .ok (.kalloc c0 (.s 1) true 3) ∧
    decodeSlot 3 0x55C0000080000000 = .ok (.kfree c0 (.s 1)) ∧
    decodeSlot 3 0x5600008101800000 = .ok (.pfxh c0 (.s 1) (.s 2) (.s 3)) ∧
    decodeSlot 3 0x5640008101800001 = .ok (.pfxl c0 (.s 1) (.s 2) (.s 3) true) ∧
    decodeSlot 3 0x5680008101800000 = .ok (.pfxi c0 (.s 1) (.s 2) (.s 3)) ∧
    decodeSlot 3 0x56C0008100000002 = .ok (.pfxp c0 (.s 1) (.s 2) .inv) ∧
    decodeSlot 3 0x5700008101800000 = .ok (.specb c0 (.s 1) (.s 2) (.s 3)) ∧
    decodeSlot 3 0x5740000100000000 = .ok (.specc c0 (.s 2)) ∧
    decodeSlot 3 0x5780000000000000 = .ok (.speca c0) ∧
    decodeSlot 3 0x57C000000000000C = .ok (.tlbi c0 (.s 0) true .part) := by decide

theorem test_decode_vector_1 :
    decodeSlot 4 0x8024AA2AAB0048A8 = .ok (.vadd cv 20 21 22 .f16 .rtz true) ∧
    decodeSlot 4 0x8064AA2AAB0048A8 = .ok (.vsub cv 20 21 22 .f16 .rtz true) ∧
    decodeSlot 4 0x80A4AA2AAB0048A8 = .ok (.vmul cv 20 21 22 .f16 .rtz true) ∧
    decodeSlot 5 0x80C02A2AAB2B8040 = .ok (.vfma c0 20 21 22 23 .f32 .rdn false) ∧
    decodeSlot 5 0x81002A2AAB2B8040 = .ok (.vfms c0 20 21 22 23 .f32 .rdn false) ∧
    decodeSlot 5 0x81402A2AAB2B8040 = .ok (.vfnma c0 20 21 22 23 .f32 .rdn false) ∧
    decodeSlot 4 0x81802A2AAB000100 = .ok (.vmin c0 20 21 22 .bf16) ∧
    decodeSlot 4 0x81C02A2AAB000100 = .ok (.vmax c0 20 21 22 .bf16) ∧
    decodeSlot 4 0x82002A2A80000100 = .ok (.vabs c0 20 21 .bf16) ∧
    decodeSlot 4 0x82402A2A80000100 = .ok (.vneg c0 20 21 .bf16) ∧
    decodeSlot 4 0x82802A2A80000138 = .ok (.vrcp c0 20 21 .bf16 .rup true) ∧
    decodeSlot 4 0x82C02A2A80000138 = .ok (.vrsq c0 20 21 .bf16 .rup true) := by decide

theorem test_decode_vector_2 :
    decodeSlot 4 0x83002A2A80000138 = .ok (.vexp2 c0 20 21 .bf16 .rup true) ∧
    decodeSlot 4 0x83402A2A80000138 = .ok (.vlog2 c0 20 21 .bf16 .rup true) ∧
    decodeSlot 4 0x83802A2A80000138 = .ok (.vtanh c0 20 21 .bf16 .rup true) ∧
    decodeSlot 4 0x83C02A2A80000220 = .ok (.vcvt c0 20 21 .n32 .f32 .rtz false) ∧
    decodeSlot 4 0x840018AAAB00008E = .ok (.vcmp c0 9 21 22 .un .f16 true) ∧
    decodeSlot 4 0x84402A2AAB1B8000 = .ok (.vsel c0 20 21 22 15) ∧
    decodeSlot 4 0x84802A2AAB000188 = .ok (.viadd c0 20 21 22 .i32 true) ∧
    decodeSlot 4 0x84C02A2AAB000188 = .ok (.visub c0 20 21 22 .i32 true) ∧
    decodeSlot 4 0x85002A2AAB000188 = .ok (.vimul c0 20 21 22 .i32 true) ∧
    decodeSlot 4 0x85402A2AAB000200 = .ok (.vand c0 20 21 22) ∧
    decodeSlot 4 0x85802A2AAB000200 = .ok (.vor c0 20 21 22) ∧
    decodeSlot 4 0x85C02A2AAB000200 = .ok (.vxor c0 20 21 22) := by decide

theorem test_decode_vector_3 :
    decodeSlot 4 0x86002A2AAB000200 = .ok (.vshl c0 20 21 22) ∧
    decodeSlot 4 0x86402A2AAB000200 = .ok (.vshr c0 20 21 22) ∧
    decodeSlot 4 0x86802A2AAB000180 = .ok (.vsra c0 20 21 22) ∧
    decodeSlot 4 0x86C02A2AAB000200 = .ok (.vimin c0 20 21 22 .n32) ∧
    decodeSlot 4 0x87002A2AAB000200 = .ok (.vimax c0 20 21 22 .n32) ∧
    decodeSlot 4 0x87402A2A80000182 = .ok (.vred c0 20 21 .min .i32 .fmode false) ∧
    decodeSlot 4 0x87802A2A80000098 = .ok (.vscan c0 20 21 .add .f16 .rne true) ∧
    decodeSlot 4 0x87C02A2AAB000000 = .ok (.vperm c0 20 21 22) ∧
    decodeSlot 4 0x88002A2A80800001 = .ok (.vslide c0 20 21 (.s 1) true) ∧
    decodeSlot 4 0x88402A2A90800000 = .ok (.vbcast c0 20 21 (.q 1)) ∧
    decodeSlot 4 0x88802A0080000000 = .ok (.vsplat c0 20 (.s 1)) ∧
    decodeSlot 4 0x88C000AA81000001 = .ok (.vextr c0 (.s 1) 21 (.s 2) true) := by decide

theorem test_decode_vector_4 :
    decodeSlot 4 0x89002A1580000000 = .ok (.viota c0 20 3) ∧
    decodeSlot 4 0x89402A2AAB0000D8 = .ok (.vpack c0 20 21 22 .f16 .rsr true) ∧
    decodeSlot 4 0x89802A2A80000101 = .ok (.vunpk c0 20 21 .bf16 true) ∧
    decodeSlot 4 0x89C02A2AAB000019 = .ok (.vqnt c0 20 21 22 .f32 .e5m2 .rne true) ∧
    decodeSlot 4 0x8A002A2AAB00010D = .ok (.vdqnt c0 20 21 22 .bf16 .i4 .fmode true) ∧
    decodeSlot 4 0x8A402A2AAB018030 = .ok (.vrope c0 20 21 22 (.s 3) .f32 .rup false) ∧
    decodeSlot 4 0x8A803FA000000000 = .ok (.vmov c0 63 0) := by decide

theorem test_decode_tensor_1 :
    decodeSlot 6 0xC0000000800003E0 = .ok (.tbind c0 31 (.s 1)) ∧
    decodeSlot 6 0xC0000080000003E0 = .ok (.tbindUnb c0 31) ∧
    decodeSlot 6 0xC0408080814380A0 = .ok (.tfetch { c0 with sticky := true, stepV := true, stepR := 7 } 5 (.s 1) (.s 2) true) ∧
    decodeSlot 6 0xC0800000000000A0 = .ok (.trel c0 5) ∧
    decodeSlot 6 0xC0C00183800000A0 = .ok (.tstat c0 (.s 3) 5 7) ∧
    decodeSlot 6 0xC100000080000018 = .ok (.tzero c0 3 (.s 1)) ∧
    decodeSlot 6 0xC1400000800000A0 = .ok (.wload c0 5 (.s 1)) ∧
    decodeSlot 6 0xC180000000000000 = .ok (.wswap c0) ∧
    decodeSlot 6 0xC1C00400800000B8 = .ok (.mma c0 3 5 (.s 1) .f16 false) ∧
    decodeSlot 6 0xC2000980810000B8 = .ok (.mmas c0 3 5 (.s 1) (.s 2) .e5m2 true true false) ∧
    decodeSlot 6 0xC2400B80800000B8 = .ok (.tdrain c0 5 3 (.s 1) .rsr true true) ∧
    decodeSlot 6 0xC2800180800000A0 = .ok (.normk c0 5 (.s 1) true true) := by decide

theorem test_decode_tensor_2 :
    decodeSlot 6 0xC2C0000080000000 = .ok (.aliasTab c0 (.s 1)) ∧
    decodeSlot 6 0xC300000080000000 = .ok (.seed c0 (.s 1)) ∧
    decodeSlot 6 0xC3400F8303800048 = .ok (.smm c0 1 2 31 (.s 6) (.s 7)) ∧
    decodeSlot 6 0xC380001000000000 = .ok (.smmv c0 (.q 0)) := by decide

theorem test_decode_copy_1 :
    decodeSlot 7 0xE000840202C3800A = .ok (.cpy { c0 with sticky := true, stepV := true, stepR := 7 } (.s 8) (.s 4) (.s 5) 1 2) ∧
    decodeSlot 7 0xE00000038E800021 = .ok (.cpySet c0 (.s 7) (.s 29) 0 1) ∧
    decodeSlot 7 0xE04004020280001F = .ok (.cpyt c0 (.s 8) (.s 4) (.s 5) 3 7) ∧
    decodeSlot 7 0xE080000200000011 = .ok (.cpyl c0 (.s 4) 2 1) ∧
    decodeSlot 7 0xE0C00402048000AA = .ok (.kvld c0 5 (.s 8) (.s 4) (.s 9) 1 2) ∧
    decodeSlot 7 0xE10004020280000A = .ok (.send c0 (.s 8) (.s 4) (.s 5) 1 2) ∧
    decodeSlot 7 0xE10004020280002A = .ok (.sendRq c0 (.s 8) (.s 4) (.s 5) 1 2) ∧
    decodeSlot 7 0xE140000300000000 = .ok (.jobq c0 (.s 6)) ∧
    decodeSlot 7 0xE180000600000011 = .ok (.coll c0 (.s 12) 2 1) ∧
    decodeSlot 7 0xE1C0040200000001 = .ok (.reshard c0 0 1 (.s 4) 0 1) ∧
    decodeSlot 7 0xE200000202800000 = .ok (.slotsel c0 (.s 4) (.s 5)) ∧
    decodeSlot 7 0xE2400000000000FC = .ok (.park c0 0xFC) := by decide

theorem test_decode_copy_2 :
    decodeSlot 7 0xE280000000000081 = .ok (.wake c0 0x81) ∧
    decodeSlot 7 0xE2800003000001FC = .ok (.wakeThr c0 0xFC (.s 6)) ∧
    decodeSlot 7 0xE2C0038400000000 = .ok (.linkst c0 (.s 7) (.s 8)) := by decide

/-! ## Single steps, with the results that the manual's own examples give -/

/-- Core 0 running with some scalar and vector registers, and nothing else but reset. -/
def core0 (rs : List (Nat × Word)) (vs : List (Nat × VReg)) : State :=
  { State.reset with cores := [(0, { Core.reset with run := .running, s := rs, v := vs, pc := 0x20000 })] }

/-- Lanes or narrower fields from the lowest up. -/
def pack (bits : Nat) : List Nat → Nat
  | [] => 0
  | x :: xs => x + 2 ^ bits * pack bits xs

/-- The lanes of a vector register. -/
def lanes (xs : List Nat) : VReg := BitVec.ofNat 2048 (pack 32 xs)

/-- The cycle in which the last result lands, and its low bits. -/
def landed (o : Out) (bits : Nat) : Option (Nat × Nat) :=
  match o with
  | .next t => (t.core.land.getLast?).bind fun l => l.writes.head?.map fun w => (l.due, w.val.toNat % 2 ^ bits)
  | _ => none

/-- The faults that the slot raised. -/
def faults (o : Out) : List (FCode × Word) :=
  match o with
  | .next t => t.core.raised.map fun r => (r.code, r.addr)
  | _ => []

/-- The example of R160: s1 = −1 and s2 = 0 make p9 all ones under lt and zero under ltu, in the next cycle. -/
theorem test_cmp :
    let s := core0 [(1, 0xFFFFFFFFFFFFFFFF)] []
    landed (exec (.cmp c0 9 (.s 1) (.s 2) false .lt) s) 64 = some (1, 0xFFFFFFFFFFFFFFFF) ∧
    landed (exec (.cmp c0 9 (.s 1) (.s 2) false .ltu) s) 64 = some (1, 0) := by decide

/-- The examples of R161 and R163: the last LIH of the constant, LEA and PTAG. -/
theorem test_lih_lea_ptag :
    let s := core0 [(3, 0x000079B97F4A7C15), (5, 0x5000000000000100), (6, 3), (7, 0x50000000000001C0)] []
    landed (exec (.lih c0 (.s 3) (.s 3) 0x9E37 3) s) 64 = some (1, 0x9E3779B97F4A7C15) ∧
    landed (exec (.lea c0 (.s 4) (.s 5) (.s 6) 6) s) 64 = some (1, 0x50000000000001C0) ∧
    landed (exec (.ptag c0 (.s 4) (.s 7) 4) s) 64 = some (1, 0x40000000000001C0) := by decide

/-- R118, R158: division by zero, and the most negative number by −1. -/
theorem test_div :
    let s := core0 [(1, 7), (2, 0x8000000000000000), (3, 0xFFFFFFFFFFFFFFFF)] []
    landed (exec (.div c0 (.s 4) (.s 1) (.s 0) false) s) 64 = some (18, 0xFFFFFFFFFFFFFFFF) ∧
    landed (exec (.rem c0 (.s 4) (.s 1) (.s 0) false) s) 64 = some (18, 7) ∧
    landed (exec (.div c0 (.s 4) (.s 2) (.s 3) false) s) 64 = some (18, 0x8000000000000000) ∧
    landed (exec (.rem c0 (.s 4) (.s 2) (.s 3) false) s) 64 = some (18, 0) := by decide

/-- R117: a 32-bit sum wraps and is sign-extended; with SAT and NAT it stops at the highest natural word. -/
theorem test_add :
    let s := core0 [(1, 0x7FFFFFFF), (2, 1), (3, 0xFFFFFFFFFFFFFFFF)] []
    landed (exec (.add c0 (.s 4) (.s 1) (.s 2) true false false) s) 64 = some (1, 0xFFFFFFFF80000000) ∧
    landed (exec (.add c0 (.s 4) (.s 1) (.s 2) true false true) s) 64 = some (1, 0x7FFFFFFF) ∧
    landed (exec (.add c0 (.s 4) (.s 3) (.s 2) false true true) s) 64 = some (1, 0xFFFFFFFFFFFFFFFF) ∧
    landed (exec (.sub c0 (.s 4) (.s 2) (.s 3) false true true) s) 64 = some (1, 0) := by decide

/-- The example of R166: in user mode MSR VRB of 50 faults RESERVED_FIELD and MSR CTXPTR faults PRIV. -/
theorem test_msr :
    let s := core0 [(2, 50)] []
    faults (exec (.msr c0 (.s 2) 8) s) = [(.reservedField, 0)] ∧ faults (exec (.msr c0 (.s 3) 26) s) = [(.priv, 0)] := by
  decide

/-- The example of R5: with VRB = 47, v16 is physical register 63 and v17 is 16. -/
theorem test_rotation : vPhys 47 16 = 63 ∧ vPhys 47 17 = 16 ∧ vPhys 47 15 = 15 := by decide

/-- The ties of R113, rounded to FP4: 2.5 and 5 under the five modes, the draw being 0x8000_0000. -/
theorem test_round_fp4 :
    let r := fun (mode : RMode) (m : Nat) (e : Int) => decodeF .fp4 false (roundF .fp4 mode false false 0x80000000 (.fin false m e))
    let v := fun (m : Nat) (e : Int) => decodeF .fp4 false (roundF .fp4 .rne false false 0 (.fin false m e))
    r .rne 5 (-1) = v 2 0 ∧ r .rtz 5 (-1) = v 2 0 ∧ r .rup 5 (-1) = v 3 0 ∧ r .rdn 5 (-1) = v 2 0 ∧ r .rsr 5 (-1) = v 2 0 ∧
    r .rne 5 0 = v 4 0 ∧ r .rtz 5 0 = v 4 0 ∧ r .rup 5 0 = v 6 0 ∧ r .rdn 5 0 = v 4 0 ∧ r .rsr 5 0 = v 4 0 ∧
    v 2 0 ≠ v 3 0 ∧ v 4 0 ≠ v 6 0 := by decide

/-- The example of R105: a 4-bit block with an outlier decodes as 1.5, 6.5, 0 and −3.5. -/
theorem test_n4x :
    (match decodeN4x ([0x7E, 0x0A, 0x83, 0x95] ++ List.replicate 14 0) with
      | .ok xs => (xs.take 4).map fun x => roundF .fp32 .rne false false 0 x
      | .error _ => []) = [0x3FC00000, 0x40D00000, 0, 0xC0600000] := by decide

/-- The example of R193: 1.0, 300, −0.001 and 600 with the scale 2^1 in E4M3. -/
theorem test_vqnt :
    let s := core0 [] [(21, lanes [0x3F800000, 0x43960000, 0xBA83126F, 0x44160000]), (22, lanes [0x80])]
    landed (exec (.vqnt c0 20 21 22 .f32 .e4m3 .fmode false) s) 32 = some (3, 0x79807130) := by decide

/-- The example of R197: 2^24, 1, 1, 1 summed along the tree is 16,777,218, and the prefixes are those of R125. -/
theorem test_vred_vscan :
    let s := core0 [] [(21, lanes [0x4B800000, 0x3F800000, 0x3F800000, 0x3F800000])]
    landed (exec (.vred c0 20 21 .add .f32 .fmode false) s) 32 = some (6, 0x4B800001) ∧
    landed (exec (.vscan c0 22 21 .add .f32 .fmode false) s) 128 =
      some (6, pack 32 [0x4B800000, 0x4B800000, 0x4B800000, 0x4B800001]) := by decide

/-- The example of R199: position 3 at a quarter turn per position takes (1, 2) to (2, −1). -/
theorem test_vrope :
    let s := core0 [(6, 3)] [(21, lanes [0x3F800000, 0x40000000]), (22, lanes [0x40000000])]
    landed (exec (.vrope c0 20 21 22 (.s 6) .f32 .fmode false) s) 64 = some (9, pack 32 [0x40000000, 0xBF800000]) ∧
    faults (exec (.vrope c0 20 21 22 (.s 6) .f32 .fmode false) (core0 [(6, 0x1000000)] [])) = [(.positionRange, 0)] := by
  decide

/-- The example of R243: with SHARE = 1, offset 0x4A95 of the cluster window is byte 0x50495 of member 5, and offset
0x100000 faults RANGE. -/
theorem test_cluster_window :
    let s := { core0 [(4, 0x4000000000004A95), (5, 0x4000000000100000)] [] with
      clusters := [(0, { Cluster.reset with clshare := 1 })], mem := [(spadKey 5 0x50495, 0x5A)] }
    landed (exec (.ld c0 (.s 6) 4 0 0 false 0) s) 64 = some (14, 0x5A) ∧
    faults (exec (.ld c0 (.s 6) 5 0 0 false 0) s) = [(.range, 0x4000000000100000)] := by decide

/-- The example of R272: lanes 3 and 9 write the same bytes, and the higher lane's value stays (R273). -/
theorem test_stvx :
    let s := (core0 [(4, 0x5000000000000000)]
      [(20, lanes [0, 0, 0, 0x11, 0, 0, 0, 0, 0, 0x99]), (21, lanes [0, 0, 0, 5, 0, 0, 0, 0, 0, 5])]).modCore fun c =>
        { c with p := [(9, 0x208)] }
    (match exec (.stvx { c0 with guard := 9 } 20 (.s 4) 21 2) s with
      | .next t => t.mem
      | _ => []) = [(spadKey 0 20, 0x99)] := by decide

/-- The examples of R287: index (7, 4) resolves on node 0 to node 2's offset 40, and locally on node 2; the shards of
ten rows on four nodes are 3, 3, 2 and 2. -/
theorem test_map :
    let m : List Word := [0x000A010400010000, 0x0000000A80000000, 0x0000000600000000, 0, 0, 0, 0, 0x0000000000100000]
    (elementAt 0x103 0 m [7, 4, 0, 0, 0, 0] false).toOption = some (0x3020000000100028, 4) ∧
    (elementAt 0x103 2 m [7, 4, 0, 0, 0, 0] false).toOption = some (0x0000000000100028, 4) ∧
    mapValid 0x103 m = true ∧ storedSize 0x103 m = 72 ∧
    (List.range 4).map (shardOf true 10 4) = [(0, 3), (3, 3), (6, 2), (8, 2)] := by decide

/-- The worked example of the sampled product: the table of four weights, and the draw that picks index 3. -/
theorem test_alias :
    let z := { Scarab.clear with
      na2 := [(0, 0x3F800000), (1, 0x41100000), (3, 0x40800000)]
      nb2 := [(0, 0x3F800000), (1, 0x3F800000), (2, 0x40A00000), (3, 0x40800000)] }
    (match z.buildTable 4 with
      | some y => ((List.range 4).map fun k =>
          let x := Store.get AliasEntry.none y.table k
          (x.thr.toNat, x.full, x.alix.toNat, x.p.toNat, x.r.toNat), y.pick 0x4000000090000000)
      | none => ([], 0)) =
      ([(0x80000000, false, 1, 0x3E000000, 0x41000000), (0, false, 3, 0x3EC00000, 0x402AAAAB),
        (0, false, 1, 0, 0x7F800000), (0, true, 3, 0x3F000000, 0x40000000)], 3) := by decide

/-- R142, R143: TRAP 5 of the example saves the address of the next bundle and enters TVEC's handler in supervisor mode;
ERET goes back. -/
theorem test_trap :
    let s := State.reset.modCoreAt 0 fun c => { c with
      run := .running
      pc := 0x20000
      next := 0x20010
      spr := [(20, 0x3001)]
      cur := { SlotOp.none with slot := 2, bundle := 0x20000, len := 16 } }
    (match exec (.trap c0 5) s with
      | .next t => [t.core.pc, t.core.special 16, t.core.special 17, t.core.special 18, t.core.special 19, t.core.special 31]
      | _ => []) = [0x3000, 0x220, 5, 0x20000, 0x20010, 1] := by decide

/-- R52: the step after an instruction has been placed fetches, decodes and runs it: ADD s4, s5, s0 lands a cycle on. -/
theorem test_step :
    (match step ((State.reset.modCoreAt 0 fun c => { c with s := [(5, 0x55)] }).withFetchWord 64 0x0000020280000000) with
      | .next t => (t.coreAt 0).land.map fun l => (l.due, l.writes.map fun w => (w.kind, w.idx, w.val.toNat))
      | _ => []) = [(1, [(.scalar, 4, 0x55)])] := by decide

/-! ## States that meet the hypotheses of the statements

Each theorem below gives, for the statement it names, a state and operands that meet its hypotheses, clause by clause,
at the ends of the ranges that the clauses speak of. -/

theorem opens {s : State} {c : Ctl} {rd wr : List IOp}
    (h : ((s.guardMask c).getLsbD 0 && !s.core.cur.latched && s.core.mapped rd wr) = true) :
    s.Opens c rd wr (s.popAll (qsOf rd)) := by
  simp only [Bool.and_eq_true, Bool.not_eq_true'] at h
  exact ⟨h.1.1, .inr ⟨h.1.2, h.2, rfl⟩⟩

theorem opensLanes {s : State} {c : Ctl} {rd wr : List IOp} {m : Word}
    (h : (s.guardMask c == m && m != 0 && !s.core.cur.latched && s.core.mapped rd wr) = true) :
    s.OpensLanes c rd wr m (s.popAll (qsOf rd)) := by
  simp only [Bool.and_eq_true, Bool.not_eq_true', beq_iff_eq, bne_iff_ne, ne_eq] at h
  exact ⟨h.1.1.1, h.1.1.2, .inr ⟨h.1.2, h.2, rfl⟩⟩

/-- Core 0 in supervisor mode. -/
def super0 (rs : List (Nat × Word)) : State :=
  { State.reset with cores := [(0, { Core.reset with run := .running, s := rs, pc := 0x20000, spr := [(31, 1)] })] }

/-- Core 0 with q1 popping a stream that holds 10 and 20, and q2 pushing into the cluster's stage queue 0. -/
def queue0 : State := (core0 [] []).modCore fun k => { k with
  qtab := [(1, 0x1000000000000000), (2, 0x3000000000000002)]
  streams := [(1, { ready := [{ val := 10, at_ := 0, src := 0 }, { val := 20, at_ := 0, src := 0 }], owed := [] })] }

/-- Any three words can stand in the operands of a slot that runs. -/
theorem witness_operands (x y z : Word) :
    let s := core0 [(1, x), (2, y), (4, z)] []
    s.Opens c0 [.s 1, .s 2, .s 4] [.s 3] s ∧ s.Opens c0 [.s 1, .s 2] [.s 3] s ∧ s.Opens c0 [.s 1] [.s 3] s ∧
    s.Opens c0 [.s 1, .s 2] [] s ∧ s.Opens c0 [.s 1] [] s ∧ s.Opens c0 [] [.s 3] s ∧ s.Opens c0 [] [] s ∧
    s.Opens c0 [.s 4, .s 1, .s 2] [] s ∧ s.Opens c0 [.s 1, .s 2] [] s ∧ s.Opens c0 [.s 3, .s 1] [.s 3] s ∧
    s.src .a (.s 1) = x ∧ s.src .b (.s 2) = y ∧ s.src .c (.s 4) = z ∧ s.src .d (.s 4) = z := by
  have g : ((core0 [(1, x), (2, y), (4, z)] []).guardMask c0).getLsbD 0 = true := by
    rw [show (core0 [(1, x), (2, y), (4, z)] []).guardMask c0 = ones from rfl]; decide
  exact ⟨⟨g, .inr ⟨rfl, rfl, rfl⟩⟩, ⟨g, .inr ⟨rfl, rfl, rfl⟩⟩, ⟨g, .inr ⟨rfl, rfl, rfl⟩⟩, ⟨g, .inr ⟨rfl, rfl, rfl⟩⟩,
    ⟨g, .inr ⟨rfl, rfl, rfl⟩⟩, ⟨g, .inr ⟨rfl, rfl, rfl⟩⟩, ⟨g, .inr ⟨rfl, rfl, rfl⟩⟩, ⟨g, .inr ⟨rfl, rfl, rfl⟩⟩,
    ⟨g, .inr ⟨rfl, rfl, rfl⟩⟩, ⟨g, .inr ⟨rfl, rfl, rfl⟩⟩, rfl, rfl, rfl, rfl⟩

/-- The same in supervisor mode. -/
theorem witness_supervisor (x y : Word) :
    let s := super0 [(1, x), (2, y)]
    s.Opens c0 [.s 1, .s 2] [] s ∧ s.Opens c0 [.s 1] [] s ∧ s.Opens c0 [] [] s ∧ s.src .a (.s 1) = x ∧ s.src .b (.s 2) = y ∧
    s.core.sup = true ∧ s.supNow = true := by
  have g : ((super0 [(1, x), (2, y)]).guardMask c0).getLsbD 0 = true := by
    rw [show (super0 [(1, x), (2, y)]).guardMask c0 = ones from rfl]; decide
  have h : (super0 [(1, x), (2, y)]).core.sup = true := by
    rw [Core.sup, show (super0 [(1, x), (2, y)]).core.special 31 = 1 from rfl]; decide
  exact ⟨⟨g, .inr ⟨rfl, rfl, rfl⟩⟩, ⟨g, .inr ⟨rfl, rfl, rfl⟩⟩, ⟨g, .inr ⟨rfl, rfl, rfl⟩⟩, rfl, rfl, h, h⟩

theorem witness_ScalarSumsAndProductsWrap :
    queue0.Opens c0 [.q 1, .q 1] [.q 2] (queue0.popAll [1]) ∧
    (core0 [(1, 1)] []).Opens c0 [.s 1, .s 2] [.s 3] (core0 [(1, 1)] []) ∧
    (core0 [(1, 1)] []).Opens c0 [.s 1] [.s 0] (core0 [(1, 1)] []) ∧
    (core0 [(1, 1)] []).Opens c0 [.s 1, .s 1, .s 1] [.s 1] (core0 [(1, 1)] []) :=
  ⟨opens (by decide), opens (by decide), opens (by decide), opens (by decide)⟩

theorem witness_ScalarSaturationAndQuotients :
    (core0 [(1, 1)] []).Opens c0 [.s 1, .s 2] [.s 3] (core0 [(1, 1)] []) ∧
    (core0 [(1, 1)] []).Opens c0 [.s 1] [.s 3] (core0 [(1, 1)] []) ∧ (core0 [(1, 1)] []).src .b (.s 2) = 0 ∧
    (core0 [(1, 1)] []).src .b (.s 1) = 1 := ⟨opens (by decide), opens (by decide), by decide⟩

theorem witness_ScalarLogicAndShifts :
    (core0 [] []).Opens c0 [.s 1, .s 2] [.s 3] (core0 [] []) ∧ (core0 [] []).Opens c0 [.s 1] [.s 3] (core0 [] []) ∧
    (31 : BitVec 6) < 32 ∧ (0 : BitVec 6) < 32 := ⟨opens (by decide), opens (by decide), by decide⟩

theorem witness_ScalarCountsComparesAndSelection :
    (core0 [] []).Opens c0 [.s 1, .s 2] [.s 3] (core0 [] []) ∧ (core0 [] []).Opens c0 [.s 1] [.s 3] (core0 [] []) ∧
    (core0 [] []).Opens c0 [.s 1, .s 2] [] (core0 [] []) ∧ (core0 [] []).Opens c0 [.s 1] [] (core0 [] []) ∧
    ((core0 [] []).guardMask c0).getLsbD 0 = true :=
  ⟨opens (by decide), opens (by decide), opens (by decide), opens (by decide), by decide⟩

theorem witness_ScalarMovesFieldsAndPointers :
    (core0 [] []).Opens c0 [] [.s 3] (core0 [] []) ∧ (core0 [] []).Opens c0 [.s 1] [] (core0 [] []) ∧
    (core0 [] []).Opens c0 [] [] (core0 [] []) ∧ (core0 [] []).Opens c0 [.s 1] [.s 3] (core0 [] []) ∧
    (core0 [] []).Opens c0 [.s 3, .s 1] [.s 3] (core0 [] []) ∧ (core0 [] []).Opens c0 [.s 1, .s 2] [.s 3] (core0 [] []) ∧
    (63 : BitVec 6).toNat + (0 : BitVec 6).toNat < 64 ∧ (0 : BitVec 6).toNat + (63 : BitVec 6).toNat < 64 :=
  ⟨opens (by decide), opens (by decide), opens (by decide), opens (by decide), opens (by decide), opens (by decide),
    by decide⟩

/-- MRS of every kind of register, before and in a mark bundle; MSR of the first value that each register refuses and of
the last that it takes, in user and in supervisor mode, through `witness_operands` and `witness_supervisor`. -/
theorem witness_SpecialRegistersAreReadAndWritten :
    (core0 [] []).Opens c0 [] [.s 3] (core0 [] []) ∧ (core0 [] []).core.marking = none ∧ (core0 [] []).core.gate.length ≤ 64 ∧
    (let s := (core0 [] []).modCore fun k => { k with marking := some 4 }
     s.Opens c0 [] [.s 3] s ∧ s.core.marking = some 4) ∧
    (∀ p ∈ ([(6, 2 ^ 32), (7, 64), (8, 48), (9, 8), (10, 16), (10, 5), (11, 2), (13, 2 ^ 16), (16, 2 ^ 12), (19, 4), (20, 2),
        (22, 2 ^ 32), (24, 2 ^ 24), (25, 4), (26, 1), (29, 2 ^ 12), (29, 16), (30, 64), (31, 2), (6, 2 ^ 32 - 1), (7, 63),
        (8, 47), (9, 7), (10, 12), (11, 1), (13, 2 ^ 16 - 1), (16, 2 ^ 12 - 1), (19, 8), (20, 9), (24, 2 ^ 24 - 1), (25, 3),
        (26, 4096), (29, 15), (30, 63), (31, 1), (32, 0), (63, 0)] : List (BitVec 6 × Word)),
      (super0 [(1, p.2)]).src .a (.s 1) = p.2 ∧ (core0 [(1, p.2)] []).src .a (.s 1) = p.2) :=
  ⟨opens (by decide), by decide, by decide, ⟨opens (by decide), by decide⟩, fun _ _ => ⟨rfl, rfl⟩⟩

/-- Before a partition is formed NODEID and MESH are zero; after it they are what was formed last. -/
theorem witness_lastPart :
    let s := (core0 [] []).modPkg fun p => { p with lastPart := some (63, 0x103) }
    (core0 [] []).pkg.lastPart = none ∧ s.pkg.lastPart = some (63, 0x103) ∧ s.Opens c0 [] [.s 3] s :=
  ⟨rfl, rfl, opens (by decide)⟩

/-- A landing of one write. -/
def landing (num slot : Nat) (w : Wr) : Landing :=
  { due := 0, placed := 0, slot := slot, num := num, bundle := 0, llb := false, latch := false, writes := [w], vas := [] }

/-- Core 0 with results that land in this cycle. -/
def landing0 (ls : List Landing) : State := (core0 [] []).modCore fun k => { k with land := ls }

theorem witness_ResultsLand :
    (∀ w ∈ [Wr.scalar 3 7, { kind := .vector, idx := 16, mask := 5, val := 1, room := 0 },
        { kind := .pred, idx := 0, mask := 5, val := 1, room := 0 }, { kind := .pred, idx := 15, mask := 5, val := 1, room := 0 },
        { kind := .push, idx := 1, mask := ones, val := 9, room := 5 }, { kind := .bind, idx := 7, mask := ones, val := 9, room := 0 },
        Wr.special 0 1, Wr.special 6 1, Wr.special 21 1, Wr.special 25 1, Wr.special 30 63],
      (landing0 [landing 0 0 w]).core.run = .running ∧ (landing 0 0 w).slot < 8 ∧
      (landing0 [landing 0 0 w]).core.land.filter (fun y => decide (y.due ≤ (landing0 [landing 0 0 w]).cycle)) = [landing 0 0 w]) ∧
    (let l := landing 1 5 (Wr.scalar 3 7)
     let k := landing 2 0 (Wr.scalar 3 8)
     let j := landing 2 1 (Wr.scalar 3 9)
     (landing0 [k, l]).core.run = .running ∧ (landing0 [k, l]).core.land = [k, l] ∧ l.due ≤ 0 ∧ l.num < k.num ∧
     (landing0 [k, j]).core.land = [k, j] ∧ k.num = j.num ∧ k.slot < j.slot) := by decide

theorem witness_TransfersGoToTheirTarget :
    let s := fun (x : Word) => core0 [(31, x), (1, x)] []
    ((s 0).guardMask c0).getLsbD 0 = true ∧ (s 0x1000000000000000).Opens c0 [.s 1] [] (s 0x1000000000000000) ∧
    (s 0x0FFFFFFFFFFFFFF8).Opens c0 [.s 1] [] (s 0x0FFFFFFFFFFFFFF8) ∧ (s 4).Opens c0 [.s 1] [] (s 4) ∧
    ((s 0x1000000000000000).core.sreg 31).toNat / 2 ^ 60 ≠ 0 ∧ ((s 0x0FFFFFFFFFFFFFF8).core.sreg 31).toNat / 2 ^ 60 = 0 ∧
    ((s 0x0FFFFFFFFFFFFFF8).core.sreg 31).toNat % 8 = 0 ∧ ((s 4).core.sreg 31).toNat % 8 ≠ 0 :=
  ⟨by decide, opens (by decide), opens (by decide), opens (by decide), by decide⟩

theorem witness_LoopRotatesAndRotsetStarts :
    let s := fun (lc ec v p : Word) => (core0 [] []).modCore fun k => { k with spr := [(6, lc), (7, ec), (8, v), (9, p)] }
    ((s 1 0 47 7).guardMask c0).getLsbD 0 = true ∧ ((s 1 0 47 7).core.special 8).toNat < 48 ∧
    ((s 1 0 47 7).core.special 9).toNat < 8 ∧ (s 1 0 47 7).core.special 6 ≠ 0 ∧ (s 0 1 0 0).core.special 6 = 0 ∧
    (s 0 1 0 0).core.special 7 ≠ 0 ∧ (s 0 0 0 0).core.special 7 = 0 ∧ (s 0 0 0 0).Opens c0 [.s 1] [] (s 0 0 0 0) ∧
    ((core0 [] []).guardMask { c0 with gneg := true }).getLsbD 0 = false ∧
    (let t := landing0 [landing 0 0 { kind := .p8, idx := 0, mask := ones, val := 0, room := 0 }]
     t.core.run = .running ∧ t.core.land.filter (fun y => decide (y.due ≤ t.cycle)) =
       [landing 0 0 { kind := .p8, idx := 0, mask := ones, val := 0, room := 0 }]) :=
  ⟨by decide, by decide, by decide, by decide, by decide, by decide, by decide, opens (by decide), by decide, by decide⟩

/-- The operands of WAITS, SPAWN and FENCEX at the edges of their checks; the states stand in `witness_operands`. -/
theorem witness_WaitingInstructionsStartTheirWait :
    ((core0 [] []).guardMask c0).getLsbD 0 = true ∧ (core0 [] []).core.sup = false ∧ (super0 []).core.sup = true ∧
    ((core0 [] []).core.special 20).getLsbD 0 = false ∧
    (let s := (core0 [] []).modCore fun k => { k with spr := [(20, 1)] }
     (s.core.special 20).getLsbD 0 = true ∧ s.core.sup = false) ∧
    tagOf 0x1000000000000000 ∉ [0, 3, 4, 5, 7] ∧ tagOf 0x7000000000000004 ∈ [0, 3, 4, 5, 7] ∧
    tagOf 0x7000000000000008 ∈ [0, 3, 4, 5, 7] ∧ tagOf 0x0000000000000040 = 0 ∧ (0x40 : Word).toNat % 64 = 0 ∧
    (core0 [] []).me % 144 / 16 < 9 ∧ ((core0 [] []).fuses.clmask.getD 0 0).getLsbD 8 = true ∧
    (let s := { core0 [] [] with fuses := { Fuses.full with clmask := [0x0FF, 0x1FF, 0x1FF, 0x1FF] } }
     (s.fuses.clmask.getD (s.me / 144) 0).getLsbD 8 = false ∧ s.Opens c0 [.s 1, .s 2] [] s) ∧
    (core0 [] []).member 4 = false ∧ (core0 [] []).member 3 = true ∧ (core0 [] []).ownNode 0 = true ∧
    (core0 [] []).me = 0 :=
  ⟨by decide, by decide, by decide, by decide, by decide, by decide, by decide, by decide, by decide, by decide, by decide,
    by decide, ⟨by decide, opens (by decide)⟩, by decide, by decide, by decide, by decide⟩

/-- A task on core 0 whose translation tables map its first GiB, with a change to the core. -/
def placed0 (f : Core → Core) : State := (State.reset.place 0).modCore f

/-- Where an access leads, if it is not turned away. -/
def place? (r : Reach) : Option Loc :=
  match r with
  | .at_ l => some l
  | _ => none

theorem place?_spec {r : Reach} (h : (place? r).isSome = true) : ∃ l, r = .at_ l := by
  cases r <;> simp_all [place?]

/-- The lanes of an access that passes its checks. -/
def got? (r : Got) : Option (List (Nat × Word × Loc)) :=
  match r with
  | .ok l => some l
  | _ => none

theorem got?_spec {r : Got} (h : (got? r).isSome = true) : ∃ l, r = .ok l := by
  cases r <;> simp_all [got?]

theorem witness_TrapEntryAndReturn :
    let s := fun (w : Wait) (ls : List Landing) => (core0 [] []).modCore fun k => { k with wait := some w, land := ls }
    (s (.trap 0xFFFF) []).core.mwait = none ∧ (s (.trap 0xFFFF) []).core.wait = some (.trap 0xFFFF) ∧
    (s (.trap 0) []).core.land = [] ∧ (s (.trap 0) [landing 0 0 (Wr.scalar 1 1)]).core.land ≠ [] ∧
    (s .eret []).core.wait = some .eret ∧ (s .eret []).core.land = [] ∧
    (s .eret [landing 0 0 (Wr.scalar 1 1)]).core.land ≠ [] := by decide

/-- A task of crew 5 with its record at 0x40000, LIVE members in the crew and one waiting instruction. -/
def task0 (w : Wait) (live : Nat) : State :=
  (placed0 fun k => { k with wait := some w, spr := [(2, 5), (27, 0x40000)] }).modCrew 0 5 fun x => { x with live := live }

theorem witness_SuspensionBarrierAndEnd :
    (task0 .yield 1).core.mwait = none ∧ (task0 .yield 1).core.drained = true ∧ (task0 .yield 1).core.wait = some .yield ∧
    tagOf ((task0 .yield 1).core.special 27) = 0 ∧ ((task0 .yield 1).clusterAt (clusterOf (task0 .yield 1).me)).freeNode = some 0 ∧
    (∃ l, ((task0 .yield 1).quiesce .crew).translate (some (task0 .yield 1).me) ((task0 .yield 1).quiesce .crew).node 0
      (offOf ((task0 .yield 1).core.special 27)) .write = .at_ l) ∧
    (task0 (.cbar false) 1).core.releaseReady .crew = true ∧
    ((task0 (.cbar false) 1).crewOf (task0 (.cbar false) 1).me).arr + 1 = ((task0 (.cbar false) 1).crewOf (task0 (.cbar false) 1).me).live ∧
    ((task0 (.cbar false) 2).crewOf (task0 (.cbar false) 2).me).arr + 1 ≠ ((task0 (.cbar false) 2).crewOf (task0 (.cbar false) 2).me).live ∧
    (task0 (.cbar true) 2).core.wait = some (.cbar true) ∧ (task0 (.done 0) 1).core.wait = some (.done 0) ∧
    (task0 (.done 0) 1).core.releaseReady .part = true ∧ (task0 (.done 0) 1).core.info.stamp = 0 ∧
    (∃ l, ((task0 (.done 0) 1).quiesce .part).translate (some (task0 (.done 0) 1).me) ((task0 (.done 0) 1).quiesce .part).node 0
      (offOf ((task0 (.done 0) 1).core.special 27)) .write = .at_ l) ∧
    (task0 (.done 0) 1).roundBlocked 0 5 0 = false ∧
    ((task0 (.cbar false) 1).crewOf 0).waiters.length + ((task0 (.cbar false) 1).clusterAt 0).ready.length ≤
      4096 - ((task0 (.cbar false) 1).clusterAt 0).nodes.length ∧
    (∃ l, ((task0 (.cbar true) 2).quiesce .crew).translate (some 0) ((task0 (.cbar true) 2).quiesce .crew).node 0
      (offOf ((task0 (.cbar true) 2).core.special 27)) .write = .at_ l) ∧
    (task0 (.done 2) 1).core.wait = some (.done 2) ∧ (task0 (.done 2) 1).core.drained = true :=
  ⟨by decide, by decide, by decide, by decide, by decide, place?_spec (by decide), by decide, by decide, by decide, by decide,
    by decide, by decide, by decide, place?_spec (by decide), by decide, by decide, place?_spec (by decide), by decide, by decide⟩

/-- What a post met. -/
def posted (x : Posted × State) : Posted := x.1

/-- The outcomes of the post that a DONE makes: to a mapped page, to a migratable one that is not present, to an address that is
not aligned, to a record that waits on a page that is not present; and a DONE behind the last, and one whose count has been
made. -/
theorem witness_donePosts :
    let s := fun (a : BitVec 48) => (task0 (.done 1) 1).modCore fun k => { k with info := { k.info with stamp := a } }
    let absent := (s 0x40000).pokeBytes (nodeKey 0 0x11000) (bytesOf 8 4)
    (s 0x40000).core.wait = some (.done 1) ∧ (s 0x40000).core.info.stamp ≠ 0 ∧ (s 0x40000).core.drained = true ∧
    posted ((s 0x40000).post 0 0x40000) = .done ∧ absent.core.wait = some (.done 1) ∧ posted (absent.post 0 0x40000) = .absent ∧
    (s 0x40004).core.info.stamp ≠ 0 ∧ posted ((s 0x40004).post 0 0x40004) = .fault .align ∧
    (let w := absent.modCluster 0 fun c => { c with pool := [(0, some {
        rec_ := 0x40000, waiting := true, list := 0, prio := 0, enq := 0, since := 0, crew := 0, task := 7, stamp := 0, cnt := 2 })] }
     let t := (w.post 0 0x40000).2.modCore fun k => { k with wait := some (.done 3) }
     w.core.wait = some (.done 1) ∧ posted (w.post 0 0x40000) = .kept ∧ t.core.wait = some (.done 3) ∧ t.core.drained = true ∧
     t.core.mwait = none ∧ t.counting 0 0x40000 = true ∧ (task0 (.done 3) 1).core.wait = some (.done 3) ∧
     (task0 (.done 3) 1).counting 0 0x40000 = false) := by decide

theorem freeFrom_none (c : Cluster) (n : PoolNode) :
    ∀ k i, (∀ j, i ≤ j → j < i + k → Store.get none c.pool j = some n) → c.freeFrom k i = none
  | 0, _, _ => rfl
  | k + 1, i, h => by
    rw [Cluster.freeFrom, h i (Nat.le_refl _) (by omega)]
    exact freeFrom_none c n k (i + 1) fun j a b => h j (by omega) (by omega)

theorem get_range (n : PoolNode) : ∀ k b j, b ≤ j → j < b + k →
    Store.get none ((List.range' b k).map fun i => (i, some n)) j = some n
  | 0, _, _, _, _ => by omega
  | k + 1, b, j, h, h' => by
    simp only [List.range'_succ, List.map_cons, Store.get]
    split
    · rfl
    · exact get_range n k (b + 1) j (by omega) (by omega)

/-- A cluster whose pool of 4,096 nodes is full has no free node (R313). -/
theorem witness_fullPool (n : PoolNode) :
    ({ Cluster.reset with pool := (List.range' 0 4096).map fun i => (i, some n) } : Cluster).freeNode = none :=
  freeFrom_none _ n 4096 0 fun j a b => get_range n 4096 0 j a (by omega)

theorem nodes_length (n : PoolNode) (c : Cluster) :
    ∀ k b, ({ c with pool := (List.range' b k).map fun i => (i, some n) } : Cluster).nodes.length = k
  | 0, _ => rfl
  | k + 1, b => by
    have h := nodes_length n c k (b + 1)
    simp only [Cluster.nodes, List.range'_succ, List.map_cons, List.filterMap_cons, Option.map_some, List.length_cons] at h ⊢
    omega

/-- A state whose cluster 0 has a full pool and one released record that waits for a node. -/
def full (s : State) : State := s.modCluster 0 fun c => { c with
  pool := (List.range' 0 4096).map fun i => (i, some {
    rec_ := 0, waiting := false, list := 0, prio := 0, enq := 0, since := 0, crew := 0, task := 0, stamp := 0, cnt := 0 }),
  ready := [{ rec_ := 0, prio := 0, crew := 0, task := 0, stamp := 0, age := 0 }] }

/-- A YIELD, and a CBAR that completes its round, whose cluster has no node free. -/
theorem witness_fullSuspension :
    (full (task0 .yield 1)).core.wait = some .yield ∧ (full (task0 .yield 1)).core.mwait = none ∧
    (full (task0 .yield 1)).core.drained = true ∧ ((full (task0 .yield 1)).clusterAt 0).freeNode = none ∧
    (full (task0 (.cbar false) 1)).core.wait = some (.cbar false) ∧ (full (task0 (.cbar false) 1)).core.releaseReady .crew = true ∧
    ((full (task0 (.cbar false) 1)).crewOf 0).arr + 1 = ((full (task0 (.cbar false) 1)).crewOf 0).live ∧
    4096 - ((full (task0 (.cbar false) 1)).clusterAt 0).nodes.length <
      ((full (task0 (.cbar false) 1)).crewOf 0).waiters.length + ((full (task0 (.cbar false) 1)).clusterAt 0).ready.length := by
  have h : ∀ s, ((full s).clusterAt 0).nodes.length = 4096 := fun s => by
    rw [full, State.clusterAt_modCluster_self]; exact nodes_length _ (s.clusterAt 0) 4096 0
  have g : ∀ s, ((full s).clusterAt 0).freeNode = none := fun s => by
    rw [full, State.clusterAt_modCluster_self]
    exact freeFrom_none _ _ 4096 0 fun j a b => get_range _ 4096 0 j a (by omega)
  have c : ∀ s e, clusterOf e = 0 → (full s).crewOf e = s.crewOf e := fun s e he => by
    unfold State.crewOf; rw [he, full, State.clusterAt_modCluster_self]; rfl
  have q : ∀ s, ((full s).clusterAt 0).ready.length = 1 := fun s => by rw [full, State.clusterAt_modCluster_self]; rfl
  refine ⟨rfl, rfl, rfl, g _, rfl, rfl, ?_, ?_⟩
  · rw [c _ 0 rfl]; decide
  · rw [h, q]; omega

theorem witness_PhasesFencesAndSpawnsProgress :
    let m := fun (w : Wait) => (core0 [] []).modCore fun k => { k with mwait := some w }
    (m (.phase .rel .part)).core.releaseReady .part = true ∧ (m (.phase .acq .core)).core.mwait = some (.phase .acq .core) ∧
    (m (.fence 3 .die false)).core.releaseReady .die = true ∧
    (let s := (m (.phase .ar .part)).modCore fun k => { k with pend := [{
        id := 0, op := SlotOp.none, own := k.owner, due := 0, keys := [], vas := [], locs := [], peer := true, perf := true,
        acked := false, res := [], dest := [], fault := none, seq := 0, sent := 0, lastTx := 0, left := [], fenced := false, blk := [] }] }
     s.core.releaseReady .part = false) ∧
    (let s := fun (w0 w1 w2 : Word) (live : Nat) => ((placed0 fun k => { k with wait := some (.spawn 0x40000 0) }).modCrew 0 5
        fun x => { x with live := live }).pokeBytes (nodeKey 0 0x40000) (wordsBytes [w0, w1, w2])
     let w1 : Word := 0x1000000000000000 + 5 * 2 ^ 41
     (s 0 w1 0 15).core.mwait = none ∧ (s 0 w1 0 15).core.wait = some (.spawn 0x40000 0) ∧
     (s 0 w1 0 15).core.releaseReady .crew = true ∧
     place? (((s 0 w1 0 15).release 0 .crew).access 0 0x40000 .rw 64 0 false) =
       some { tag := 0, key := 0x40000, node := 0, cls := 2, leaf := some (0, 2 ^ 30, 0x0200000000000073) } ∧
     (((s 0 w1 0 15).release 0 .crew).viewWord 0 0x40008) = w1 ∧ spawnFault 0 w1 0 = none ∧
     (Store.get Crew.none (((s 0 w1 0 15).release 0 .crew).clusterAt 0).crews 5).live < 16 ∧
     16 ≤ (Store.get Crew.none (((s 0 w1 0 16).release 0 .crew).clusterAt 0).crews 5).live ∧
     ((s 0 w1 0 15).clusterAt 0).freeNode = some 0 ∧ (((s 1 w1 0 15).release 0 .crew).viewWord 0 0x40000).toNat % 8 ≠ 0) := by
  decide

/-- A SPAWN into a cluster without a free node; its other hypotheses are those of `witness_PhasesFencesAndSpawnsProgress`,
which a full pool leaves as they are. -/
theorem witness_fullSpawn (s : State) :
    ((full s).clusterAt 0).freeNode = none ∧ (full s).core = s.core ∧ (full s).mem = s.mem ∧
    ((full s).clusterAt 0).crews = (s.clusterAt 0).crews := by
  refine ⟨?_, rfl, rfl, ?_⟩
  · rw [full, State.clusterAt_modCluster_self]
    exact freeFrom_none _ _ 4096 0 fun j a b => get_range _ 4096 0 j a (by omega)
  · rw [full, State.clusterAt_modCluster_self]

theorem witness_StampWaitsArmAndEnd :
    let s := fun (w : Wait) (i : Instr) (v : Nat) => { (core0 [] []).modCore (fun k => { k with
        wait := some w, waitOp := { SlotOp.none with instr := i } }) with mem := Memory.set [] (spadKey 0 64) (BitVec.ofNat 8 v) }
    let p : Word := 0x5000000000000040
    (s (.stamp p 7 false false) (.waits c0 (.s 3) (.s 1) (.s 2) false) 7).core.mwait = none ∧
    place? ((s (.stamp p 7 false false) (.waits c0 (.s 3) (.s 1) (.s 2) false) 7).stampPlace p) =
      some { tag := 5, key := spadKey 0 64, node := 0, cls := 0, leaf := none } ∧
    (s (.stamp p 7 false false) (.waits c0 (.s 3) (.s 1) (.s 2) false) 7).homeNat 0 (spadKey 0 64) 8 = 7 ∧
    (s (.stamp p 7 false false) (.waits c0 (.s 3) (.s 1) (.s 2) false) 6).homeNat 0 (spadKey 0 64) 8 = 6 ∧
    (let t := s (.any 0x80 false true false) (.waitany c0 (.s 3) 0x80 false true) 0
     t.core.wait = some (.any 0x80 false true false) ∧ (0x80 : BitVec 8).getLsbD 7 = true ∧
     (∀ j < 8, (0x80 : BitVec 8).getLsbD j = true → j = 7) ∧ (t.core.cbOf 7).addr = 0) ∧
    (let t := { s (.stamp p 7 false true) (.waits c0 (.s 3) (.s 1) (.s 2) false) 7 with
        monitors := [{ core := 0, mon := 8, key := spadKey 0 64, exp := 7 }]
        seen := [{ core := 0, mon := 8, cls := 1, val := 7, hit := true }] }
     t.core.run = .running ∧ t.seen = [{ core := 0, mon := 8, cls := 1, val := 7, hit := true }] ∧
     { core := t.me, mon := 8, key := spadKey 0 64, exp := 7 } ∈ t.monitors) ∧
    (s (.stamp 0x5000000000070000 7 false false) (.waits c0 (.s 3) (.s 1) (.s 2) false) 7).stampPlace 0x5000000000070000 =
      .fail .range ∧
    (let t := fun (a : Word) => (s (.any 0x80 false true false) (.waitany c0 (.s 3) 0x80 false true) 6).modCore fun k => { k with
       cb := [(7, { addr := a, exp := 7 })] }
     (t p).anyPlaces (maskBits 0x80) = .ok [(7, spadKey 0 64)] ∧
     (t 0x5000000000070000).anyPlaces (maskBits 0x80) = .error (0x5000000000070000, .fail .range) ∧
     firstDone 0 (fun _ => false) 0x80 = none ∧ firstDone 0 (fun k => k == 7) 0x80 = some 7 ∧
     (let u := { t p with
        monitors := [{ core := 0, mon := 7, key := spadKey 0 64, exp := 7 }]
        seen := [{ core := 0, mon := 7, cls := 1, val := 7, hit := true }] }
      firstDone 0 (u.sameWord 7 7) 0x80 = some 7)) := by decide

theorem witness_FencesAndWritebacks :
    let ln : CLine := { data := 5, have_ := 1, dirty := 1, cur := true, glue := 0 }
    let s := (core0 [] []).modCore fun k => { k with
      cache := [(8192, ln)], backing := [(8192, 1)], mwait := some (.fence 1 .crew true) }
    let many := (core0 [] []).modCore fun k => { k with cache := (List.range 1025).map fun i => (i, ln) }
    ((core0 [] []).guardMask c0).getLsbD 0 = true ∧ Store.get 0 s.core.backing 8192 ≠ 0 ∧ Store.get 0 s.core.backing 8193 = 0 ∧
    s.core.mwait = some (.fence 1 .crew true) ∧ s.ownNode (fenceNode 1) = true ∧ s.enabledAt (fenceNode 1) (fenceCore 1) = true ∧
    (s.coreAt (fenceTarget 1)).frozen = false ∧ (s.coreAt (fenceTarget 1)).late = [] ∧ s.boundaryOpen (fenceTarget 1) = true ∧
    s.enabledAt (fenceNode 144) (fenceCore 144) = false ∧
    1024 < many.core.curLines.length ∧ 1024 ∈ many.core.curLines ∧ Store.get 0 many.core.backing 1024 = 0 := by
  have h : ∀ n, ((((List.range n).map fun i => (i, ({ data := 5, have_ := 1, dirty := 1, cur := true, glue := 0 } : CLine))).filter
      (·.2.cur)).map (·.1)) = List.range n := fun n => by
    rw [List.filter_eq_self.2 (by simp), List.map_map]; exact List.map_id _
  refine ⟨by decide, by decide, by decide, by decide, by decide, by decide, by decide, by decide, by decide, by decide, ?_, ?_, rfl⟩
  · show 1024 < (List.map _ (List.filter _ _)).length
    rw [State.core_modCore, h]; simp
  · show 1024 ∈ (List.map _ (List.filter _ _))
    rw [State.core_modCore, h]; simp

/-- A vector operation runs under p0 with every lane, and under p9 with any mask that is not empty. -/
theorem witness_lanes (m : Word) (h : m ≠ 0) :
    (core0 [(1, 64)] []).OpensLanes c0 [] [] ones (core0 [(1, 64)] []) ∧
    (core0 [(1, 64)] []).OpensLanes c0 [.s 1] [] ones (core0 [(1, 64)] []) ∧
    (core0 [(1, 64)] []).OpensLanes c0 [.s 1] [.s 2] ones (core0 [(1, 64)] []) ∧
    (core0 [(1, 64)] []).OpensLanes c0 [.s 1, .s 2, .s 3] [] ones (core0 [(1, 64)] []) ∧
    (let s : State := { State.reset with cores := [(0, { Core.reset with run := .running, p := [(9, m)] })] }
     s.OpensLanes { c0 with guard := 9 } [] [] m s ∧ s.OpensLanes { c0 with guard := 9 } [.s 1] [] m s ∧
     s.OpensLanes { c0 with guard := 9 } [.s 1] [.s 2] m s) :=
  ⟨opensLanes (by decide), opensLanes (by decide), opensLanes (by decide), opensLanes (by decide),
    ⟨rfl, h, .inr ⟨rfl, rfl, rfl⟩⟩, ⟨rfl, h, .inr ⟨rfl, rfl, rfl⟩⟩, ⟨rfl, h, .inr ⟨rfl, rfl, rfl⟩⟩⟩

/-- The single lane at either end. -/
theorem witness_VectorFloatArithmetic :
    (1 : Word) ≠ 0 ∧ (0x8000000000000000 : Word) ≠ 0 ∧ VTy.f32.isFloat = true ∧ VTy.f16.isFloat = true ∧
    VTy.bf16.isFloat = true ∧ (core0 [] []).OpensLanes c0 [] [] ones (core0 [] []) :=
  ⟨by decide, by decide, by decide, by decide, by decide, opensLanes (by decide)⟩

theorem witness_VectorMinimaComparesAndSelection :
    let v := fun (x : Nat) => decodeF .fp32 false x
    v 0x7FC00000 = .nan ∧ v 0x3F800000 ≠ .nan ∧ (v 0x80000000).lt true (v 0) = true ∧ (v 0).lt true (v 0) = false ∧
    (VTy.i32.isFloat = false ∧ VCond.eq ≠ .un ∧ VCond.eq ≠ .or) ∧ (core0 [] []).OpensLanes c0 [] [] ones (core0 [] []) :=
  ⟨by decide, by decide, by decide, by decide, by decide, opensLanes (by decide)⟩

theorem witness_VectorFunctionsAndConversions :
    VTy.f32.isFloat = true ∧ cvtForm .f16 .bf16 true = true ∧ cvtForm .f32 .f32 true = true ∧ cvtForm .i32 .f32 false = true ∧
    cvtForm .n32 .f32 false = true ∧ cvtForm .f32 .i32 false = true ∧ cvtForm .f32 .n32 false = true ∧
    cvtForm .i32 .n32 true = true ∧ cvtForm .n32 .i32 true = true ∧
    recipEx (.inf true) = .fin true 0 0 ∧ recipEx .nan = .nan ∧ recipEx (.fin true 0 0) = .inf true ∧
    (core0 [] []).OpensLanes c0 [] [] ones (core0 [] []) :=
  ⟨by decide, by decide, by decide, by decide, by decide, by decide, by decide, by decide, by decide, by decide, by decide,
    by decide, opensLanes (by decide)⟩

theorem witness_VectorIntegerLanes : (core0 [] []).OpensLanes c0 [] [] ones (core0 [] []) ∧ VTy.i32 = .i32 ∧ VTy.n32 = .n32 :=
  ⟨opensLanes (by decide), rfl, rfl⟩

theorem witness_VectorReductionsAndScans :
    (core0 [] []).OpensLanes c0 [] [] ones (core0 [] []) ∧ redForm .add .f16 .rne true = true ∧ redForm .add .n32 .fmode true = true ∧
    redForm .min .f32 .rdn false = true ∧ redForm .max .i32 .fmode false = true ∧ redForm .add .n32 .fmode false = true ∧
    ∀ (f : Nat → Nat → Nat) (e : List Nat), ∃ levels : Nat → List Nat, levels 0 = e ∧ ∀ k, levels (k + 1) = pairUp f (levels k) :=
  ⟨opensLanes (by decide), by decide, by decide, by decide, by decide, by decide,
    fun f e => ⟨fun n => Nat.rec e (fun _ x => pairUp f x) n, rfl, fun _ => rfl⟩⟩

theorem witness_VectorPermutations :
    (core0 [(1, 63)] []).OpensLanes c0 [.s 1] [.s 2] ones (core0 [(1, 63)] []) ∧ (ones : Word).getLsbD 63 = true ∧
    (0x7FFFFFFFFFFFFFFF : Word).getLsbD 63 = false ∧ (core0 [(1, 63)] []).src .b (.s 1) = 63 :=
  ⟨opensLanes (by decide), by decide, by decide, by decide⟩

theorem witness_VectorPackingQuantisationAndRotation :
    VTy.f16.isHalf = true ∧ VTy.f32.isFloat = true ∧ modeOf .rsr 0 = .rsr ∧ modeOf .rne 0 ≠ .rsr ∧
    2 ^ 24 ≤ ((core0 [(1, 0x1000000)] []).src .c (.s 1)).toNat ∧ ((core0 [(1, 0xFFFFFF)] []).src .c (.s 1)).toNat < 2 ^ 24 ∧
    field (lanes [255]) 32 0 % 256 = 255 ∧ field (lanes [254]) 32 0 % 256 ≠ 255 := by decide

theorem witness_VectorPackingQuantisationAndRotation_opens :
    (core0 [] []).OpensLanes c0 [.s 1] [] ones (core0 [] []) ∧ (core0 [] []).OpensLanes c0 [] [] ones (core0 [] []) :=
  ⟨opensLanes (by decide), opensLanes (by decide)⟩

/-- Core 0 in a cluster whose window is as large as it can be. -/
def share3 (x : Word) : State := { core0 [(4, x)] [] with clusters := [(0, { Cluster.reset with clshare := 3 })] }

/-- The last aligned word of each local space, one past it, a misaligned one and a tag that no space has. -/
theorem witness_LocalScalarLoads :
    4 ≤ ((share3 0x40000000002FFFF8).core.sreg 4).toNat / 2 ^ 60 ∧ ((share3 0x40000000002FFFF8).core.sreg 4).toNat / 2 ^ 60 < 8 ∧
    (((share3 0x40000000002FFFF8).core.sreg 4 + (0 : BitVec 16).signExtend 64).toNat % 2 ^ 60) % 8 = 0 ∧
    4 ≤ ((share3 0x500000000002FFF8).core.sreg 4).toNat / 2 ^ 60 ∧ ((share3 0x500000000002FFF8).core.sreg 4).toNat / 2 ^ 60 < 8 ∧
    (((share3 0x500000000002FFF8).core.sreg 4 + (0 : BitVec 16).signExtend 64).toNat % 2 ^ 60) % 8 = 0 ∧
    4 ≤ ((share3 0x600000000001FFF8).core.sreg 4).toNat / 2 ^ 60 ∧ ((share3 0x600000000001FFF8).core.sreg 4).toNat / 2 ^ 60 < 8 ∧
    (((share3 0x600000000001FFF8).core.sreg 4 + (0 : BitVec 16).signExtend 64).toNat % 2 ^ 60) % 8 = 0 ∧
    4 ≤ ((share3 0x7000000001FFFFF8).core.sreg 4).toNat / 2 ^ 60 ∧ ((share3 0x7000000001FFFFF8).core.sreg 4).toNat / 2 ^ 60 < 8 ∧
    (((share3 0x7000000001FFFFF8).core.sreg 4 + (0 : BitVec 16).signExtend 64).toNat % 2 ^ 60) % 8 = 0 ∧
    16 * (65536 * 3) = 0x2FFFF8 + 8 ∧ 393216 - 65536 * 3 = 0x2FFF8 + 8 ∧ 131072 = 0x1FFF8 + 8 ∧ 33554432 = 0x1FFFFF8 + 8 ∧
    ((share3 0).clusterAt ((share3 0).me / 144 * 9 + (share3 0).me % 144 / 16)).clshare.toNat % 4 = 3 ∧
    8 ≤ ((share3 0x8000000000000000).core.sreg 4).toNat / 2 ^ 60 ∧ (share3 0).core.cur.latched = false ∧ (share3 0).me < 576 := by
  decide

theorem witness_LocalScalarLoads_opens : (share3 0).Opens c0 [] [.s 3] (share3 0) := opens (by decide)

/-- A task whose global pointers below 1 GiB are mapped, and whose page at 1 GiB is migratable and absent. -/
def paged0 (rs : List (Nat × Word)) (p : Word) : State :=
  ((State.reset.place 0).placeWord 0x11008 4).modCore fun k => { k with s := rs, p := [(9, p)] }

/-- A load that reads. -/
def reads? (s : State) (n : Nat) (ls : List (Nat × Word × Loc)) : Option (List (Nat × Word)) :=
  match ((s.keepLeaves ls).loadAll s.me n (locRuns ls) ls).1 with
  | .ok vs => some vs
  | .error _ => none

/-- A global pointer, two lanes of the slices, lanes that fault and lanes that meet the absent page. -/
theorem witness_TimedLoadsLandWhatTheyRead :
    let s := paged0 [(4, 0x40000), (5, 0x6000000000000000), (6, 0x5000000000060000), (7, 0x40000000)] 0x8000000000000001
    let g : Ctl := { c0 with guard := 9 }
    s.Opens c0 [] [.s 3] s ∧ s.OpensLanes g [] [] 0x8000000000000001 s ∧
    s.OpensLanes g [.s 5, .s 0, .s 0] [] 0x8000000000000001 s ∧ s.OpensLanes g [.s 5] [] 0x8000000000000001 s ∧
    ((got? (s.lanesAt .read 8 false (latencyCheck 2 false) [(0, ea (s.src .a (.s 4)) 0)])).bind (reads? s 8)).isSome = true ∧
    ((got? (s.lanesAt .read 4 true (latencyCheck 0 true) [(0, ea (s.src .a (.s 5)) 0), (63, ea (s.src .a (.s 5)) 0)])).bind
      (reads? s 4)).isSome = true ∧
    s.lanesAt .read 8 false (latencyCheck 0 false) [(0, ea (s.src .a (.s 6)) 0)] = .fail .range 0x5000000000060000 ∧
    s.lanesAt .read 8 false (latencyCheck 2 false) [(0, ea (s.src .a (.s 7)) 0)] = .restart 0x40000000 ∧
    s.lanesAt .read 4 true (latencyCheck 0 true) [(0, ea (s.src .a (.s 6)) 0), (63, ea (s.src .a (.s 6)) 252)] =
      .fail .range 0x5000000000060000 ∧
    s.lanesAt .read 4 true (latencyCheck 2 true) [(0, ea (s.src .a (.s 7)) 0), (63, ea (s.src .a (.s 7)) 252)] =
      .restart 0x40000000 ∧
    s.lanesAt .read 4 true (latencyCheck 0 true) [(0, ea (s.src .a (.s 6)) 0), (63, ea (s.src .a (.s 6)) 0)] =
      .fail .range 0x5000000000060000 ∧
    s.lanesAt .read 4 true (latencyCheck 2 true) [(0, ea (s.src .a (.s 7)) 0), (63, ea (s.src .a (.s 7)) 0)] =
      .restart 0x40000000 :=
  ⟨opens (by decide), opensLanes (by decide), opensLanes (by decide), opensLanes (by decide), by decide, by decide, by decide,
    by decide, by decide, by decide, by decide, by decide⟩

/-- A gate with some entries. -/
def gated0 (closed : Bool) (n : Nat) (rs : List (Nat × Word)) : State := (core0 rs []).modCore fun k => { k with
  gateClosed := closed, gate := List.replicate n { opc := 0x142, bundle := 0, bytes := 8, lanes := [] } }

theorem witness_ScratchpadStores :
    (gated0 false 0 [(4, 0x500000000005FFF8)]).Opens c0 [.s 1] [] (gated0 false 0 [(4, 0x500000000005FFF8)]) ∧
    (let s := gated0 false 0 [(4, 0x500000000005FFF8)]
     s.core.cur.latched = false ∧ s.me < 576 ∧ (s.core.sreg 4).toNat / 2 ^ 60 = 5 ∧
     ((s.core.sreg 4 + (0 : BitVec 16).signExtend 64).toNat % 2 ^ 60) + 8 = 393216 ∧ s.core.gateClosed = false ∧ s.core.gate = [] ∧
     s.core.pend = []) ∧
    (gated0 true 63 []).core.gateClosed = true ∧ (gated0 true 63 []).core.gate.length < 64 ∧ (gated0 true 63 []).core.pend = [] ∧
    64 ≤ (gated0 true 64 []).core.gate.length :=
  ⟨opens (by decide), by decide, by decide, by decide, by decide, by decide⟩

theorem witness_StoreFormsGatePerformOrSend :
    let s := paged0 [(4, 0x40000), (5, 0x6000000000000000), (6, 0x3000000000000000)] 0x8000000000000001
    let g : Ctl := { c0 with guard := 9 }
    s.Opens c0 [.s 1] [] s ∧ s.OpensLanes g [] [] 0x8000000000000001 s ∧ s.OpensLanes g [.s 5, .s 0, .s 0] [] 0x8000000000000001 s ∧
    s.OpensLanes g [.s 5] [] 0x8000000000000001 s ∧
    (got? (s.lanesAt .write 8 false (fun _ => none) [(0, ea (s.src .a (.s 4)) 0)])).isSome = true ∧
    (got? (s.lanesAt .write 4 true (fun _ => none) [(0, ea (s.src .a (.s 5)) 0), (63, ea (s.src .a (.s 5)) 0)])).isSome = true ∧
    ((got? (s.lanesAt .write 4 true (fun _ => none) [(0, ea (s.src .a (.s 6)) 0)])).map fun l => l.map fun x => x.2.2.tag) = some [3] ∧
    s.core.gateClosed = false ∧ (gated0 true 63 []).core.gateClosed = true ∧ (gated0 true 63 []).core.gate.length < 64 ∧
    64 ≤ (gated0 true 64 []).core.gate.length :=
  ⟨opens (by decide), opensLanes (by decide), opensLanes (by decide), opensLanes (by decide), by decide, by decide, by decide,
    by decide, by decide, by decide, by decide⟩

/-- The words of a scheduler's region, which a store is ignored at, and the last word before it. -/
theorem witness_StoreForms_ignored :
    let s := core0 [(4, 0x7000000001FFFFF8), (5, 0x5000000000000000)] []
    ((got? (s.lanesAt .write 8 false (fun _ => none) [(0, ea (s.src .a (.s 4)) 0)])).map fun l =>
      l.map fun x => s.ignoresWrite x.2.2.key) = some [true] ∧
    ((got? (s.lanesAt .write 8 false (fun _ => none) [(0, ea (s.src .a (.s 5)) 0)])).map fun l =>
      l.map fun x => s.ignoresWrite x.2.2.key) = some [false] := by decide

theorem witness_QueuedLoadsStart :
    let s := ((paged0 [(4, 0x40000), (5, 0x5000000000000000), (6, 0x6000000000000000)] 0x8000000000000001).modCore fun k => { k with
      qtab := [(2, 0x1000000000000000)] }).pokeBytes (spadKey 0 0) (bytesOf 8 0x1000000000000000)
    (s.guardMask c0).getLsbD 0 = true ∧ qKind (Store.get 0 s.core.qtab 1) ≠ 1 ∧ qKind (Store.get 0 s.core.qtab 2) = 1 ∧
    (got? (s.lanesAt .read 8 false (fun _ => none) [(0, ea (s.src .a (.s 4)) 8)])).isSome = true ∧
    ((got? (s.lanesAt .read 8 false (latencyCheck 0 false) [(0, ea (s.src .a (.s 5)) 0)])).bind (reads? s 8)) =
      some [(0, 0x1000000000000000)] ∧
    bindFault 0x1000000000000000 (s.core.special 4).toNat = none ∧
    (bindFault 0xF000000000000000 (s.core.special 4).toNat).isSome = true ∧
    s.guardMask { c0 with guard := 9 } = 0x8000000000000001 ∧
    (got? (s.lanesAt .read 4 true (fun _ => none) [(0, ea (s.src .a (.s 6)) 0), (63, ea (s.src .a (.s 6)) 0)])).isSome = true ∧
    tagOf (ea 0x3FFFFFFFFFFFFFFF 0) < 4 ∧ 4 ≤ tagOf (ea (s.src .a (.s 5)) 0) ∧ tagOf (ea (s.src .a (.s 5)) 0) < 8 ∧
    8 ≤ tagOf (ea 0x8000000000000000 0) := by decide

/-- An operation in flight. -/
def pend0 (i : Instr) (dest : List Wr) : Pend :=
  { id := 7, op := { SlotOp.none with instr := i, latched := true }, own := (core0 [] []).core.owner, due := 0, keys := [], vas := [],
    locs := [], peer := false, perf := false, acked := false, res := [], dest := dest, fault := none, seq := 0, sent := 0,
    lastTx := 0, left := [], fenced := false, blk := [] }

/-- Core 0 with one operation in flight. -/
def flight0 (p : Pend) : State := (core0 [] []).modCore fun k => { k with pend := [p] }

theorem witness_AtomicsPerformAtTheirHome :
    (let s := core0 [(1, 0x5000000000000008), (2, 1), (4, 1)] []
     s.Opens c0 [.s 1, .s 2] [.s 3] s ∧ s.Opens c0 [.s 1, .s 2, .s 4] [.s 3] s ∧
     (got? ((s.commitGate s.me).lanesAt .rw 8 false (fun _ => none) [(0, s.src .a (.s 1))])).isSome = true ∧
     (got? ((s.commitGate s.me).lanesAt .rw 4 false (fun _ => none) [(0, s.src .a (.s 1))])).isSome = true) ∧
    (∀ i ∈ ([.atom c0 (.s 3) (.s 1) (.s 2) (.s 0) .fadd false .relaxed .core, .atom c0 (.s 3) (.s 1) (.s 2) (.s 4) .inc true .ar .part,
        .cas c0 (.s 3) (.s 1) (.s 2) (.s 4) true .rel true .die] : List Instr),
      let p := { pend0 i [Wr.scalar 3 0] with keys := [(0, spadKey 0 8)] }
      (flight0 p).core.pendOf 7 = some p ∧ p.peer = false ∧ p.perf = false ∧ p.due ≤ (flight0 p).cycle ∧
      (flight0 p).heldAtHome p = false ∧ (flight0 p).core.relWaits p = false) :=
  ⟨⟨opens (by decide), opens (by decide), by decide, by decide⟩, by decide⟩

/-- The pointers of a remote operation at the edges of its checks, a request that is due, one that is overdue and one
that has been sent eight times, and a unit that holds, has lost, or has never seen a number. -/
theorem witness_RemoteOperations :
    (let s := core0 [(1, 0x3010000000000000), (2, 0x5000000000000040)] []
     s.Opens c0 [.s 1, .s 2] [.s 3] s ∧ tagOf (s.src .a (.s 1)) = 3 ∧ tagOf (s.src .b (.s 2)) = 5 ∧
     (place? (s.access s.me (s.src .b (.s 2)) .rw 64 0 false)).isSome = true ∧
     (s.commitGate s.me).reachable ((s.src .a (.s 1)).toNat / 2 ^ 52 % 256) = true ∧
     (s.commitGate s.me).reachable 4 = false ∧ tagOf (s.src .b (.s 1)) ≠ 5 ∧ tagOf (s.src .a (.s 2)) ≠ 3 ∧
     (0x5000000000000048 : Word).toNat % 64 ≠ 0) ∧
    (let p := { pend0 (.ropEnq c0 (.s 3) (.s 1) (.s 2) .relaxed) [Wr.scalar 3 0] with peer := true, seq := 1 }
     (flight0 p).core.pendOf 7 = some p ∧ p.mantis = true ∧ (flight0 p).heldAtHome p = false ∧ p.sent = 0 ∧
     p.due ≤ (flight0 p).cycle ∧ (flight0 p).core.relWaits p = false ∧
     (flight0 { p with sent := 1 }).heldAtHome { p with sent := 1 } = false ∧
     (flight0 { p with sent := 1 }).core.relWaits { p with sent := 1 } = false ∧
     (let s := { flight0 { p with sent := 8 } with cycle := 32768 }
      s.core.pendOf 7 = some { p with sent := 8 } ∧ p.lastTx + 32768 ≤ s.cycle) ∧
     (let s := { flight0 { p with sent := 7 } with cycle := 32768 }
      s.core.pendOf 7 = some { p with sent := 7 } ∧ p.acked = false ∧ p.lastTx + 32768 ≤ s.cycle) ∧
     (let s := fun (m : MantisSrc) => (flight0 p).modDie 0 fun d => { d with mantis := [(0, m)] }
      (s { h := 5, lost := true, replies := [] }).mantisDie (p.op.a.toNat / 2 ^ 52 % 256) = 0 ∧
      (Store.get MantisSrc.none ((s { h := 5, lost := true, replies := [] }).dieAt 0).mantis 0).lost = true ∧
      (let m := { h := 64, lost := false, replies := [(1, some ([5, 1], none))] : MantisSrc }
       m.kept p.seq = some (some ([5, 1], none)) ∧ -63 ≤ (p.seq - m.h).toInt ∧ m.lost = false) ∧
      (let m := { h := 0, lost := false, replies := [] : MantisSrc }
       m.kept p.seq = none ∧ -63 ≤ (p.seq - m.h).toInt) ∧
      (let m := { h := 65, lost := false, replies := [] : MantisSrc }
       (p.seq - m.h).toInt < -63) ∧
      (let m := { h := 1, lost := false, replies := [(1, none)] : MantisSrc }
       m.kept p.seq = some none ∧ -63 ≤ (p.seq - m.h).toInt))) :=
  ⟨⟨opens (by decide), by decide, by decide, by decide, by decide⟩, by decide⟩

/-- Whether an operation is in flight, due, and of the task that its core runs. -/
def mine (p : Pend) : Bool :=
  (flight0 p).core.pendOf 7 == some p && decide (p.due ≤ (flight0 p).cycle) && (flight0 p).core.owns p.own &&
    !(flight0 p).core.frozen

theorem witness_AccessesComplete :
    (let p := { pend0 (.atom c0 (.s 3) (.s 1) (.s 2) (.s 0) .add true .relaxed .core) [Wr.scalar 3 0] with perf := true, res := [5] }
     let q := { p with op := { p.op with bar := some 7 } }
     let r := { pend0 (.cas c0 (.s 3) (.s 1) (.s 2) (.s 4) true .relaxed true .die) [Wr.scalar 3 0] with
       perf := true, peer := true, acked := true, res := [5] }
     mine p = true ∧ p.fault = none ∧ p.dest = [Wr.scalar 3 0] ∧ mine q = true ∧ q.op.bar = some 7 ∧ mine r = true ∧ acquiresAtEnd r = true ∧ r.keys = [] ∧
     mine { p with keys := [(0, 5)], fault := some (.range, 5) } = true) ∧
    (let p := { pend0 (.ropChase c0 (.s 3) (.s 1) (.s 2) 15 .relaxed) [Wr.scalar 3 0] with
       perf := true, peer := true, acked := true, res := [1, 2, 3, 4, 5, 6, 7, 8, 9, 10] }
     let q := { p with op := { p.op with b := 0x500000000005FFC0 } }
     mine q = true ∧ (flight0 q).me < 576 ∧ offOf q.op.b + 64 = 393216 ∧ q.res.length = 10 ∧
     mine { p with fault := some (.remoteIndeterminate, 0) } = true) ∧
    (let p := pend0 (.ldq c0 2 4 0 false 3) []
     let s := fun (x : Pend) (owed : List (Nat × Option Word)) =>
       (flight0 x).modCore fun k => { k with streams := [(2, { ready := [], owed := owed })] }
     let q := { p with perf := true, res := [5] }
     mine p = true ∧ (flight0 p).heldAtHome p = false ∧ (s q [(7, none)]).core.pendOf 7 = some q ∧
     (Store.get Stream.none (s q [(7, none)]).core.streams 2).owed = [(q.id, none)] ∧
     ((Store.get Stream.none (s q [(6, none), (7, none)]).core.streams 2).owed.any fun y => y.1 < q.id && y.2.isNone) = true ∧
     ((Store.get Stream.none (s q [(6, some 1), (7, none)]).core.streams 2).owed.any fun y => y.1 < q.id && y.2.isNone) = false ∧
     mine { q with fault := some (.range, 5) } = true) ∧
    (let p := pend0 (.ldvq c0 20 4 0) [{ kind := .vector, idx := 20, mask := 0x8000000000000001, val := 0, room := 0 }]
     mine p = true ∧ (flight0 p).heldAtHome p = false ∧ mine { p with perf := true, res := [1, 2], peer := true } = true ∧
     mine { p with perf := true, fault := some (.range, 5) } = true) ∧
    (let p := pend0 (.tld c0 (.s 3) (.s 1) (.s 2) (.s 4) 7) [Wr.scalar 3 0]
     mine p = true ∧ (flight0 p).heldAtHome p = false ∧ mine { p with perf := true, res := [1] } = true ∧
     mine { p with perf := true, fault := some (.range, 5) } = true) ∧
    (let p := { pend0 (.st c0 (.s 3) 4 0 0) [] with peer := true, vas := [0x3000000000040000], blk := [7], left := [1] }
     isStore p.op.instr = true ∧ mine { p with perf := true } = true ∧ mine { p with perf := true, fault := some (.range, 5) } = true ∧
     p.mantis = false) := by decide

/-- What the lanes of a peer access find. -/
def peer? (s : State) (a : Nat) (k : AccKind) : Got := gather [(0, 0x3000000000000000, s.peerAccess 0 a k)]

/-- Peer accesses whose page is mapped, absent and migratable, and unmapped. -/
theorem witness_peerAccesses :
    let s := (State.reset.place 0).placeWord 0x11008 4
    let q := { pend0 (.st c0 (.s 3) 4 0 0) [] with peer := true, vas := [0x3000000000040000], blk := [7], left := [1] }
    (got? (peer? s 0x40000 .read)).isSome = true ∧ (got? (peer? s 0x40000 .write)).isSome = true ∧
    peer? s 0x40000000 .write = .restart 0x3000000000000000 ∧ peer? s 0x80000000 .read = .fail .pageNotPresent 0x3000000000000000 ∧
    (s.modCore fun k => { k with pend := [q] }).core.pendOf 7 = some q ∧ (s.modCore fun k => { k with pend := [q] }).heldAtHome q = false ∧
    q.perf = false ∧ q.peer = true ∧ q.mantis = false := by decide

/-- The map of the manual's example under R372, and its mesh of four nodes. -/
def map0 : List Word := [0x000A010400010000, 0x0000000A80000000, 0x0000000600000000, 0, 0, 0, 0, 0x0000000000100000]

/-- A task with that map in sm0, in a partition of its own. -/
def mapped0 (rs : List (Nat × Word)) : State :=
  let s := (paged0 rs 0).modCore fun k => { k with sm := [(0, 0x000A010400010000), (1, 0x0000000A80000000), (2, 0x0000000600000000), (7, 0x100000)] }
  { s with pkg := { s.pkg with part := some { id := 1, pkg := 0, mesh := 0x103, others := [] }, anchor := some (0, 0) } }

theorem witness_MapInstructions :
    let s := mapped0 [(1, 0x0000000400000002), (2, 0x0000000400000007), (5, 0x5000000000000040), (6, 0x5000000000000004)]
    let words := (List.range 8).map fun w => Store.get 0 s.core.sm (8 * (0 : BitVec 3).toNat + w)
    s.Opens c0 [.s 1, .s 0, .s 0] [.s 3] s ∧ s.Opens c0 [.s 3, .s 1, .s 0, .s 0] [] s ∧ s.Opens c0 [.s 5] [] s ∧
    (elementAt s.mesh s.node words [2, 4, 0, 0, 0, 0] false).toOption = some (0x100040, 4) ∧
    (elementAt s.mesh s.node words [2, 4, 0, 0, 0, 0] true).toOption = some (0x100040, 4) ∧
    (elementAt s.mesh s.node words [10, 0, 0, 0, 0, 0] false).toOption = none ∧
    (got? (s.lanesAt .read 4 false (fun _ => none) [(0, 0x100040)])).isSome = true ∧
    ((got? (s.lanesAt .write 4 false (fun _ => none) [(0, 0x100040)])).map fun l =>
      l.all fun x => x.2.2.tag != 3 && !s.ignoresWrite x.2.2.key) = some true ∧
    ((got? (s.lanesAt .write 4 false (fun _ => none) [(0, 0x100040)])).map List.length) = some 1 ∧
    s.core.gateClosed = false ∧ s.core.pend = [] ∧ (s.src .a (.s 6)).toNat % 64 ≠ 0 ∧ tagOf (s.src .a (.s 5)) = 5 ∧
    (s.src .a (.s 5)).toNat % 64 = 0 ∧
    (got? (s.lanesAt .read 64 false (fun _ => none) [(0, s.src .a (.s 5))])).isSome = true ∧
    (got? (s.lanesAt .write 64 false (fun _ => none) [(0, s.src .a (.s 5))])).isSome = true ∧
    (let q := { pend0 (.shmld c0 (.s 5) 7) [] with perf := true, res := map0 }
     let t := { flight0 q with pkg := s.pkg }
     t.core.pendOf 7 = some q ∧ q.due ≤ t.cycle ∧ t.core.owns q.own = true ∧ q.res.length = 8 ∧ mapValid t.mesh q.res = true ∧
     mapValid (flight0 q).mesh (map0.set 0 ones) = false) :=
  ⟨opens (by decide), opens (by decide), opens (by decide), by decide, by decide, by decide, by decide, by decide, by decide,
    by decide, by decide, by decide, by decide, by decide, by decide, by decide, by decide⟩

theorem witness_ShardsPartitionTheExtent : 0 < 10 ∧ 0 < 4 ∧ 9 < 10 ∧ 0 < 1 ∧ (0 : Nat) < 1 := by decide

theorem witness_TlbiAndPageWaits :
    (super0 [(1, 0x2000000000000000)]).Takes (if false then [] else [.s 1]) [] (super0 [(1, 0x2000000000000000)]) ∧
    (super0 []).Takes (if true then [] else [.s 1]) [] (super0 []) ∧ ((super0 []).guardMask c0).getLsbD 0 = true ∧ (super0 []).core.sup = true ∧ (core0 [] []).core.sup = false ∧
    tagOf ((super0 [(1, 0x2000000000000000)]).src .a (.s 1)) = 2 ∧ tagOf 0x3000000000000000 = 3 ∧
    (∀ all : Bool, let p := { pend0 (.tlbi c0 (.s 1) all .pkg) [] with left := [0, 575] }
      (flight0 p).core.pendOf 7 = some p ∧ p.due ≤ (flight0 p).cycle ∧ 0 ∈ p.left ∧ 575 ∈ p.left ∧ 1 ∉ p.left ∧
      (flight0 p).core.relWaits p = false ∧ (flight0 p).tlbiArea p 0 = false ∧ (flight0 p).tlbiAccesses p 0 = [] ∧
      ((flight0 p).dieAt 3).owed = [] ∧ ((flight0 p).coreAt 575).frozen = false) ∧
    (∀ all : Bool, let p := { pend0 (.tlbi c0 (.s 1) all .pkg) [] with left := [0, 575] }
      (let q := { p with left := [], keys := [(575, 1)] }
       (flight0 q).core.pendOf 7 = some q ∧ 575 ∉ q.left ∧ ((flight0 q).tlbiHeld 575 1) = false ∧
       (flight0 q).tlbiHeld 0 21 = true ∧ (flight0 q).tlbiHeld 575 5 = false) ∧
      (let s := (flight0 p).modCore fun k => { k with pend := { pend0 (.ldq c0 2 4 0 false 3) [] with id := 3 } :: k.pend }
       s.core.pendOf 7 = some p ∧ s.core.relWaits p = true)) ∧
    (∀ all : Bool, let p := { pend0 (.tlbi c0 (.s 1) all .pkg) [] with left := [0, 575] }
      let read := fun (frozen mig : Bool) => (flight0 p).modCoreAt 575 fun k => { k with
        run := if frozen then .frozen 0 else .running, land := [{ landing 0 0 (Wr.scalar 1 1) with vas := [(0x40000, 4096, mig)] }] }
      (all = true → (read false false).core.pendOf 7 = some p ∧
        ((read false false).tlbiAccesses p 575).map (fun x => (x.va, x.mig, x.num % 3)) = [(0x40000, false, 1)] ∧
        ((read false true).tlbiAccesses p 575).map (fun x => (x.va, x.mig, x.num % 3)) = [(0x40000, true, 1)] ∧
        ((read false true).coreAt 575).shadow = none ∧ ((read true true).coreAt 575).frozen = true ∧
        ((read true true).tlbiAccesses p 575).length = 1)) ∧
    (let s := fun (w : Wait) => { (paged0 [] 0).modCore fun k => { k with wait := some w } with cycle := 1 }
     (s (.rewalk 0x40000000)).core.wait = some (.rewalk 0x40000000) ∧ (s (.rewalk 0x40000000)).core.nextIssue ≤ 1 ∧
     (s (.rewalk 0x40000000)).access 0 0x40000000 .read 1 0 false = .absent ∧
     (s (.rewalk 0x40000)).access 0 0x40000 .read 1 0 false ≠ .absent ∧
     (s (.fetch 0x40000000)).core.wait = some (.fetch 0x40000000) ∧ (s (.fetch 0)).cycle % 4096 ≠ 0) :=
  ⟨(opens (c := c0) (by decide)).2, (opens (c := c0) (by decide)).2, by decide, by decide, by decide, by decide, by decide,
    by decide, by decide, by decide, by decide⟩

/-- A task with SPECW, and registers of the table operations at the edges of their checks. -/
def table0 (w : Word) : State := (paged0 [(1, 0xFFFFFF), (2, 0x1000000), (3, 0x5000000000000040), (4, 0x5000000000000004), (5, 64),
  (6, 65), (7, 0xFFFFF), (8, 3), (9, 4), (10, 0x4000000000000040)] 0).modCore fun k => { k with spr := [(14, w)] }

theorem witness_TableOperationsStart :
    let s := table0 0x120
    s.Opens c0 [.s 1, .s 1] [] s ∧ s.Opens c0 [] [.s 9] s ∧ s.Opens c0 [.s 8] [] s ∧ s.Opens c0 [.s 1] [.s 9] s ∧
    s.Opens c0 [.s 3, .s 5] [.s 9] s ∧ (s.guardMask c0).getLsbD 0 = true ∧
    (2 ^ 24 ≤ (s.src .d (.s 2)).toNat ∧ (s.src .d (.s 1)).toNat < 2 ^ 24 ∧ 2 ^ 24 ≤ (s.src .c (.s 2)).toNat) ∧
    ((s.core.special 14).getLsbD 8 = true ∧ (s.core.special 14).toNat / 16 % 16 < (3 : BitVec 4).toNat ∧
      ¬(s.core.special 14).toNat / 16 % 16 < (2 : BitVec 4).toNat ∧ (table0 0).core.special 14 = 0) ∧
    ((s.src .a (.s 8)).toNat ≤ (s.core.special 14).toNat / 16 % 16 + 1 ∧ (s.core.special 14).toNat / 16 % 16 + 1 < (s.src .a (.s 9)).toNat) ∧
    (tagOf (s.src .b (.s 10)) ∉ [0, 5, 7] ∧ tagOf (s.src .b (.s 4)) ∈ [0, 5, 7] ∧ (s.src .b (.s 4)).toNat % 64 ≠ 0 ∧
      (s.src .b (.s 3)).toNat % 64 = 0) ∧
    ((got? (s.lanesAt .read 64 false (fun _ => none) [(0, addOffset (s.src .b (.s 3)) 0)])).map List.length = some 1) ∧
    ((s.src .b (.s 5)).toNat ≤ 64 ∧ 1 ≤ (s.src .b (.s 5)).toNat ∧ 64 < (s.src .b (.s 6)).toNat ∧
      (got? (s.pieces (s.src .a (.s 3)) .rw 64 16)).isSome = true) ∧
    ((got? (s.pieces (s.src .a (.s 3)) .read 2 64)).map fun ls =>
      descriptorBad (ls.flatMap fun l => (List.range 8).map fun i => s.viewWord s.me (l.2.2.key + 8 * i))) = some false ∧
    (s.src .b (.s 7)).toNat < 2 ^ 20 ∧
    (s.pieces 0x5000000000060000 .read 1 64 = .fail .range 0x5000000000060000 ∧ s.pieces 0x40000000 .read 1 64 = .restart 0x40000000 ∧
      (∃ l, s.pieces 0x5000000000000040 .read 1 64 = .ok [l]) ∧ s.pieces 0x40000000 .rw 64 16 = .restart 0x40000000 ∧
      s.pieces 0x5000000000060000 .rw 1 16 = .fail .range 0x5000000000060000 ∧ s.pieces 0x40000000 .read 2 64 = .restart 0x40000000 ∧
      s.pieces 0x5000000000060000 .read 2 64 = .fail .range 0x5000000000060000 ∧ descriptorBad (List.replicate 16 ones) = true) :=
  ⟨opens (by decide), opens (by decide), opens (by decide), opens (by decide), opens (by decide), by decide, by decide, by decide,
    by decide, by decide, by decide, by decide, by decide, by decide, by decide, by decide, ⟨_, rfl⟩, by decide⟩

/-- Die 0 with a pool of two pages, the second allocated, a valid prefix entry 63 and an open window 7. -/
def pool0 (p : Pend) (free : Nat) (ws : Store (Option SpecWin)) (ps : Store PfxEntry) : State :=
  ((flight0 p).modDie 0 fun d => { d with kvcfg := 0x100001, npages := 2, kvFree := free, windows := ws, prefixes := ps }).pokeBytes
    (nodeKey 0 (0x100000 + 2 * (128 + 32 * 64) + 8)) [2]

/-- Whether an operation in flight may be performed. -/
def due (s : State) (p : Pend) : Bool :=
  s.core.pendOf 7 == some p && decide (p.due ≤ s.cycle) && !s.heldAtHome p && s.core.owns p.own && !s.tableHeld p

/-- The open window of the witnesses, and their full prefix table. -/
def win0 : Store (Option SpecWin) := [(7, some { core := 0, task := 0, base := 0, ndraft := 3, regions := [], allocs := [], writes := [] })]

theorem witness_TableOperationsPerform :
    let full : Store PfxEntry := [(63, { w0 := 5, w1 := 0x800000010000FFFF })]
    let at_ := fun (i : Instr) (a b c d : Word) => let p := pend0 i [Wr.scalar 3 0]; { p with op := { p.op with a := a, b := b, c := c, d := d } }
    let one := fun (p : Pend) (ws : Store (Option SpecWin)) (ps : Store PfxEntry) => due (pool0 p 1 ws ps) p
    one (at_ (.kalloc c0 (.s 3) false 0) 0 0 0 0) [] [] = true ∧ one (at_ (.kfree c0 (.s 1)) 1 0 0 0) [] [] = true ∧
    one (at_ (.kvst c0 (.s 1) 0 0 (.s 2) false 0) 0 0 0xFFFFFF 0xF00001) [] [] = true ∧
    one (at_ (.pfxh c0 (.s 3) (.s 1) (.s 2)) 0 0 0 0) [] [] = true ∧ one (at_ (.pfxi c0 (.s 3) (.s 1) (.s 2)) 5 1 0 0) [] [] = true ∧
    one (at_ (.pfxp c0 (.s 3) (.s 1) .pin) 63 0 0 0) [] full = true ∧
    one (at_ (.pfxl c0 (.s 3) (.s 1) (.s 2) false) 0 0 0 0) [] [] = true ∧
    one (at_ (.specb c0 (.s 3) (.s 1) (.s 2)) 0 0 0 0) [] [] = true ∧
    one (at_ (.speca c0) 0 0 0 0) win0 [] = true ∧ one (at_ (.specc c0 (.s 1)) 0 0 0 0) win0 [] = true ∧
    (let s := pool0 (pend0 (.kalloc c0 (.s 3) false 0) []) 1 win0 full
     s.kvPages 0 = 2 ∧ s.allocated 0 0 = false ∧ s.allocated 0 1 = true ∧ (s.dieAt 0).kvcfg.getLsbD 0 = true ∧ 0 < (s.dieAt 0).kvFree ∧
     (s.pfx 0 63).valid = true ∧ (s.pfx 0 63).pin = 65535 ∧ (s.pfx 0 62).valid = false ∧ (s.pfx 0 62).pin = 0 ∧
     (s.window 0 7).isSome = true ∧ (s.window 0 6) = none ∧ (s.wordAt (s.pageKey 0 1 + 8 * 15)).getLsbD 31 = false ∧
     s.core.cache = []) ∧
    (pool0 (pend0 (.kalloc c0 (.s 3) false 0) []) 0 [] []).validPfx 0 = [] ∧
    ((pool0 (pend0 (.kalloc c0 (.s 3) false 0) []) 0 [] []).dieAt 0).kvFree = 0 ∧
    ((List.range 8).find? fun w => ((pool0 (pend0 (.kalloc c0 (.s 3) false 0) []) 0 [] []).window 0 w).isNone) = some 0 ∧
    ((List.range 8).find? fun w => ((pool0 (pend0 (.kalloc c0 (.s 3) false 0) []) 0
      ((List.range 8).flatMap fun i => win0.map fun x => (i, x.2)) []).window 0 w).isNone) = none := by decide

/-- The faults and the forms of the table operations: what is held back, a window that is full, reserved operands, a page
that a window or a pin keeps, tables that are full. -/
theorem witness_TableOperationsPerform_faults :
    let full : Store PfxEntry := [(63, { w0 := 5, w1 := 0x800000010000FFFF })]
    let op := fun (i : Instr) (a b c d : Word) (blk : List Word) =>
      let p := pend0 i [Wr.scalar 3 0]
      { p with blk := blk, op := { p.op with a := a, b := b, c := c, d := d } }
    let win := fun (al : List (Nat × Nat)) (ws : List (Nat × Nat × Nat)) => ([(7, some
      { core := 0, task := 0, base := 0, ndraft := 3, regions := [], allocs := al, writes := ws })] : Store (Option SpecWin))
    let at_ := fun (p : Pend) (ws : Store (Option SpecWin)) (ps : Store PfxEntry) => pool0 p 1 ws ps
    (let p := { op (.kalloc c0 (.s 3) false 0) 0 0 0 0 [] with due := 1 }
     (at_ p [] []).core.pendOf 7 = some p ∧ (at_ p [] []).cycle < p.due ∧ ((at_ p [] []).tableOp p).isSome = true) ∧
    due (at_ (op (.kalloc c0 (.s 3) true 1) 0 0 0 0 [0, 7]) [] []) (op (.kalloc c0 (.s 3) true 1) 0 0 0 0 [0, 7]) = true ∧
    ((at_ (op (.kalloc c0 (.s 3) true 1) 0 0 0 0 [0, 7]) (win (List.replicate 16 (1, 1)) []) []).window 0 7).map
      (fun x => x.allocs.length) = some 16 ∧
    ((at_ (op (.kalloc c0 (.s 3) true 1) 0 0 0 0 [0, 7]) (win [] (List.replicate 256 (1, 1, 1))) []).window 0 7).map
      (fun x => x.writes.length) = some 256 ∧
    due (at_ (op (.kfree c0 (.s 1)) 1 0 0 0 []) (win [(1, 0)] []) full) (op (.kfree c0 (.s 1)) 1 0 0 0 []) = true ∧
    ((at_ (op (.kfree c0 (.s 1)) 1 0 0 0 []) [] full).validPfx 0) = [63] ∧
    ((at_ (op (.kfree c0 (.s 1)) 1 0 0 0 []) [] full).pfx 0 63).page = 1 ∧
    ((at_ (op (.kfree c0 (.s 1)) 1 0 0 0 []) [] full).family 0 [63]) = [63] ∧
    due (at_ (op (.kvst c0 (.s 1) 0 0 (.s 2) true 3) 0 0 0 1 [5, 7]) win0 []) (op (.kvst c0 (.s 1) 0 0 (.s 2) true 3) 0 0 0 1 [5, 7]) =
      true ∧
    due (at_ (op (.pfxi c0 (.s 3) (.s 1) (.s 2)) 5 1 0 0 []) [] full) (op (.pfxi c0 (.s 3) (.s 1) (.s 2)) 5 1 0 0 []) = true ∧
    ((at_ (op (.pfxi c0 (.s 3) (.s 1) (.s 2)) 5 1 0 0 []) [] full).validPfx 0).find?
      (fun i => ((at_ (op (.pfxi c0 (.s 3) (.s 1) (.s 2)) 5 1 0 0 []) [] full).pfx 0 i).w0 == 5) = some 63 ∧
    (let every : Store PfxEntry := (List.range 64).map fun i => (i, { w0 := 7, w1 := 0x8000000100000000 })
     (at_ (op (.pfxi c0 (.s 3) (.s 1) (.s 2)) 9 1 0 0 []) [] every).validPfx 0 = List.range 64) ∧
    due (at_ (op (.pfxl c0 (.s 3) (.s 1) (.s 2) true) 0 0 0 0 [5]) [] full) (op (.pfxl c0 (.s 3) (.s 1) (.s 2) true) 0 0 0 0 [5]) = true ∧
    ((at_ (op (.pfxl c0 (.s 3) (.s 1) (.s 2) true) 0 0 0 0 [5]) [] full).matchPfx 0 none [5]) = [63] ∧
    due (at_ (op (.speca c0) 0 0 0 0 [5, 7]) win0 []) (op (.speca c0) 0 0 0 0 [5, 7]) = true ∧
    ((at_ (op (.speca c0) 0 0 0 0 [5, 7]) win0 []).window 0 7).isSome = true ∧
    due (at_ (op (.specc c0 (.s 1)) 3 0 0 0 [5, 7]) win0 []) (op (.specc c0 (.s 1)) 3 0 0 0 [5, 7]) = true ∧
    due (at_ (op (.specc c0 (.s 1)) 0 0 0 0 [5, 7]) win0 []) (op (.specc c0 (.s 1)) 0 0 0 0 [5, 7]) = true := by decide

/-- A PFXL whose list holds the hash 5, which entry 63 has and whose pin count is full; a window of the task, none, and one of
another core. -/
theorem witness_TableOperations_lists :
    let full : Store PfxEntry := [(63, { w0 := 5, w1 := 0x800000010000FFFF })]
    let p := { pend0 (.pfxl c0 (.s 3) (.s 1) (.s 2) true) [Wr.scalar 3 0] with keys := [(0, spadKey 0 0)] }
    let s := (pool0 p 1 [] full).pokeBytes (spadKey 0 0) [5]
    let r := s.touch s.me ((List.range 8).map (spadKey 0 0 + ·))
    let own := fun (w : Option SpecWin) => w.filter fun x => x.core == 0 && x.task == p.own.task
    due s p = true ∧ r.matchPfx 0 none [r.viewWord r.me (spadKey 0 0)] = [63] ∧ (s.pfx 0 63).pin = 65535 ∧
    s.me = 0 ∧ (own ((pool0 p 1 win0 full).window 0 7)).isSome = true ∧ own ((pool0 p 1 [] full).window 0 7) = none ∧
    own ((pool0 p 1 (win0.map fun x => (x.1, x.2.map fun y => { y with core := 1 })) full).window 0 7) = none := by decide

/-- What the regions of a commit find: bytes, a fault, an absent migratable page. -/
def regions? (r : Except (Option (FCode × Word)) (List (List Nat × List Nat))) : Option (Option (FCode × Word)) :=
  match r with
  | .ok _ => none
  | .error e => some e

theorem witness_commitRegions :
    regions? ((paged0 [] 0).regionKeys 3 [(0x40000, 64, 64)]) = none ∧
    regions? ((paged0 [] 0).regionKeys 3 [(0x40000, 64, 64), (0x5000000000060000, 0, 64)]) =
      some (some (.range, 0x5000000000060000)) ∧
    regions? ((paged0 [] 0).regionKeys 3 [(0x40000000, 0, 64)]) = some none := by decide

/-- Four rows of four FP32 elements at 0x40 of the scratchpad, as TBIND packs them. -/
def shape0 : Word := 0x0000601800800040

/-- A job with its operands. -/
def job0 (i : Instr) (a b : Word) : TJob :=
  { id := 3, op := { SlotOp.none with slot := 6, instr := i, latched := true, a := a, b := b }, own := (core0 [] []).core.owner,
    start := none, due := 0, rows := 0, live := 0, draw := 0, fill := [], card := none }

/-- Core 0 with one job, and tile t5 with image words 0 to 2. -/
def job1 (j : TJob) (w0 w1 w2 : Word) : State := (core0 [] []).modCore fun k =>
  { k with jobs := [j], tiles := [(40, w0), (41, w1), (42, w2), (43, 7)] }

theorem witness_TileAndTensorJobsEnter :
    (core0 [(1, 64)] []).Opens c0 [.s 1, .s 2] [] (core0 [(1, 64)] []) ∧ (core0 [] []).Opens c0 [.s 1] [] (core0 [] []) ∧
    (core0 [] []).Opens c0 [] [] (core0 [] []) ∧ (core0 [] []).Opens c0 [] [.s 3] (core0 [] []) ∧ modeOf .rsr 0 = .rsr ∧
    modeOf .rne 0 ≠ .rsr := ⟨opens (by decide), opens (by decide), opens (by decide), opens (by decide), by decide, by decide⟩

/-- Whether the operation that waits at t5 may be performed. -/
def waits5 (j : TJob) (s : State) : Bool :=
  s.core.jobs.find? (fun j => j.control && j.start.isNone && (jobTiles j.op.instr).contains 5) == some j && s.core.run == .running &&
    s.mayStart s.me j && s.jobEdges s.me j (s.core.controlRegions j 5).1 (s.core.controlRegions j 5).2

/-- The keys of an engine access. -/
def keys? (p : Piece) : Option (List Nat) :=
  match p with
  | .keys ks => some ks
  | _ => none

/-- The bytes that an engine fetches, if no view faults. -/
def fetch? (s : State) (e : Nat) (ks : List Nat) : Option (List Byte) :=
  match (s.engineFetch e ks).1 with
  | .ok bs => some bs
  | .error _ => none

theorem witness_TileOperationsPerform :
    let bnd : Word := 0x8000000000000000 ||| shape0
    let one := fun (j : TJob) (w0 w1 w2 : Word) => waits5 j (job1 j w0 w1 w2)
    one (job0 (.tbind c0 5 (.s 1)) shape0 0) 0 0 0 = true ∧ one (job0 (.tbind c0 5 (.s 1)) (2 ^ 58) 0) 0 0 0 = true ∧
    one (job0 (.tbindUnb c0 5) 0 0) bnd 0 0 = true ∧
    one (job0 (.tfetch c0 5 (.s 1) (.s 2) true) 0x5000000000001000 0x0000001000000010) bnd 0 0 = true ∧
    one (job0 (.tfetch c0 5 (.s 1) (.s 2) true) 0x6000000000001000 0x0000001000000010) bnd 0 0 = true ∧
    one (job0 (.trel c0 5) 0 0) 0 0 0 = true ∧ one (job0 (.trel c0 5) 0 0) (bnd ||| 0x0800000000000000) 0 0 = true ∧
    one (job0 (.trel c0 5) 0 0) (bnd ||| 0x6800000000000000) 0x5000000000001000 0x0000004000000010 = true ∧
    (shape0.toNat < 2 ^ 58 ∧ shape0.getLsbD 53 = false ∧ tFmt shape0 < 9 ∧ shape0.toNat % 64 = 0 ∧ tPitch shape0 % 8 = 0 ∧
      tRowBytes shape0 ≤ tPitch shape0 ∧ tFmt shape0 ≠ 6 ∧ (core0 [] []).bufOk 0 shape0 = true ∧ tRows shape0 = 4) ∧
    (bnd.getLsbD 63 = true ∧ bnd.getLsbD 61 = false ∧ (bnd ||| 0x6800000000000000).getLsbD 61 = true) ∧
    (let j := { job0 (.tfetch c0 5 (.s 1) (.s 2) true) 0x5000000000001000 0x0000001000000010 with start := some 0, fill := [3] }
     let s := job1 j (bnd ||| 0x6400000000000000) 0x5000000000001000 0x0000001000000010
     s.core.jobs.find? (fun j => j.control && (jobTiles j.op.instr).contains 5 && j.fill.contains 3) = some j ∧ j.due ≤ s.cycle ∧
     s.bufOk s.me (s.core.tileWord 5 0) = true ∧
     ((keys? (s.engineKeys s.me .read 3 (addOffset (s.core.tileWord 5 1) (BitVec.ofInt 64 ((3 : Nat) *
       ((s.core.tileWord 5 2).extractLsb' 0 32).toInt))) (tRowBytes (s.core.tileWord 5 0)))).bind (fetch? s s.me)).isSome = true) := by
  decide

/-- A core whose only job may start. -/
def starts (j : TJob) (s : State) : Bool :=
  s.core.run == .running && s.core.jobs == [j] && !j.control && s.mayStart s.me j && s.core.gate.isEmpty &&
    (s.coreAt (s.gateCore s.me j)).gate.isEmpty && !(s.coreAt (s.gateCore s.me j)).frozen

theorem witness_TensorJobsRun :
    let ready : Word := 0x8800000000000000 ||| shape0
    let ok := fun (i : Instr) (a b : Word) => starts (job0 i a b) (job1 (job0 i a b) ready 0 0) &&
      (job1 (job0 i a b) ready 0 0).jobCheck 0 (job0 i a b) == none
    let bf16 : Word := 0x8880601FF8400040
    ok (.tzero c0 3 (.s 1)) 0x0000007F00000000 0 = true ∧ ok (.wswap c0) 0 0 = true ∧ ok (.seed c0 (.s 1)) 5 0 = true ∧
    ok (.smmv c0 (.s 1)) 0x5000000000000040 0 = true ∧
    (let j := job0 (.tdrain c0 5 0 (.s 1) .rne false true) 0x0000000300000000 0
     let w : Word := 0x880060 * 2 ^ 40 + 63 * 2 ^ 35 + 256 * 2 ^ 19 + 64
     starts j (job1 j w 0 0) = true ∧ (job1 j w 0 0).jobCheck 0 j = none) ∧
    (let j := job0 (.wload c0 5 (.s 1)) 0 0
     starts j (job1 j bf16 0 0) = true ∧ (job1 j bf16 0 0).jobCheck 0 j = none) ∧
    (let j := job0 (.mma c0 0 5 (.s 1) .bf16 false) 0x0000000300000000 0
     starts j (job1 j bf16 0 0) = true ∧ (job1 j bf16 0 0).jobCheck 0 j = none) ∧
    (let j := job0 (.mmas c0 0 5 (.s 1) (.s 2) .bf16 false true true) 0x0000000300000000 0x5000000000000000
     starts j (job1 j bf16 0 0) = true ∧ (job1 j bf16 0 0).jobCheck 0 j = none) ∧
    (let j := job0 (.tzero c0 0 (.s 1)) 0x0000007F01000000 0
     starts j (job1 j 0 0 0) = true ∧ (job1 j 0 0 0).jobCheck 0 j = some (.tileShape, 0) ∧ (job1 j 0 0 0).core.owns j.own = true) := by
  decide

theorem witness_TensorJobsRun_steps :
    let bf16 : Word := 0x8880601FF8400040
    (let j := { job0 (.mma c0 0 5 (.s 1) .bf16 false) 0x0000000300000000 0 with start := some 0, rows := 3 }
     let s := job1 j bf16 0 0
     s.core.jobs.find? (fun j => j.start.isSome && (mmaOf j.op.instr).isSome && decide (j.rows < jobN j.op.a)) = some j ∧
     s.core.run = .running ∧ j.rows + 1 = jobN j.op.a ∧ j.start.getD 0 + j.live = s.cycle ∧
     (match s.latheRow 0 j 3 with | some (.ok _) => true | _ => false) = true) ∧
    (let j := { job0 (.mma c0 0 5 (.s 1) .bf16 false) 0x0000000300000000 0 with start := some 0, live := 1 }
     let s := job1 j bf16 0 0
     s.core.jobs.find? (fun j => j.start.isSome && (mmaOf j.op.instr).isSome && decide (j.rows < jobN j.op.a)) = some j ∧
     j.rows < jobN j.op.a ∧ (s.latheRow 0 j 0).isSome = true ∧ s.cycle < j.start.getD 0 + j.live) ∧
    (let j := { job0 (.mmas c0 0 5 (.s 1) (.s 2) .bf16 false false true) 0x0000000300000000 0x5000000000000000 with start := some 0, rows := 3 }
     (job1 j bf16 0 0).latheRow 0 j 3 |>.isNone) = true ∧
    (let j := { job0 (.mmas c0 0 5 (.s 1) (.s 2) .bf16 false false true) 0x0000000300000000 0x5000000000000000 with start := some 0 }
     let s := job1 j bf16 0 0
     s.core.jobs.find? (fun j => j.start.isSome && (mmaOf j.op.instr).isSome && decide (j.rows < jobN j.op.a)) = some j ∧
     jobN j.op.a = 4 ∧ ∀ r < 4, s.latheRow 0 j r = none) ∧
    (let j := { job0 (.mmas c0 0 5 (.s 1) (.s 2) .bf16 false false true) 0x0000000300000000 0x5000000000000000 with start := some 0 }
     let s := (job1 j bf16 0 0).pokeBytes (spadKey 0 8) [1]
     s.latheRow 0 j 0 = none ∧ s.latheRow 0 j 1 = none ∧ s.cycle = j.start.getD 0 + j.live ∧
     (match s.latheRow 0 j 2 with | some (.ok _) => true | _ => false) = true ∧
     (match (job1 j (bf16 + 0x60000) 0 0).pokeBytes (spadKey 0 0) [1] |>.latheRow 0 j 0 with
       | some (.error _) => true | _ => false) = true) ∧
    (let j := { job0 (.smm c0 0 5 5 (.s 1) (.s 2)) 0 1 with start := some 0, live := 1 }
     let s := { job1 j 0x8800601800800040 0 0 with cycle := 1 }
     s.core.jobs = [j] ∧ j.due = 0 ∧ 0 < j.live ∧ j.live ≤ s.cycle ∧ s.core.run = .running ∧ s.core.batchOut j [5, 5] = none ∧
     ({ job1 j 0x8800601800860000 0 0 with cycle := 1 } : State).core.batchOut j [5, 5] ≠ none ∧
     (match s.samples 0 j.op 0 5 5 (s.core.scarab.n.toNat + min 16 (j.op.b.toNat % 2 ^ 24 - s.core.scarab.n.toNat) - s.core.scarab.n.toNat) with
       | .ok _ => true | .error _ => false) = true) ∧
    (let j := { job0 (.tdrain c0 5 0 (.s 1) .rne false true) 0x0000000300000000 0 with start := some 0, due := 1 }
     (job1 j bf16 0 0).core.jobs.find? (fun y => y.id == j.id && y.completes 1) = some j) := by decide

/-- The faults of the tile-control operations, each at the first operand that raises it. -/
theorem witness_TileOperationsPerform_faults :
    let bnd : Word := 0x8000000000000000 ||| shape0
    let bind := fun (x : Word) => waits5 (job0 (.tbind c0 5 (.s 1)) x 0) (job1 (job0 (.tbind c0 5 (.s 1)) x 0) 0 0 0)
    let flat : Word := shape0 &&& ~~~(0x7FFF80000 : Word)
    let far : Word := (shape0 &&& ~~~(0x7FFFF : Word)) ||| 0x60000
    (bind (2 ^ 58) = true ∧ bind (shape0 ||| 2 ^ 53) = true ∧ bind (shape0 + 9 * 2 ^ 54) = true ∧ tFmt (shape0 + 9 * 2 ^ 54) = 9) ∧
    (bind (shape0 + 32) = true ∧ (shape0 + 32).toNat % 64 ≠ 0) ∧
    (bind flat = true ∧ tPitch flat < tRowBytes flat ∧ tPitch flat % 8 = 0 ∧ flat.toNat % 64 = 0) ∧
    (bind far = true ∧ far.toNat % 64 = 0 ∧ tRowBytes far ≤ tPitch far ∧ (core0 [] []).bufOk 0 far = false) ∧
    (let f := fun (p w0 : Word) => waits5 (job0 (.tfetch c0 5 (.s 1) (.s 2) true) p 0)
      (job1 (job0 (.tfetch c0 5 (.s 1) (.s 2) true) p 0) w0 0 0)
     f 0x5000000000001000 0 = true ∧ f 0x6000000000001000 bnd = true ∧ f 0x8000000000001000 bnd = true) := by decide

/-- The Scarab jobs that start: NORMK over a tile, ALIASTAB with the four weights of R231's example and with none, SMM. -/
theorem witness_TensorJobsRun_scarab :
    let ready : Word := 0x8800000000000000 ||| shape0
    let run := fun (j : TJob) (z : Scarab) => (job1 j ready 0 0).modCore fun k => { k with scarab := z }
    let four := { Scarab.clear with
      na2 := [(0, 0x3F800000), (1, 0x41100000), (3, 0x40800000)]
      nb2 := [(0, 0x3F800000), (1, 0x3F800000), (2, 0x40A00000), (3, 0x40800000)] }
    (let j := job0 (.normk c0 5 (.s 1) false true) 0 0
     starts j (job1 j ready 0 0) = true ∧ (job1 j ready 0 0).jobCheck 0 j = none ∧
     ((job1 j ready 0 0).normk 0 5 0 false true).toOption.isSome = true) ∧
    (let j := job0 (.aliasTab c0 (.s 1)) 4 0
     starts j (run j four) = true ∧ (run j four).jobCheck 0 j = none ∧ (four.buildTable 4).isSome = true ∧
     (run j Scarab.clear).jobCheck 0 j = none ∧ (Scarab.clear.buildTable 4).isNone = true ∧ j.card = none) ∧
    (let j := job0 (.smm c0 0 5 5 (.s 1) (.s 2)) 0 1
     let z := { four with kn := 4, valid := true }
     starts j (run j z) = true ∧ (run j z).jobCheck 0 j = none) := by decide

/-- A queue entry with its operands. -/
def copy0 (i : Instr) (d a b : Word) : CopyEntry :=
  { id := 4, op := { SlotOp.none with slot := 7, instr := i, latched := true, d := d, a := a, b := b }, own := (core0 [] []).core.owner,
    q := 0, cb := 0, sa := 0, v := 0, stage := .queued, row := 0, pos := 0, buf := [], share := 0, failed := false, blk := [], card := none }

/-- Core 0 with one entry in its copy queues. -/
def copies0 (e : CopyEntry) : State := (paged0 [] 0).modCore fun k => { k with copies := [e] }

theorem witness_CopyOperationsEnter :
    let s := mapped0 [(1, 0x100000000), (2, 0xFFFFFFFF), (3, 0x5000000000000040), (4, 0x6000000000000040), (5, 0x2000000000000040),
      (6, 0x3000000000000040), (7, 0x3FF0000000000040), (8, 2048), (9, 0x33F), (10, 0xFF00), (11, 0x2000000), (12, 0x100000001000000),
      (13, 0x1FFFF), (14, 0x1000000), (15, 0x7000000000000041), (16, 8), (17, 0x4000000000000040),
      (18, 0x8000000000000000), (19, 0x200000000000000), (20, 0x20000), (21, 0x1000001), (22, 0x10000000000000)]
    let v := fun (r : BitVec 5) => s.src .a (.s r)
    s.Opens c0 [.s 1, .s 2, .s 3] [] s ∧ s.Opens c0 [.s 1, .s 2] [] s ∧ s.Opens c0 [.s 1] [] s ∧ s.core.cur.latched = false ∧
    (2 ^ 32 ≤ (v 1).toNat ∧ (v 2).toNat < 2 ^ 32 ∧ tagOf (v 3) = 5 ∧ tagOf (v 4) = 6 ∧ tagOf (v 5) = 2 ∧ tagOf (v 6) = 3) ∧
    (s.reachable (offOf (v 6) / 2 ^ 52) = true ∧ s.reachable (offOf (v 7) / 2 ^ 52) = false) ∧
    ((v 8).toNat ≤ 2048 ∧ (v 8).toNat % 8 = 0 ∧ (v 16).toNat % 8 = 0 ∧ (v 9).toNat < 2 ^ 16 ∧ (v 9).toNat / 64 % 4 = 0 ∧
      s.reachable ((v 9).toNat / 256) = true ∧ (v 10).toNat / 64 % 4 = 0 ∧ s.reachable ((v 10).toNat / 256) = false) ∧
    ((v 11).toNat / 2 ^ 25 % 2 ^ 7 ≠ 0 ∧ (v 14).toNat % 2 ^ 32 ≤ 2 ^ 24 ∧ (v 14).toNat / 2 ^ 32 ≤ 2 ^ 24 ∧ (v 13).toNat < 2 ^ 17) ∧
    (tagOf (v 17) ∈ [0, 3, 4, 5, 7] ∧ (v 15).toNat % 8 ≠ 0 ∧ tagOf (v 15) ∈ [0, 5, 7] ∧ (v 15).toNat % 32 ≠ 0 ∧
      (v 3).toNat % 64 = 0) ∧
    (mapValid s.mesh (s.core.mapReg 0) = true ∧ mapValid s.mesh (s.core.mapReg 1) = false ∧ (v 0) = 0 ∧ tagOf (v 14) ≤ 1 ∧
      (v 14).toNat % 64 = 0 ∧ (v 14).toNat / 2 ^ 52 % 256 = 0 ∧ 2 ≤ tagOf (v 3)) ∧
    (tagOf (v 18) = 8 ∧ 2048 < (v 1).toNat ∧ (v 9).toNat % 8 ≠ 0 ∧ (v 9).toNat ≤ 2048 ∧ 2 ^ 16 ≤ (v 13).toNat ∧
      (v 11).toNat % 2 ^ 32 = 2 ^ 25 ∧ (v 19).toNat / 2 ^ 32 = 2 ^ 25 ∧ (v 20).toNat = 2 ^ 17 ∧
      (v 21).toNat % 2 ^ 32 = 2 ^ 24 + 1 ∧ (v 12).toNat % 2 ^ 32 = 2 ^ 24 ∧ (v 12).toNat / 2 ^ 32 = 2 ^ 24 ∧
      tagOf (v 9) ≤ 1 ∧ (v 9).toNat % 64 ≠ 0 ∧ tagOf (v 22) = 0 ∧ (v 22).toNat / 2 ^ 52 % 256 = 1) ∧
    (let t := s.modCore fun k => { k with cb := [(7, { addr := 0x40000, exp := 9 })] }
     t.Opens c0 [.s 1, .s 2, .s 3] [] t ∧ (t.core.cbOf 7).addr ≠ 0 ∧ (t.core.cbOf 0).addr = 0) :=
  ⟨opens (by decide), opens (by decide), opens (by decide), by decide, by decide, by decide, by decide, by decide, by decide,
    by decide, by decide, opens (by decide), by decide⟩

theorem witness_CopiesMoveAndStamp :
    let cpy := fun (n : Word) => copy0 (.cpy c0 (.s 1) (.s 2) (.s 3) 0 0) n 0x5000000000001000 0x5000000000002000
    let ready := fun (e : CopyEntry) => (copies0 e).core.copyHead 0 == some e && (copies0 e).copyReady 0 e
    ready (cpy 0) = true ∧ ready (cpy 1) = true ∧ ready (copy0 (.coll c0 (.s 1) 0 0) 8 0 0) = true ∧
    ready (copy0 (.reshard c0 0 1 (.s 1) 0 0) 8 0 0) = true ∧ ready (copy0 (.sendRq c0 (.s 1) (.s 2) (.s 3) 0 0) 8 0 0) = true ∧
    (let e := copy0 (.kvld c0 5 (.s 1) (.s 2) (.s 3) 0 0) 0 0x5000000000001000 0
     let w : Word := 0x8001E07802000040
     let s := (copies0 e).modCore fun k => { k with tiles := [(40, w)] }
     s.core.copyHead 0 = some e ∧ s.copyReady 0 e = true ∧ s.core.bound 5 = true ∧ tRows (s.core.tileWord 5 0) = 16 ∧
     tRowBytes (s.core.tileWord 5 0) = s.rowB 0 ∧ s.bufOk 0 (s.core.tileWord 5 0) = true ∧
     (s.modCore fun k => k.setTileState 5 1).copyReady 0 e = false) ∧
    ready (copy0 (.cpyl c0 (.s 1) 0 0) 8 0x5000000000001000 0) = true ∧
    (copies0 (cpy 8)).snapshot 0 0x5000000000001000 8 1 [] = (some [0, 0, 0, 0, 0, 0, 0, 0], copies0 (cpy 8)) ∧
    ((copies0 (cpy 8)).snapshot 0 0x40000000 8 1 []).1 = none := by decide

theorem witness_CopiesMoveAndStamp_moves :
    let cpy := fun (n : Word) => copy0 (.cpy c0 (.s 1) (.s 2) (.s 3) 0 0) n 0x5000000000001000 0x5000000000002000
    (let e := { cpy 8 with stage := .active, buf := [1, 2, 3, 4, 5, 6, 7, 8] }
     let r := (copies0 e).modCore fun k => { k with lastq := 0 }
     (copies0 e).core.copyHead 0 = some e ∧ (0 : BitVec 2) = (copies0 e).core.lastq + 1 ∧ e.pos + min 4096 (8 - e.pos) ≤ e.buf.length ∧
     (keys? (r.engineKeys 0 .write (8 / 4096 + 2) (addOffset e.op.b 0) 8)).isSome = true ∧ e.share ≠ 2 ^ 20 ∧
     r.share 0 = e.share ∧
     (match r.engineKeys 0 .write (8 / 4096 + 2) (addOffset 0x40000000 0) 8 with | .wait _ => true | _ => false) = true ∧
     (match r.engineKeys 0 .write (8 / 4096 + 2) (addOffset 0x4FFFFFFFFFFFFFF8 0) 8 with | .fail .. => true | _ => false) = true) ∧
    (let e := { copy0 (.send c0 (.s 1) (.s 2) (.s 3) 0 0) 8 0x5000000000001000 0x3040000000000000 with stage := .active }
     let s := copies0 e
     s.core.copyHead 0 = some e ∧ s.outbound e = some 4 ∧ (Store.get SendQ.none s.pkg.sendq 1).descs.length < 64 ∧
     (match (s.engineBytes 0 e.op.a 8).1 with | .bytes _ => true | _ => false) = true) := by decide

theorem witness_CopiesMoveAndStamp_stamps :
    let e := fun (sa : Word) => { copy0 (.cpy c0 (.s 1) (.s 2) (.s 3) 0 0) 8 0 0 with stage := .performed, sa := sa, v := 1, failed := true }
    (copies0 (e 0)).core.copies = [e 0] ∧ (copies0 (e 0)).core.owns (e 0).own = true ∧
    (match (copies0 (e 0x5000000000000040)).writeStamp 0 0x5000000000000040 (1 + 0x8000000000000000) with
      | .done t => (t.coreAt 0).copies == [e 0x5000000000000040] | _ => false) = true ∧
    (match (copies0 (e 0x40000000)).writeStamp 0 0x40000000 (1 + 0x8000000000000000) with | .wait => true | _ => false) = true ∧
    (let e := { copy0 (.sendRq c0 (.s 1) (.s 2) (.s 3) 0 0) 8 0 0 with stage := .performed, sa := 0x5000000000000040, v := 1 }
     let r := (copies0 e).jobCommit 0 e.own
     (copies0 e).core.copies = [e] ∧ (match r.writeStamp 0 e.sa e.v with | .done t => (t.coreAt 0).copies == [e] | _ => false) = true ∧
     (match r.writeStamp 0 0x40000000 e.v with | .wait => true | _ => false) = true) := by decide

/-- A card of kind `k` with its payload pointer and stamp pointer. -/
def card0 (k : Nat) (w1 w2 : Word) (eng : Option Nat) : Card :=
  { id := 9, at_ := 0, words := [BitVec.ofNat 64 (k * 2 ^ 60), w1, w2, 5, 0, 0, 0, 0], core := 0, op := SlotOp.none, own := (core0 [] []).core.owner,
    engine := eng, pos := 0, failed := false }

/-- Cluster 0 with one card. -/
def cards0 (x : Card) : State := { paged0 [] 0 with clusters := [(0, { Cluster.reset with cards := [x] })] }

theorem witness_JobCards :
    (let s := (paged0 [(1, 0x5000000000001000), (2, 0x5000000000001008), (3, 0x4000000000000000)] 0)
     s.Opens c0 [.s 1] [] s ∧ (place? (s.access s.me (s.src .a (.s 1)) .read 64 0 false)).isSome = true ∧
     cardReserved (List.replicate 8 0) = false ∧ cardReserved [0x3000000000000000, 0, 0, 0, 0, 0, 0, 0] = true ∧
     (match s.access s.me 0x5FFFFFFFFFFFFFC0 .read 64 0 false with | .fail _ => true | _ => false) = true ∧
     (match s.access s.me 0x40000000 .read 64 0 false with | .absent => true | _ => false) = true ∧
     (8 : Word).toNat % 64 ≠ 0 ∧ tagOf (s.src .a (.s 3)) ∉ [0, 5, 7] ∧ (s.src .a (.s 2)).toNat % 64 ≠ 0) ∧
    (∀ k ∈ [0, 1, 2], let x := card0 k 0x5000000000001000 0 none
      ((cards0 x).clusterAt 0).cards.find? (fun y => y.id == 9) = some x ∧ x.kind = k ∧ (cards0 x).cardReady 0 x = true ∧
      ((cards0 x).freeEngine 0 k).map clusterOf = some 0) ∧
    (card0 1 0x5000000000001000 0 none).regions true = [] ∧ (card0 1 0x5000000000001000 0x5000000000000040 none).kind = 1 ∧
    (let s := cards0 (card0 1 0x5000000000001000 0 none)
     let b := { s with cores := (List.range 16).map fun i => (i, { Core.reset with jobs := [job0 (.wswap c0) 0 0] }) }
     b.freeEngine 0 1 = none ∧ b.cardReady 0 (card0 1 0x5000000000001000 0 none) = true) ∧
    (let x := { card0 1 0x5000000000001000 0 (some 3) with failed := true }
     (cards0 x).cardOver 3 x = some true ∧ (cards0 (card0 1 0 0 (some 3))).cardOver 3 (card0 1 0 0 (some 3)) = none ∧ clusterOf 3 = 0) ∧
    (match (cards0 (card0 1 0 0x5000000000000040 (some 3))).writeStamp 0 0x5000000000000040 (5 + 2 ^ 63) with
      | .done _ => true | _ => false) = true ∧
    (let w : List Word := [0x1100000000000000, 0x5000000000001000, 0, 5, 0, 0, 0x5000000000004000, 0]
     let x := { card0 1 0 0 none with words := w }
     let s := { paged0 [] 0 with clusters := [(0, { Cluster.reset with cards := [{ x with id := 8, engine := some 3 }, x] })] }
     (s.clusterAt 0).cards.find? (fun y => y.id == 9) = some x ∧ s.cardReady 0 x = false) :=
  ⟨⟨opens (by decide), by decide⟩, by decide⟩

/-- Package 0 of a partition with package 1, its time base at 1000 × 20 / 21, an entry in progress that aims band 0 at
package 1, and one send queue. -/
def fabric0 (slotcfg : Word) (q : SendQ) : State :=
  let s := mapped0 []
  let w1 : Word := 1000 * 2 ^ 44 + 10 * 2 ^ 32 + 4096
  { s with cycle := 1050, pkg := { s.pkg with
      grid := none,
      part := some { id := 1, pkg := 0, mesh := 0x107, others := [{ pkg := 1, clmask := [0x1FF, 0x1FF, 0x1FF, 0x1FF] }] },
      anchor := some (0, 0),
      up := 0xFFFFFFFF, slots := [(0, (0x10100, w1))], slotcfg := slotcfg, slot := some (0, 0, 0x10100, w1),
      sendq := [(1, q)] } }

/-- A descriptor of some bytes for a receive queue of node 4. -/
def desc0 (n : Nat) : Desc :=
  { node := 4, dest := 0x400, rq := true, bytes := List.replicate n 7, core := 0, copyId := 4, coll := none, red := false, data := [] }

/-- A packet that has been on its way since time 0. -/
def packet0 : Flight := { seq := 0, iv := 0, wire := [], start := 0, stop := 20, width := 32, bands := 1, chan := 1, desc := desc0 8 }

/-- A packet for a receive queue of the package, which one fibre and one band carry. -/
def arriving (chan : BitVec 6) (wire : List Byte) : Packet :=
  { src := 1, fibres := 0x80000000, bands := 0x80, chan := chan, seq := 0, ctr := 0, dest := 63, rq := true, bytes := List.replicate 8 1,
    wire := wire, fec := [(31, 2)] }

theorem witness_FabricInstructions :
    let s := super0 [(1, 0x0A05), (2, 0x050A), (3, 0x4000), (4, 0x40), (5, 0x100000000), (6, 0xFFFFFFFF), (7, 31), (8, 32)]
    let v := fun (r : BitVec 5) => (s.src .a (.s r)).toNat
    s.Opens c0 [.s 1, .s 2] [] s ∧ s.Opens c0 [] [] s ∧ s.Opens c0 [.s 1] [] s ∧ s.Opens c0 [.s 1] [.s 9] s ∧ s.supNow = true ∧
    (core0 [] []).Opens c0 [.s 1, .s 2] [] (core0 [] []) ∧ (core0 [] []).supNow = false ∧
    (v 1 < 2 ^ 14 ∧ v 1 / 64 % 4 = 0 ∧ v 1 % 64 ≤ v 1 / 256 % 64 ∧ v 2 / 256 % 64 < v 2 % 64 ∧ 2 ^ 14 ≤ v 3 ∧ v 4 / 64 % 4 ≠ 0 ∧
      2 ^ 32 ≤ v 5 ∧ v 6 < 2 ^ 32 ∧ v 7 < 32 ∧ 32 ≤ v 8) ∧
    (let p := { pend0 (.linkst c0 (.s 3) (.s 7)) [Wr.scalar 3 0] with perf := true }
     (flight0 p).core.pendOf 7 = some p ∧ p.due ≤ (flight0 p).cycle) ∧
    (let p := fun (i : Instr) (b : Word) => let q := pend0 i []; { q with op := { q.op with b := b } }
     let at_ := fun (q : Pend) => let u := flight0 q; { u with pkg := { u.pkg with fabops := [{ node := 0, core := 0, pend := 7, reach := 0 }] } }
     let one := fun (q : Pend) => (at_ q).core.pendOf 7 == some q && (at_ q).pkg.fabops == [{ node := (at_ q).node, core := (at_ q).me, pend := 7, reach := 0 }]
     one (p (.slotsel c0 (.s 1) (.s 2)) 1) = true ∧
     (let u := at_ (p (.slotsel c0 (.s 1) (.s 2)) 1)
      u.pkg.switched = none ∧ u.pkg.slotcfg.getLsbD 63 = false ∧
      ({ u with pkg := { u.pkg with switched := some 0 } } : State).pkg.switched = some u.cycle) ∧
     (at_ (p (.slotsel c0 (.s 1) (.s 2)) 1)).tb < (p (.slotsel c0 (.s 1) (.s 2)) 1).op.b.toNat ∧
     one (p (.wakeThr c0 0xFF (.s 6)) 0) = true ∧ one (p (.wake c0 0x81) 0) = true ∧ one (p (.park c0 0x81) 0) = true ∧
     (at_ (p (.park c0 0x81) 0)).pkg.armed = 0 ∧ (at_ (p (.park c0 0x81) 0)).bandOk 7 = true ∧ (at_ (p (.park c0 0x81) 0)).band 0 = .on) :=
  ⟨opens (by decide), opens (by decide), opens (by decide), opens (by decide), by decide, opens (by decide), by decide, by decide,
    by decide, by decide⟩

theorem witness_FabricEvents :
    let q := fun (n : Nat) (fs : List Flight) (iv : Word) => { SendQ.none with descs := [desc0 n], flight := fs, iv := iv }
    let s := fabric0 0 (q 8 [] 5)
    (s.sendWindow 1 = some (10100, 4096, 32) ∧ s.overdue 1 = none ∧ nextPayload s.tb 10100 4096 32 8 = 8 ∧
      nextPayload s.tb 10100 4096 32 4000 = 1024 ∧ nextPayload 10100 10100 4096 32 8 = 0 ∧ (q 8 [] 5).iv ≠ ones ∧ (q 8 [] ones).iv = ones) ∧
    (let s := { fabric0 0 (q 8 [packet0] 5) with cycle := 30000 }
     let t := { s with pkg := { s.pkg with slot := some (0, 28000, 0x10100, 1000 * 2 ^ 44 + 10 * 2 ^ 32 + 4096) } }
     t.overdue 1 = some packet0 ∧ t.sendWindow 1 = some (38100, 4096, 32) ∧ packet0.desc.bytes.length ≤ 4096 ∧
     t.tb + wireTime ((packet0.desc.bytes.length + 63) / 64) 32 ≤ 38100) ∧
    (let at_ := fun (x : Word) => { packet0 with desc := { desc0 8 with rq := false, dest := x } }
     let g := fun (x : Word) =>
       let t := fabric0 0 (q 8 [at_ x] 5)
       { t with pkg := { t.pkg with grid := (mapped0 []).pkg.grid } }
     let reach := fun (x : Word) => (g x).engineKeys 0 .write 2 (at_ x).desc.dest 8
     (Store.get SendQ.none (g 64).pkg.sendq 1).flight.find? (fun x => x.seq == 0) = some (at_ 64) ∧
     (at_ 64).stop ≤ (g 64).tb ∧ (at_ 64).desc.rq = false ∧ (at_ 64).desc.coll = none ∧
     (match reach 0x40000000 with | .wait _ => true | _ => false) = true ∧ (keys? (reach 64)).isSome = true) ∧
    ((Store.get SendQ.none (fabric0 0 (q 8 [packet0] 5)).pkg.sendq 1).flight.find? (fun x => x.seq == 0) = some packet0 ∧
      packet0.stop ≤ s.tb ∧ packet0.desc.rq = true ∧ packet0.desc.coll = none) ∧
    s.pkg.grid = none ∧ s.fuses.fibres.getLsbD 31 = true ∧ s.pkg.up.getLsbD 31 = true ∧
    (let b := fun (x : Band) (n : Nat) => let t := fabric0 0 (q n [] 5); { t with pkg := { t.pkg with bands := [(7, x)] } }
     (b .parking 8).band 7 = .parking ∧ (b .parking 8).bandBusy 7 = false ∧ (b .parking 8).pkg.armed = 0 ∧
     (b (.waking 0) 8).band 7 = .waking 0 ∧ (b (.waking 0) 8).cycle < 0 + 2520 ∧ 0 + 2520 ≤ { b (.waking 0) 8 with cycle := 2520 }.cycle ∧
     { b .parked 8 with pkg := { (b .parked 8).pkg with armed := 0x80, thr := 8 } }.overThreshold = true) ∧
    (let t := { fabric0 0 (q 8 [] 5) with cycle := 10605 }
     t.timeBase.isSome = true ∧ t.slotOver = true ∧ t.pkg.epoch.toNat ≤ t.tb ∧ t.period = 10100 ∧
     (findEntry t.rotation 0 ((t.tb - t.pkg.epoch.toNat) % t.period)).isSome = true) ∧
    (let t := fabric0 0x800000003F000000 (q 8 [] 5)
     t.timeBase.isSome = true ∧ t.pkg.slotcfg.getLsbD 63 = true ∧ t.pkg.pepoch.toNat ≤ t.tb) := by decide

/-- What package 1 sends with the number 0 to receive queue 63. -/
def sealed0 : List Byte :=
  Config.aesGcm ((fabric0 0 SendQ.none).packetKey) ((64 : BitVec 32) ++ (0 : Word)) (Config.packetHeader 0 63 true) (List.replicate 8 1)

theorem not_genuine : (arriving 63 (0 :: sealed0)).wire ≠ sealed0 := fun h => absurd (congrArg List.length h) (by simp [arriving])

theorem genuine_sealed0 :
    let p := arriving 63 sealed0
    let s := fabric0 0 SendQ.none
    p.wire = Config.aesGcm s.packetKey (BitVec.ofNat 32 (p.src.toNat * 64 + s.pkgIndex) ++ p.ctr)
      (Config.packetHeader p.seq p.dest p.rq) p.bytes := rfl

/-- Packets that arrive: one that is what its sender's key makes of it and one that is not, at ports that take it and at one
that has taken another channel in this slot, one that has come before, one whose channel ends elsewhere, one without a band, and
one whose fibre is down. -/
theorem witness_FabricEvents_arrivals :
    let s := fabric0 0 SendQ.none
    let p := arriving 63 sealed0
    s.pkg.waiting = [] ∧ s.ownNode 3 = true ∧ s.arrives p = true ∧
    packetPorts p = [255] ∧ s.portTakes p.chan 255 = true ∧
    ({ s with pkg := { s.pkg with accept := [(255, 62)] } } : State).portTakes p.chan 255 = false ∧
    (p.seq = Store.get 0 s.pkg.gotSeq 1 ∧ p.seq < Store.get 0 ({ s with pkg := { s.pkg with gotSeq := [(1, 1)] } } : State).pkg.gotSeq 1) ∧
    (Store.get [] s.pkg.recvq (3 % 4 * 64 + (63 : Word).toNat % 64)).length + 1 ≤ 256 ∧
    (p.src.toNat + (62 : BitVec 6).toNat) % 64 ≠ s.pkgIndex ∧ s.ownNode 4 = false ∧
    ((0x80 : BitVec 8).getLsbD 7 = true ∧ ({ s with fuses := { s.fuses with bands := 0x7F } } : State).fuses.bands.getLsbD 7 = false) ∧
    ((0x80000000 : BitVec 32).getLsbD 31 = true ∧ ({ s with pkg := { s.pkg with up := 0x7FFFFFFF } } : State).pkg.up.getLsbD 31 = false) ∧
    (let t : State := { s with pkg := { s.pkg with grid := (mapped0 []).pkg.grid } }
     t.pkgIndex = s.pkgIndex ∧ t.arrives p = true ∧
     (keys? (t.engineKeys 0 .write 2 (BitVec.ofNat 64 ((64 : Word).toNat % 2 ^ 52)) 8)).isSome = true) :=
  ⟨by decide, by decide, by decide, by decide, by decide, by decide,
    by decide, by decide, by decide, by decide, by decide, by decide, by decide, by decide, by decide⟩

/-- A collective of one transfer of one FP32 element from the own node to itself, with OP `op`. -/
def record0 (op : Word) : List Word := [1, 0x5000000000001000, 0x7000000000000040, 0x5000000000002000, 0, 0x5000000000003000,
  0, 0, 0, 0, 0, 0, 0, 0, op, 0]

/-- The collective as the walker has taken it. -/
def coll0 (r : List Word) : Coll :=
  { id := 0, core := 0, copyId := 4, rec_ := r, plan := [0x5000000000004000, 0x10001, 0, 0, 0, 0, 0, 0], efb := [], num := 0, emitted := 0,
    unacked := [], applied := [], ended := none }

/-- Node 0 of a partition of four nodes with a COLL whose record lies at 0x5000 of the scratchpad. -/
def walk0 (r : List Word) (stage : CopyStage) (cs : List Coll) (as : List Arrival) : State :=
  let s := ((mapped0 []).modCore fun k => { k with copies := [{ copy0 (.coll c0 (.s 1) 0 0) 0 0x5000000000005000 0 with stage := stage }] }).modDie 0
    fun d => { d with colls := cs, inbox := as }
  (s.pokeBytes (spadKey 0 0x5000) (r.flatMap fun w => bytesOf 8 w.toNat)).pokeBytes (spadKey 0 0x2008) [1, 0, 1]

/-- The words that an engine reads, if it can. -/
def read8? (s : State) (e : Nat) (p : Word) (n : Nat) : Option (List Word × State) :=
  match s.engineBytes e p n with
  | (.bytes bs, t) => some (wordsOf (n / 8) bs, t)
  | _ => none

def isColl : Instr → Bool
  | .coll .. => true
  | _ => false

theorem witness_CollectivesWalk :
    (let s := walk0 (record0 0) .active [] []
     (s.takable 0 isColl).map (·.1) = [0] ∧ (s.dieAt 0).colls.length < 8 ∧
     (read8? s.draw.2 0 0x5000000000005000 128).map (fun x => collBad s.mesh x.1) = some false ∧
     s.edgesMet 0 4 (collReach (record0 0) false) (collReach (record0 0) true) = true ∧
     (read8? s 0 0x5000000000002000 64).map (fun x => planBad x.1) = some false ∧ planBad (List.replicate 8 1) = true ∧
     (match (s.readEfb 0 (record0 0) (efbTransfers (record0 0)) []).1 with | .bytes [] => true | _ => false) = true) ∧
    (read8? (walk0 (List.replicate 16 0) .active [] []).draw.2 0 0x5000000000005000 128).map
      (fun x => collBad (mapped0 []).mesh x.1) = some true := by decide

theorem witness_CollectivesWalk_transfers :
    (let c := coll0 (record0 0)
     let s := walk0 (record0 0) .handed [c] []
     s.collOf 0 0 = some c ∧ c.emitted < cTotal c.rec_ ∧ (c.rec_.getD 15 0).toNat ≤ (s.timeBase).getD 0 ∧ s.sourceReady 0 c 0 = true ∧
     cGovern c.rec_ = 0 ∧ targetOf s.mesh c.rec_ 0 0 = 0 ∧ s.reachable 0 = true ∧ s.ownNode 0 = true ∧ c.ended = none ∧
     (match s.buildTransfer c 0 with | (.wire w [], _) => w.length == 4 | _ => false) = true ∧ 4 ≤ slotBytes c ∧
     slotBytes { c with plan := [0x5000000000004000, 0x10000, 0, 0, 0, 0, 0, 0] } < 4 ∧
     (match s.buildTransfer { c with rec_ := (record0 0).set 1 0x5FFFFFFFFFFFFFFC } 0 with | (.fail .., _) => true | _ => false) = true ∧
     { s with pkg := { s.pkg with up := 0 } }.reachable 8 = false ∧
     (keys? (s.memberKeys 0 0 (dstOf c.rec_ 0) 4)).isSome = true ∧ sourcesOf s.mesh c.rec_ 0 0 = [0] ∧
     cTotal { c with emitted := 1 }.rec_ ≤ { c with emitted := 1 }.emitted) ∧
    (let a : Arrival := { rec_ := record0 1, num := 0, t := 0, src := 0, bytes := [0, 0, 0x80, 0x3F] }
     let c := { coll0 (record0 1) with emitted := 1 }
     let s := walk0 (record0 1) .handed [c] [a]
     cGovern c.rec_ = 1 ∧ s.collOf 0 0 = some c ∧ (s.dieAt 0).inbox = [a] ∧ (read8? s 0 0x7000000000000040 4).isSome = true ∧
     (keys? (s.memberKeys 0 0 (dstOf c.rec_ 0) 4)).isSome = true ∧ collBlock s.mesh 0 c < cTotal c.rec_) ∧
    (let c := { coll0 (record0 1) with emitted := 1, applied := [0] }
     let s := walk0 (record0 1) .handed [c] []
     cTotal c.rec_ ≤ collBlock s.mesh 0 c ∧ (s.writeCollStatus 0 c 0 0).map (·.1) = some none ∧
     s.writeCollStatus 0 { c with rec_ := (record0 1).set 5 0x40000000 } 0 0 = none ∧ s.ownNode 4 = false ∧
     { c with unacked := [(0, 4)] }.unacked = (0, 4) :: [] ∧ (s.others.all fun m => m.pkg != 5) = true) := by decide

/-- A replicated map of one dimension of four INT8 elements. -/
def tiny0 (base : Word) : List Word := [0x000A000200000000 + 0x0000003000000000, 0x0000000400000000, 0, 0, 0, 0, 0, base]

/-- A RESHARD that the Jig runs, with an empty plan. -/
def resh0 (ps : List Nat) : Resh :=
  { id := 0, core := 0, copyId := 4, src := tiny0 0x100000, dst := tiny0 0x200000, num := 0, due := 0, pieces := ps, flying := [], staged := [], steps := [] }

/-- Node 0 of a partition of one node with a RESHARD that is waiting or running, and a cached plan. -/
def jig0 (dst : List Word) (stage : CopyStage) (ps : List Plan) (rs : List Resh) : State :=
  let e := { copy0 (.reshard c0 0 1 (.s 0) 0 0) 4 0 4 with stage := stage, blk := tiny0 0x100000 ++ dst ++ [0] }
  ((paged0 [] 0).modCore fun k => { k with copies := [e] }).modDie 0 fun d => { d with plans := ps, reshards := rs }

def isReshard : Instr → Bool
  | .reshard .. => true
  | _ => false

theorem witness_ReshardsRun :
    (let s := jig0 (tiny0 0x200000) .active [{ key := planKey (tiny0 0x100000) (tiny0 0x200000), steps := [] }] []
     (s.takable 0 isReshard).map (·.1) = [0] ∧ (s.dieAt 0).reshards.length < 4 ∧ mapsDiffer (tiny0 0x100000) (tiny0 0x200000) = false ∧
     (region 0x100000 4).meets (region 0x200000 4) = false ∧
     (planFor s.mesh (s.dieAt 0).plans (tiny0 0x100000) (tiny0 0x200000)).map (·.1) = some [] ∧
     (read8? s.draw.2 0 0x100000 4).isSome = true) ∧
    mapsDiffer (tiny0 0x100000) ((tiny0 0x200000).set 1 0x0000000500000000) = true ∧
    ((fabric0 0 SendQ.none).ownNode 4 = false ∧ (fabric0 0 SendQ.none).member 4 = true) := by decide

theorem witness_ReshardsRun_pieces :
    (let s := jig0 (tiny0 0x200000) .handed [] [resh0 []]
     s.reshOf 0 0 = some (resh0 []) ∧ (resh0 []).due ≤ s.cycle ∧ (resh0 []).pieces.length < s.pieceCount (resh0 []) ∧ s.inFlight (resh0 []) = [0] ∧
     storedSize s.mesh (resh0 []).dst = 4 ∧ ((List.range 4).mapM fun i => s.destByte 0 (s.withOutside (resh0 []) []) (0 + i)).isSome = true ∧
     (keys? (s.engineKeys 0 .write 2 (addOffset (mBase (resh0 []).dst) 0) 4)).isSome = true) ∧
    (let s := jig0 (tiny0 0x200000) .handed [] [resh0 [0]]
     s.reshOf 0 0 = some (resh0 [0]) ∧ s.pieceCount (resh0 [0]) ≤ (resh0 [0]).pieces.length ∧
     (∀ n ∈ receivers s.mesh (resh0 [0]) (s.nodeOf 0), s.announcedBy 0 n (resh0 [0]) = true ∧ s.holdsUp (resh0 [0]) n = false) ∧
     (let u := (s.modCore fun k => { k with run := .frozen 0 }).modDie 0 fun d => { d with reshards := [resh0 []] }
      u.holdsUp (resh0 [0]) 0 = true)) := by decide

/-- Core 0 in supervisor's hands with its save area in the chip scratchpad. -/
def area0 (r : Run) : State :=
  let s := (core0 [] []).modCore fun k => { k with run := r, spr := [(26, 0x7000000000000000)] }
  { s with pkg := { s.pkg with booted := true, session := some 1 } }

/-- Whether part `i` of a save area has a place. -/
def partOk (s : State) (kind : AccKind) (i : Nat) : Bool :=
  match s.engineKeys 0 kind 2 (addOffset (s.areaPtr 0) (BitVec.ofNat 64 (128 * i))) 128 with
  | .keys (k :: _) => !isView k
  | _ => false

theorem areaParts_isSome (s : State) (kind : AccKind) : ∀ n i, ((List.range' i n).all (partOk s kind)) = true →
    ∃ h, s.areaParts 0 kind n i = some h
  | 0, _, _ => ⟨[], rfl⟩
  | n + 1, i, h => by
    simp only [List.range'_succ, List.all_cons, Bool.and_eq_true] at h
    obtain ⟨t, e⟩ := areaParts_isSome s kind n (i + 1) h.2
    have h1 := h.1
    unfold partOk at h1
    unfold State.areaParts
    generalize s.engineKeys 0 kind 2 (addOffset (s.areaPtr 0) (BitVec.ofNat 64 (128 * i))) 128 = r at h1 ⊢
    cases r with
    | keys l =>
      cases l with
      | nil => simp at h1
      | cons k ks => simp_all
    | fail c a => simp at h1
    | wait p => simp at h1

theorem area_parts : (List.range' 0 2304).all (partOk (area0 .running) .write) = true := by decide +kernel

theorem area_parts_read : (List.range' 0 2304).all (partOk (area0 (.frozen 0)) .read) = true := by decide +kernel

/-- A start vector with its image at 1 GiB's first page, `n` tasks and the third word given. -/
def vec0 (n w3 : Word) : StartVector :=
  { w0 := 0x100000, w1 := n, w2 := 0x200000, w3 := w3, w4 := 0x300000, w5 := 0x10000, w6 := 0, w7 := 0 }

/-- An idle package with one launch in its queue. -/
def launch0 (v : StartVector) : State :=
  { State.reset with pkg := { Package.reset with booted := true, launchq := [v] } }

/-- Core 0 idle, with the grid of a start vector and the ready records of its cluster. -/
def grid0 (v : StartVector) (dealt : Store Nat) (pool : Store (Option PoolNode)) : State :=
  let s := (paged0 [] 0).modCore fun k => { k with run := .idle 0 }
  { s with
    clusters := [(0, { Cluster.reset with pool := pool })]
    pkg := { s.pkg with grid := some { vec := { v with w5 := s.vector.w5 }, started := 0, dealt := dealt, live := 1, fault := none, ended := 0, bare := false, killed := [] } } }

/-- A ready record at 0x40000. -/
def node0 : PoolNode := { rec_ := 0x40000, waiting := false, list := 6, prio := 0, enq := 0, since := 0, crew := 5, task := 3, stamp := 0, cnt := 0 }

theorem witness_LaunchesDispatchAndEnd :
    (∀ v ∈ [vec0 1 0, vec0 1 1, vec0 0x100001 0, vec0 0 0, vec0 0x100000 0], (launch0 v).pkg.grid = none ∧ (launch0 v).pkg.booted = true ∧
      (launch0 v).pkg.shutdown = false) ∧
    vecReserved (vec0 1 1) = true ∧ vecReserved (vec0 1 0) = false ∧ ((0x100000 + 576 - 1) / 576 ≤ 4096) ∧
    (launch0 (vec0 1 0)).coresAll = 576 ∧
    { launch0 (vec0 1 0) with fuses := { Fuses.full with clmask := [1, 0, 0, 0] } }.coresAll = 16 ∧ 4096 < (0x100000 + 16 - 1) / 16 := by
  decide

theorem witness_LaunchesDispatchAndEnd_dispatch :
    (let s := grid0 (vec0 1 0) [] []
     s.core.run = .idle 0 ∧ s.enabled s.me = true ∧ (s.core.jobs.any (·.card.isSome)) = false ∧ s.lent s.me = false ∧
     (s.clusterAt (clusterOf s.me)).best.isNone = true ∧ (s.pkg.grid.bind fun g => s.nextRoot g s.me) = some 0 ∧
     (∀ x ∈ [((0x20000 : Word), 0), (7, 1), (0x1000000000000000, 2)], let u := s.placeWord (0x100040 : Word).toNat x.1
      (u.pkg.grid.map fun g => (u.startEntry (u.startAddr g.vec)).toOption) = some (some x.1)) ∧
     (match s.startEntry 0x40000040 with | .error (.wait _) => true | _ => false) = true ∧
     (match s.startEntry 0x8000000000000040 with | .error (.fail .spaceTag _) => true | _ => false) = true) ∧
    (let s := grid0 (vec0 1 0) [(0, 1)] [(9, some node0)]
     ((s.clusterAt (clusterOf s.me)).best.map (·.1)) = some 9 ∧ (s.pkg.grid.bind fun g => s.nextRoot g s.me) = none ∧
     ((place? (s.translate none s.node 0 0x40000 .read)).map fun l =>
       recordFault ((List.range 8).map fun k => s.wordAt (l.key + 8 * k)) 0x40000 == none) = some true ∧
     (recordFault [1, 0, 0, 0, 0, 0, 0, 0] 0x40000).isSome = true ∧
     (match s.translate none s.node 0 0x40000000 .read with | .absent => true | _ => false) = true ∧
     (match s.translate none s.node 0 0x100000000000 .read with | .fail _ => true | _ => false) = true) ∧
    (let s := grid0 (vec0 1 0) [] [(9, some node0)]
     ((s.clusterAt (clusterOf s.me)).best.map (·.1)) = some 9 ∧ (s.pkg.grid.bind fun g => s.nextRoot g s.me) = some 0 ∧
     s.pkg.grid.map (fun g => (s.rootPrio g, g.started)) = some (0, 0) ∧ node0.list = 6 ∧ node0.enq = 0 ∧
     { node0 with list := 0, enq := 1 }.list = 0) ∧
    (let s := grid0 (vec0 1 0) [(0, 1)] []
     (s.clusterAt (clusterOf s.me)).best.isNone = true ∧ (s.pkg.grid.bind fun g => s.nextRoot g s.me) = none) := by
  decide

theorem witness_LaunchesDispatchAndEnd_ends :
    (Store.get none ((grid0 (vec0 1 0) [] [(9, some node0)]).clusterAt 0).pool 9 = some node0 ∧ node0.waiting = false ∧ node0.list < 7 ∧
      node0.since + 65536 ≤ { grid0 (vec0 1 0) [] [] with cycle := 65536 }.cycle) ∧
    ((grid0 (vec0 1 0) [] []).gridQuiet = true ∧ (core0 [] []).gridQuiet = false ∧ (core0 [] []).pkg.grid = none) ∧
    ((core0 [] []).core.run = .running ∧ (core0 [] []).core.lastIssue + 2 ^ 28 < { core0 [] [] with cycle := 2 ^ 28 + 1 }.cycle ∧
      (core0 [] []).core.lastIssue + 2 ^ 28 = { core0 [] [] with cycle := 2 ^ 28 }.cycle ∧
      ((core0 [] []).modCore fun k => { k with run := .frozen 0 }).core.run = .frozen 0) ∧
    ({ core0 [] [] with me := 575, cores := [(575, (core0 [] []).core)] }.me % 144 ≠ 0 ∧
      { core0 [] [] with me := 575, cores := [(575, (core0 [] []).core)] }.core.run = .running ∧
      { core0 [] [] with me := 575, cores := [(575, (core0 [] []).core)] }.core.todo = []) := by decide

/-- An abort notice that finds a fault, before the cycle in which the grid ended and after it. -/
theorem witness_LaunchesDispatchAndEnd_notices :
    let f : FaultNotice := { code := 5, node := 4, core := 0, task := 0, stamp := 5 }
    let s := grid0 (vec0 1 0) [] []
    let g := fun (n : Nat) => s.pkg.grid.map fun g => { g with fault := some f, ended := n }
    ((g 0).map fun x => decide (s.cycle ≤ x.ended)) = some true ∧
    ((g 0).map fun x => decide (({ s with cycle := 1 } : State).cycle ≤ x.ended)) = some false ∧
    (s.pkg.grid.map (·.fault)) = some none := by decide

/-- Readings of the energy counters: none yet, 977 intervals at the limit, and 977 above it. -/
theorem witness_PowerAndSoftErrors :
    let log := fun (uj : Nat) => { State.reset.pkg with engyAt := 977, engyLog := [(977, uj)] }
    let mean := fun (p : Package) => ((p.engyLog.filter fun x => p.engyAt < x.1 + 977).map (·.2)).sum
    ({ State.reset with cycle := 1074 }.energyTick ≤ State.reset.pkg.engyAt) ∧
    (State.reset.pkg.engyAt < { State.reset with cycle := 1075 }.energyTick) ∧
    (mean State.reset.pkg * 1000 ≤ State.reset.pkg.pwrlim.toNat * (977 * 1024)) ∧
    (977 ≤ (log 2401075).engyAt ∧ mean (log 2401075) * 1000 ≤ 2400 * (977 * 1024)) ∧
    (2400 * (977 * 1024) < mean (log 2401076) * 1000 ∧ (log 0).pwrlim.toNat = 2400) ∧ (grid0 (vec0 1 0) [] []).pkg.grid.isSome = true ∧
    ((core0 [] []).coreAt 0).owned = true ∧ (fabric0 0 SendQ.none).ownNode 4 = false ∧ (fabric0 0 SendQ.none).member 4 = true := by
  decide

/-- A package that has booted, with an IPv4 address and a session, and the number of the next host message. -/
def host0 (n : BitVec 32) : State :=
  { State.reset with pkg := { Package.reset with booted := true, session := some 1, nexp := n, addr4 := 5, qps := [3] } }

/-- The header of a message of the session with the number 7. -/
def hdr0 (kind opc : Nat) (pay : List Byte) : HostHdr :=
  let ws := [headerWord kind opc pay.length, (7 : BitVec 32) ++ (0 : BitVec 32), 0, 0]
  { dst := .v4 5, w0 := ws.getD 0 0, w1 := ws.getD 1 0, w2 := 0, w3 := 0, tag := Config.messageTag 1 ws pay }

theorem takes_hdr0 (s : State) (i : Instr) (opc : Nat) (hs : s.pkg.session = some 1) (hl : (payloadOf i).length ≤ 8192) :
    s.takes i (hdr0 0 opc (payloadOf i)) opc = true := by
  simp [State.takes, headerFits, State.tagOk, hdr0, headerWords, hs, hl]

/-- The commands that the statements on the host link name, with their opcodes. -/
def commands0 : List (Nat × (HostHdr → Instr)) :=
  [(0x20, (.regrd · { space := 9, inst := 0, index := 511 })), (0x21, (.regwr · { space := 10, inst := 0, index := 0 } [600])),
    (0x21, (.formatWindowWrite · 3 15 [0, 0, 0, 0, 0])), (0x21, (.l2lockWrite · 3 0x200010)), (0x21, (.kvcfgWrite · 3 0x100001 (2, 0))),
    (0x21, (.slotcfgWrite · 0x3F00 0 0)), (0x21, (.keyInstall · 3 1 0 0)), (0x30, (.launch · (vec0 1 0))), (0x31, (.preempt · 575)),
    (0x32, (.resume · 575)), (0x40, (.partform · 1 0 0x103 0 [])), (0x41, (.detach · 1)), (0x42, (.dissolve ·)),
    (0x43, (.retrain · 31 true)), (0x50, (.attest · 0 none)), (0x51, (.recall · 3))]

/-- Each of them can be taken: with the number that comes next, to an address of the port, with the tag of the session. -/
theorem witness_taken : ∀ x ∈ commands0, let h := hdr0 0 x.1 (payloadOf (x.2 (hdr0 0 0 [])))
    h.seq = 7 ∧ (host0 7).answersOn h.dst = true ∧ (host0 7).takes (x.2 h) h x.1 = true := by
  intro x hx
  simp only [commands0, List.mem_cons, List.not_mem_nil, or_false] at hx
  rcases hx with rfl | rfl | rfl | rfl | rfl | rfl | rfl | rfl | rfl | rfl | rfl | rfl | rfl | rfl | rfl | rfl <;>
    exact ⟨by simp [hdr0, HostHdr.seq], by simp [host0, State.answersOn, hdr0],
      takes_hdr0 _ _ _ rfl (by decide)⟩

/-- The places of a command's number against the next expected one; the address of another port, a header that is no command's, a
command that waits, and a stored response, which a GAP is not. -/
theorem witness_HostProtocol :
    let m : Msg := { seq := 3, opcode := 0x30, notice := false, host := 7, status := 0, payload := [] }
    let h := hdr0 0 0x30 []
    let s := fun (n : BitVec 32) => host0 n
    (s 7).pkg.booted = true ∧ (s 7).pkg.busy ≠ some (h, 0) ∧ (s 7).pkg.busy = none ∧ (s 7).pkg.later = [] ∧
    (s 7).answersOn (.v4 6) = false ∧ (s 7).answersOn h.dst = true ∧ ({ h with w2 := 1 } : HostHdr).w2 ≠ 0 ∧
    (h.seq - (6 : BitVec 32)).toNat = 1 ∧ (h.seq - (8 : BitVec 32)).toNat = 0xFFFFFFFF ∧ (h.seq - (263 : BitVec 32)).toNat = 0xFFFFFF00 ∧
    (h.seq - (264 : BitVec 32)).toNat = 0xFFFFFEFF ∧ (h.seq - (0x80000007 : BitVec 32)).toNat = 0x80000000 ∧
    (h.seq - (0x80000008 : BitVec 32)).toNat = 0x7FFFFFFF ∧ State.reset.pkg.session = none ∧
    ({ (s 8).pkg with later := [.resync] } : Package).later ≠ [] ∧
    (({ (s 8).pkg with msgs := [m, { m with seq := 4, status := 5 }] } : Package).msgs.reverse.find? fun m =>
      !m.notice && m.host == h.seq && m.status != 5) = some m := by
  refine ⟨rfl, by simp [host0, Package.reset], rfl, rfl, by decide, by decide, by decide, by decide, by decide, by decide, by decide, by decide,
    by decide, rfl, by decide, by decide⟩

/-- SESSION and RESYNC with a tag of zero, and messages that reach HOST_MESSAGE_DISCARD: one of a kind that is no command's, one that
no key has signed, and one of the session with an opcode that no command has. -/
theorem witness_HostProtocol_mail :
    (let h := { hdr0 0 0x10 (bytesOf 96 5) with tag := 0 }
     h.w0 = BitVec.ofNat 64 (0x534C01 * 2 ^ 40 + 2 ^ 32 * 0 + 2 ^ 16 * 0x10 + 96) ∧ h.w2 = 0 ∧ h.w3 = 0 ∧ h.tag = 0) ∧
    (let h := { hdr0 3 0 [] with tag := 0 }
     let s : State := { host0 7 with mail := [(h, [])] }
     s.mail = (h, []) :: [] ∧ s.answersOn h.dst = true ∧ h.w0 = BitVec.ofNat 64 (0x534C01 * 2 ^ 40 + 2 ^ 32 * 3 + 2 ^ 16 * 0 + 0) ∧
     h.w0.toNat / 2 ^ 16 % 2 ^ 16 = 0 ∧ h.tag = 0) ∧
    (hdr0 1 0x30 []).w0.toNat / 2 ^ 32 % 2 ^ 8 = 1 ∧ ((hdr0 0 0x99 []).w0.toNat / 2 ^ 32 % 2 ^ 8 = 0 ∧ State.reset.pkg.session = none) ∧
    ((hdr0 0 0x99 []).w0.toNat / 2 ^ 16 % 2 ^ 16 = 0x99 ∧ (hdr0 0 0x99 []).seq = (host0 7).pkg.nexp ∧
      (host0 7).pkg.session = some 1 ∧ (hdr0 0 0x99 []).tag = Config.messageTag 1
        [(hdr0 0 0x99 []).w0, (hdr0 0 0x99 []).w1, (hdr0 0 0x99 []).w2, (hdr0 0 0x99 []).w3] []) :=
  ⟨by decide, ⟨rfl, by decide, by decide, by decide, by decide⟩, by decide, by decide, by decide, by decide, by decide, rfl⟩

/-- Whether an image is good is a matter of the device's keys, so that either clause of the boot may be the one that applies; a
known and an unknown queue pair; memory that is there, that is not, and the capability frame. -/
theorem witness_BootResetAndBulkAccess :
    State.reset.pkg.booted = false ∧ State.reset.pkg.flash = [] ∧ (host0 0).pkg.booted = true ∧ (host0 0).ownNode 3 = true ∧
    ((host0 0).answersOn (.v4 5) = true ∧ (host0 0).answersOn (.v4 6) = false ∧ 3 ∈ (host0 0).pkg.qps ∧ 4 ∉ (host0 0).pkg.qps) ∧
    (host0 0).populated 3 0 4096 = true ∧ (host0 0).populated 3 0x1000000000000 8 = true ∧ 0x1000000000000 + 8 < capFrame ∧
    (host0 0).populated 3 0x1004000000000 8 = false ∧ 0x1004000000000 + 8 < capFrame ∧ capFrame ≤ capFrame + 4088 ∧
    capFrame + 4088 + 8 ≤ capFrame + 4096 := by decide

theorem witness_HostRegisters :
    let s := host0 7
    (s.answersOn (.v4 5) = true ∧ s.pkg.busy = none ∧ s.pkg.later = [] ∧ s.pkg.nexp = 7 ∧ s.enabled 575 = true ∧ s.enabled 576 = false) ∧
    ((599 : Word).toNat < 600 ∧ 600 ≤ (600 : Word).toNat ∧ (2400 : Word).toNat ≤ 2400 ∧ 2400 < (2401 : Word).toNat) ∧
    (s.inHbm (s.nodeOf 3) ((0x200010 : Word).toNat / 2 ^ 21 % 2 ^ 31 * 2 ^ 21) (0x2000000) = true ∧ (0x200010 : Word).toNat % 32 = 16 ∧
      16 < (0x200011 : Word).toNat % 32 ∧ (0x200030 : Word).toNat / 32 % 2 ^ 16 ≠ 0) ∧
    (s.launching = false ∧ (launch0 (vec0 1 0)).launching = true ∧ (0x100000 : Word).toNat ≤ 2 ^ 20 ∧ 2 ^ 20 < (0x100001 : Word).toNat ∧
      s.populated (s.nodeOf 3) ((0x100001 : Word).toNat / 2 ^ 12 % 2 ^ 40 * 4096) (poolSize 64 2) = true ∧
      (0x100009 : Word).toNat / 8 % 2 ^ 9 ≠ 0 ∧ (0x1FFFFF : Word).toNat / 2 ^ 21 = 0 ∧ (0x200000 : Word).toNat / 2 ^ 21 ≠ 0) ∧
    (s.pkg.ctrw = [] ∧ (List.replicate 6 (1 : Word)).length = 6 ∧ (List.replicate 5 (1 : Word)).length = 5 ∧ (4, 0, 5) ∉ s.pkg.moved ∧
      (4, 0, 5) ∈ ({ s.pkg with moved := [(4, 0, 5)] } : Package).moved) ∧
    ((0x3F00 : Word).toNat / 256 % 64 = 63 ∧ (0x0001 : Word).toNat / 256 % 64 < (0x0001 : Word).toNat % 64 ∧
      (0x8000000000010000 : Word).getLsbD 63 = true ∧ (0x8000000000010000 : Word).toNat / 2 ^ 24 % 64 < (0x8000000000010000 : Word).toNat / 2 ^ 16 % 64) ∧
    (s.pkg.switched = none ∧ ({ s.pkg with switched := some 0 } : Package).switched = some s.cycle ∧ s.pkg.slotcfg.getLsbD 63 = false ∧
      (fabric0 0x800000003F000000 SendQ.none).timeBase.isSome = true ∧
      (fabric0 0x800000003F000000 SendQ.none).pkg.pepoch.toNat ≤ (fabric0 0x800000003F000000 SendQ.none).tb) ∧
    s.pkg.part = none ∧ (mapped0 []).pkg.part.map (fun p => (p.id == 1, p.id == 2)) = some (true, false) := by decide

theorem witness_HostCommands :
    let s := host0 7
    (s.pkg.booted = true ∧ s.answersOn (.v4 5) = true ∧ s.pkg.busy = none ∧ s.pkg.later = [] ∧ s.pkg.nexp = 7 ∧ s.pkg.freeze = none ∧
      s.pkg.shutdown = false ∧ s.pkg.launchq.length < 16 ∧ 16 ≤ (List.replicate 16 (vec0 1 0)).length) ∧
    (s.enabled 576 = false ∧ s.enabled 0 = true ∧ (s.coreAt 0).run ≠ .running ∧ (s.coreAt 0).frozen = false ∧
      ((area0 .running).coreAt 0).run = .running ∧ ((area0 .running).coreAt 0).beforeFreeze = false ∧
      ((area0 (.frozen 0)).coreAt 0).frozen = true) ∧
    (meshOk 0x103 4 = true ∧ meshOk 0x103 8 = false) ∧ s.pkg.part = none ∧
    (let p : Partition := { id := 1, pkg := 0, mesh := 0x107, others := [{ pkg := 1, clmask := [] }] }
     p.pkg ≠ 1 ∧ (∃ y ∈ p.others, y.pkg = 1) ∧ (p.pkg ≠ 2 ∧ ∀ y ∈ p.others, y.pkg ≠ 2) ∧ { p with others := [] }.others = [] ∧ p.pkg = 0) ∧
    (s.fuses.fibres.getLsbD 31 = true ∧ { Fuses.full with fibres := 1 }.fibres.getLsbD 31 = false) ∧
    (let m : Msg := { seq := 3, opcode := 0x30, notice := false, host := 7, status := 0, payload := [] }
     ({ s.pkg with msgs := [m] }.msgs.find? fun y => y.seq == 3) = some m ∧ (s.pkg.msgs.find? fun y => y.seq == 3) = none) := by
  decide

/-- A pre-emption in progress on core 0, which has drained or has an operation of a PHASE left. -/
theorem witness_HostCommands_freeze :
    let z : Freeze := { h := hdr0 0 0x31 [], core := 0, at_ := 9, heads := [], db := 0 }
    let s := area0 (.draining 9)
    z.core = 0 ∧ (s.coreAt 0).run = .draining z.at_ ∧ (s.coreAt 0).freezeReady z.at_ s.cycle = true ∧
    ((s.modCore fun k => { k with restart := some 0 }).coreAt 0).freezeReady z.at_ s.cycle = false ∧ s.pkg.freeze = none := by
  decide

theorem witness_HostCommands_areas :
    (∃ h, (area0 .running).areaHeads 0 .write = some h) ∧ ∃ h, (area0 (.frozen 0)).areaHeads 0 .read = some h :=
  ⟨areaParts_isSome _ _ _ _ area_parts, areaParts_isSome _ _ _ _ area_parts_read⟩

theorem witness_DecodingChecksInOrder :
    ((0x0000100000000000 : Word).getLsbD 44 = true ∧ (1 : Word).toNat % 2 ^ 28 ≠ 0 ∧ (0x0000000200000000 : Word).getLsbD 32 = false ∧
      (0x0000000200000000 : Word).toNat / 2 ^ 33 % 8 ≠ 0 ∧ (0x0400400000000000 : Word).toNat / 2 ^ 46 % 64 ≠ 0 ∧
      (0x0400400000000000 : Word).getLsbD 58 = true ∧ (0x0100400000000000 : Word).getLsbD 58 = false ∧
      (0x0100400000000000 : Word).getLsbD 59 = false) ∧
    (let opc := fun (n : Nat) => (BitVec.ofNat 64 (n * 2 ^ 54) : Word).toNat / 2 ^ 54
     opc 0x030 = 0x030 ∧ opc 0x031 = 0x031 ∧ opc 0x22A = 0x22A ∧ opc 0x38B = 0x38B ∧ opc 0x3FF = 0x3FF) ∧
    ((0x0020000000000000 : Word).getLsbD 53 = true ∧ (0x0001000000000000 : Word).toNat / 2 ^ 48 % 32 ≠ 0 ∧
      (0x0000800000000000 : Word).getLsbD 47 = true) ∧
    (let i := Instr.mul c0 (.s 3) (.s 1) (.s 2) false false false
     i.wf = true ∧ i.opClass.isSome = true ∧ i.encode = 0x00C0018081000000) ∧
    (let ks := [0, 2]; let ws : List Word := [0x00C0018081000000, 0xFFC0000000000000]
     ks.length = ws.length ∧ (∃ i, decodeSlot 0 0x00C0018081000000 = .ok i) ∧
     decodeSlot (ks.getD 1 0) (ws.getD 1 0) = .error .illegalOpcode) :=
  ⟨by decide, by decide, by decide, by decide, by decide, ⟨.mul c0 (.s 3) (.s 1) (.s 2) false false false, by decide⟩, by decide⟩

theorem witness_DecodeOfEncodeIsTheInstruction :
    let i := Instr.tdrain { c0 with guard := 15, gneg := true } 5 3 (.s 31) .rne true true
    i.wf = true ∧ i.opClass.isSome = true ∧ (i.opClass.map fun k => k.inSlot 6) = some true ∧ ∃ k, i.opClass = some k := by
  refine ⟨by decide, by decide, by decide, ?_⟩
  exact Option.isSome_iff_exists.mp (by decide)

/-- Core 0 about to issue a bundle of one MUL. -/
def bundle0 : State := State.reset.withFetchWord 64 0x00C0018081000000

theorem witness_StepRunsTheDecodedBundle :
    ({ State.reset with agenda := [(0, .boot ([], []))] }.pass = 0 ∧ (Instr.boot ([], [])).opClass = none) ∧
    (bundle0.fetchWord 0 0x20000).toOption.isSome = true ∧ (bundle0.fetchWord 0 0x20008).toOption = some 0x00C0018081000000 ∧
    (((bundle0.fetchWord 0 0x20000).toOption.map fun w => (decodeHeader w).toOption.map (·.present)) = some (some [0])) ∧
    bundle0.outside.isNone = true ∧ bundle0.pass = 2 ∧ bundle0.canFetch = true ∧
    (match bundle0.fetchBundle bundle0.me bundle0.core.pc with
      | .ok h ops => ops.length == 1 && bundle0.mayIssue h (bundle0.core.issueOps h ops) &&
          (bundle0.core.undersized (bundle0.core.issueOps h ops)).isNone
      | _ => false) = true := by decide

theorem witness_StepRunsTheDecodedBundle_held :
    let o := { SlotOp.none with slot := 7, instr := .vmov cv 3 4 }
    let s := (core0 [] []).modCore fun k => { k with held := [(0, o)], issues := 1, tiles := [(35, 0)] }
    s.core.held.find? (fun y => y.2.slot == (7 : BitVec 3).toNat) = some (0, o) ∧ s.core.todo = [] ∧ s.core.run = .running ∧
    ¬(s.cycle ≤ s.core.lastIssue ∧ 0 = s.core.issues) ∧ s.core.landqLen < 32 ∧
    ((s.modCore fun k => { k with tready := 0x10 }).core.tready.getLsbD 4 = true ∧ cv.rtag = some 4) ∧
    (s.jobqRoom 0x40 = true ∧ s.accessFree (.jobq c0 (.s 1)) ([(0, 0x40)], 64) = true ∧ { o with guard := 0 }.guard = 0) ∧
    s.core.held.find? (fun y => y.2.slot == (6 : BitVec 3).toNat) = none ∧
    (let p := { o with instr := .mul c0 (.s 3) (.s 1) (.s 2) false false false, slot := 0 }
     let t := (core0 [] []).modCore fun k => { k with todo := [p] }
     t.core.todo = [p] ∧ (ctlOf p.instr).map (·.sticky) = some false ∧ t.core.mustHold p = false) := by decide

theorem witness_FalseGuardIsANoOp :
    let i := Instr.mul { c0 with gneg := true } (.s 3) (.s 1) (.s 2) false false false
    i.form.isSome = true ∧ (core0 [] []).guardMask { c0 with gneg := true } = 0 ∧
    ((core0 [] []).guardMask { c0 with guard := 15 }).getLsbD 0 = false ∧ (core0 [] []).core.cur.latched = false ∧
    ((Instr.vmov { c0 with guard := 9 } 20 17).form.map fun f => f.1.opc.toNat) = some 0x22A ∧
    (i.form.map fun f => decide (f.1.opc.toNat ≤ 0x030)) = some true := by decide

theorem witness_ScalarAndVectorFrame :
    (let i := Instr.mul c0 (.s 3) (.s 1) (.s 2) false false false
     (i.form.map fun f => decide (f.1.opc.toNat ≤ 0x030)) = some true ∧ (landed (exec i (core0 [(1, 6), (2, 7)] [])) 64).map (·.2) = some 42) ∧
    (let i := Instr.msr c0 (.s 1) 8
     (i.form.map fun f => f.1.opc.toNat) = some 0x030 ∧ (landed (exec i (core0 [(1, 47)] [])) 64).map (·.2) = some 47) ∧
    (let i := Instr.vmov c0 20 17
     (i.form.map fun f => decide (0x200 ≤ f.1.opc.toNat ∧ f.1.opc.toNat ≤ 0x22A)) = some true ∧
     (landed (exec i (core0 [] [(17, 9)])) 64).map (·.2) = some 9) := by decide

/-- Both sides of the largest finite value of E4M3, and of FP16, which has infinities. -/
theorem witness_RoundingGivesANeighbour :
    (7 : Nat) ≠ 0 ∧ RMode.rne ≠ .rsr ∧ FFmt.e4m3.hasInf = false ∧ FFmt.fp16.hasInf = true ∧
    decodeF .e4m3 false FFmt.e4m3.maxFinite = .fin false 14 5 ∧
    roundF .e4m3 .rtz false false 0 (.fin false 7 6) = FFmt.e4m3.maxFinite ∧
    roundF .e4m3 .rtz false false 0 (.fin false 1 9) = FFmt.e4m3.maxFinite ∧
    decodeF .fp16 false (roundF .fp16 .rup false false 0 (.fin false 1 16)) = .inf false := by decide

theorem witness_MemoryFormIsKept :
    Memory.wf State.reset.mem = true ∧ (match step State.reset with | .next t => Memory.wf t.mem | _ => false) = true ∧
    (match step bundle0 with | .next t => Memory.wf t.mem && t.mem != [] | _ => false) = true := by decide

end Sys2Proof.Tests
end

/-! The decoder's checks (R56 to R68): what reading a field of a slot word gives, the round trip of a well-formed slot
instruction through its word, and the statement on the order of the checks. -/

namespace Sys2Proof

/-! ## Field codes -/

@[simp] theorem Cond.ofCode_code (x : Cond) : Cond.ofCode x.code = x := by cases x <;> rfl
@[simp] theorem VTy.ofCode_code (x : VTy) : VTy.ofCode x.code = x := by cases x <;> rfl
@[simp] theorem RmSel.ofCode_code (x : RmSel) : RmSel.ofCode x.code = x := by cases x <;> rfl
@[simp] theorem VCond.ofCode_code (x : VCond) : VCond.ofCode x.code = x := by cases x <;> rfl
@[simp] theorem RedOp.ofCode_code (x : RedOp) : RedOp.ofCode x.code = x := by cases x <;> rfl
@[simp] theorem NFmt.ofCode_code (x : NFmt) : NFmt.ofCode x.code = x := by cases x <;> rfl
@[simp] theorem WFmt.ofCode_code (x : WFmt) : WFmt.ofCode x.code = x := by cases x <;> rfl
@[simp] theorem Scope.ofCode_code (x : Scope) : Scope.ofCode x.code = x := by cases x <;> rfl
@[simp] theorem Ord.ofCode_code (x : Ord) : Ord.ofCode x.code = x := by cases x <;> rfl
@[simp] theorem PhaseKind.ofCode_code (x : PhaseKind) : PhaseKind.ofCode x.code = x := by cases x <;> rfl
@[simp] theorem AtomOp.ofCode_code (x : AtomOp) : AtomOp.ofCode x.code = x := by cases x <;> rfl
@[simp] theorem PfxOp.ofCode_code (x : PfxOp) : PfxOp.ofCode x.code = x := by cases x <;> rfl
@[simp] theorem TlbScope.ofCode_code (x : TlbScope) : TlbScope.ofCode x.code = x := by cases x <;> rfl

@[simp] theorem IOp.ofCode_code (x : IOp) : IOp.ofCode x.code = x := by
  cases x with
  | s n => revert n; decide
  | q n => revert n; decide

/-- The number of a q register stands in the low bits of its specifier. -/
@[simp] theorem IOp.extractLsb'_code_q (n : BitVec 3) : (IOp.q n).code.extractLsb' 0 3 = n :=
  BitVec.extractLsb'_append_eq_right

@[simp] theorem pOf_pCode (p : POp) : pOf (pCode p) = p := by revert p; decide

@[simp] theorem vOf_vCode (v : VOp) : vOf (vCode v) = v := BitVec.extractLsb'_append_eq_right

/-- The specifiers of kind I lie below those of the predicates (R58). -/
theorem IOp.code_lt (x : IOp) : x.code.toNat < 0x28 := by
  cases x with
  | s n => revert n; decide
  | q n => revert n; decide

@[simp] theorem XOp.ofCode_code (x : XOp) : XOp.ofCode x.code = x := by
  cases x with
  | i o => simp [XOp.ofCode, XOp.code, o.code_lt]
  | p n => revert n; decide

/-! ## The fields of a slot word (R56)

A field is read from a concatenation by passing over the parts beside it. `Nat.reduceAdd` stays out of these calls: it
rewrites the width of a concatenation, after which the library's lemmas on it no longer match. -/

section
variable (f : Form) (c : Ctl)

@[simp] theorem Form.ofWord_word : Form.ofWord (f.word c) = f := by
  simp (disch := decide) only [Form.ofWord, Form.word, BitVec.extractLsb'_append_eq_of_le,
    BitVec.extractLsb'_append_eq_of_add_le, Nat.reduceSub, BitVec.extractLsb'_eq_self]

@[simp] theorem Ctl.ofWord_word : Ctl.ofWord (f.word c) = { c with stepV := false, stepR := 0 } := by
  obtain ⟨guard, gneg, rtag, sticky, stepV, stepR⟩ := c
  cases rtag <;>
    simp (disch := decide) [-Nat.reduceAdd, -BitVec.getLsbD_eq_getElem, Ctl.ofWord, Form.word,
      BitVec.extractLsb'_append_eq_of_le, BitVec.extractLsb'_append_eq_of_add_le, BitVec.getLsbD_append]

end

section
variable {f : Form} {c : Ctl}

/-- A word without a STEP field gives back control fields whose STEP is zero. -/
theorem Ctl.ofWord_word_of_vector (h : c.vector = true) : Ctl.ofWord (f.word c) = c := by
  obtain ⟨hv, hr⟩ : c.stepV = false ∧ c.stepR = 0 := by simpa [Ctl.vector] using h
  rw [Ctl.ofWord_word, ← hv, ← hr]

/-- A word of format FT gives back control fields whose STEP stands in position c (R59). -/
theorem Ctl.ofWordT_word (h : f.c = c.step) : Ctl.ofWordT (f.word c) = c := by
  have hv : (f.word c).getLsbD 22 = f.c.getLsbD 7 := by
    simp (disch := decide) [-Nat.reduceAdd, -BitVec.getLsbD_eq_getElem, Form.word, Form.c, BitVec.getLsbD_append]
  have hr : (f.word c).extractLsb' 15 5 = f.c.extractLsb' 0 5 := by
    simp (disch := decide) [-Nat.reduceAdd, Form.word, Form.c, BitVec.extractLsb'_append_eq_of_le,
      BitVec.extractLsb'_append_eq_of_add_le, BitVec.extractLsb'_extractLsb'_of_le]
  rw [Ctl.ofWordT, Ctl.ofWord_word, hv, hr, h]
  simp (disch := decide) [-Nat.reduceAdd, -BitVec.getLsbD_eq_getElem, Ctl.step, BitVec.getLsbD_append,
    BitVec.extractLsb'_append_eq_of_add_le]

end

@[simp] theorem Form.b_append (x y : BitVec 8) : (x ++ y : BitVec 16).extractLsb' 8 8 = x :=
  BitVec.extractLsb'_append_eq_left
@[simp] theorem Form.c_append (x y : BitVec 8) : (x ++ y : BitVec 16).extractLsb' 0 8 = y :=
  BitVec.extractLsb'_append_eq_right

/-! ## Reading an instruction's fields gives the instruction back

One lemma for each class. The opcode selects the reader's branch, whose result is the instruction up to its operands and
modifiers; these are equal field by field. An opcode shared by several instructions leaves a test of further bits, and
stands in a case of its own. The instructions of other classes contradict `hk`. -/

section
variable {i : Instr} {f : Form} {c : Ctl}

theorem parseScalar_of_form (hi : i.form = some (f, c)) (hk : i.opClass = some .scalar) : parseScalar f c = some i := by
  cases i with
  | add | sub | addi | mul | mulh | mulhu | madd | div | divu | rem | remu | and | or | xor | andn | andi | ori | xori
    | shl | shr | sra | shli | shri | srai | rotr | clz | ctz | popc | min | max | minu | maxu | abs | sel | cmp |
    cmpi | li | lih | mov | ext | ins | lea | ptag | pand | por | pxor | pnot | mrs | msr =>
    cases hi
    refine congrArg some ?_
    simp (disch := decide) [-Nat.reduceAdd, -BitVec.getLsbD_eq_getElem, Form.b, Form.c, md1, mdI,
      BitVec.extractLsb'_append_eq_of_le, BitVec.extractLsb'_append_eq_of_add_le, BitVec.getLsbD_append]
  | _ => cases hk

theorem parseControl_of_form (hi : i.form = some (f, c)) (hk : i.opClass = some .control) :
    parseControl f c = some i := by
  cases i with
  | br | brl | brr | ret | loop | rotset | yield | done | spawn | waits | waitany | cbar | trap | eret =>
    cases hi
    refine congrArg some ?_
    simp (disch := decide) [-Nat.reduceAdd, -BitVec.getLsbD_eq_getElem, Form.b, Form.c, md1,
      BitVec.extractLsb'_append_eq_of_le, BitVec.extractLsb'_append_eq_of_add_le, BitVec.getLsbD_append]
  | _ => cases hk

theorem parseMemory_of_form (hi : i.form = some (f, c)) (hk : i.opClass = some .memory) : parseMemory f c = some i := by
  cases i with
  | ld | st | ldv | ldvs | ldvg | ldvq | stv | stvs | stvx | atom | cas | phase | fenceo | fencex | pref | tld | tst |
    shmld | shmst | kvst | kalloc | kfree | pfxh | pfxl | pfxi | pfxp | specb | specc | speca | tlbi =>
    cases hi
    refine congrArg some ?_
    simp (disch := decide) [-Nat.reduceAdd, -BitVec.getLsbD_eq_getElem, Form.b, Form.c, md1,
      BitVec.extractLsb'_append_eq_of_le, BitVec.extractLsb'_append_eq_of_add_le, BitVec.getLsbD_append]
  | ldq | ldqBind | ropMcas | ropEnq | ropChase =>
    cases hi
    simp (disch := decide) [-Nat.reduceAdd, -BitVec.getLsbD_eq_getElem, parseMemory, Form.b,
      BitVec.extractLsb'_append_eq_of_le, BitVec.extractLsb'_append_eq_of_add_le, BitVec.getLsbD_append]
  | _ => cases hk

theorem parseVector_of_form (hi : i.form = some (f, c)) (hk : i.opClass = some .vector) : parseVector f c = some i := by
  cases i with
  | vadd | vsub | vmul | vfma | vfms | vfnma | vmin | vmax | vabs | vneg | vrcp | vrsq | vexp2 | vlog2 | vtanh | vcvt
    | vcmp | vsel | viadd | visub | vimul | vand | vor | vxor | vshl | vshr | vsra | vimin | vimax | vred | vscan |
    vperm | vslide | vbcast | vsplat | vextr | viota | vpack | vunpk | vqnt | vdqnt | vrope | vmov =>
    cases hi
    refine congrArg some ?_
    simp (disch := decide) [-Nat.reduceAdd, -BitVec.getLsbD_eq_getElem, Form.b, Form.c, md1, mdV,
      BitVec.extractLsb'_append_eq_of_le, BitVec.extractLsb'_append_eq_of_add_le, BitVec.getLsbD_append]
  | _ => cases hk

theorem parseTensor_of_form (hi : i.form = some (f, c)) (hk : i.opClass = some .tensor) : parseTensor f c = some i := by
  cases i with
  | tfetch | trel | tstat | tzero | wload | wswap | mma | mmas | tdrain | normk | aliasTab | seed | smm | smmv =>
    cases hi
    refine congrArg some ?_
    simp (disch := decide) [-Nat.reduceAdd, -BitVec.getLsbD_eq_getElem, Form.b, mdT, fl1, fl2,
      BitVec.extractLsb'_append_eq_of_le, BitVec.extractLsb'_append_eq_of_add_le, BitVec.getLsbD_append]
  | tbind | tbindUnb =>
    cases hi
    simp (disch := decide) [-Nat.reduceAdd, -BitVec.getLsbD_eq_getElem, parseTensor, mdT,
      BitVec.extractLsb'_append_eq_of_le]
  | _ => cases hk

theorem parseCopy_of_form (hi : i.form = some (f, c)) (hk : i.opClass = some .copy) : parseCopy f c = some i := by
  cases i with
  | cpyt | cpyl | kvld | jobq | coll | reshard | slotsel | park | linkst =>
    cases hi
    refine congrArg some ?_
    simp (disch := decide) [-Nat.reduceAdd, -BitVec.getLsbD_eq_getElem, Form.b, mdC,
      BitVec.extractLsb'_append_eq_of_le, BitVec.extractLsb'_append_eq_of_add_le]
  | cpy | cpySet | send | sendRq | wake | wakeThr =>
    cases hi
    simp (disch := decide) [-Nat.reduceAdd, -BitVec.getLsbD_eq_getElem, parseCopy, Form.b, mdC,
      BitVec.extractLsb'_append_eq_of_le, BitVec.extractLsb'_append_eq_of_add_le, BitVec.getLsbD_append]
  | _ => cases hk

/-- Words of format FT carry STEP in position c (R59). -/
theorem Instr.form_c_eq_step (hi : i.form = some (f, c))
    (hk : i.opClass = some .tensor ∨ i.opClass = some .copy) : f.c = c.step := by
  cases i with
  | tbind | tbindUnb | tfetch | trel | tstat | tzero | wload | wswap | mma | mmas | tdrain | normk | aliasTab | seed |
    smm | smmv | cpy | cpySet | cpyt | cpyl | kvld | send | sendRq | jobq | coll | reshard | slotsel | park | wake |
    wakeThr | linkst =>
    cases hi
    exact Form.c_append _ _
  | _ => rcases hk with hk | hk <;> cases hk

theorem Ctl.vector_of_plain (h : c.plain = true) : c.vector = true := by
  simp only [Ctl.plain, Bool.and_eq_true] at h
  obtain ⟨⟨-, hv⟩, hr⟩ := h
  simp only [Ctl.vector, hv, hr, Bool.and_self]

/-- A well-formed instruction of another format has no STEP (R59). -/
theorem Instr.vector_of_wf (hwf : i.wf = true) (hi : i.form = some (f, c)) (ht : i.opClass ≠ some .tensor)
    (hc : i.opClass ≠ some .copy) : c.vector = true := by
  cases i with
  | add | sub | addi | mul | mulh | mulhu | madd | div | divu | rem | remu | and | or | xor | andn | andi | ori | xori
    | shl | shr | sra | rotr | clz | ctz | popc | min | max | minu | maxu | abs | sel | cmp | cmpi | li | lih | mov |
    lea | ptag | pand | por | pxor | pnot | mrs | msr | br | brl | brr | ret | loop | rotset | yield | done | spawn |
    waits | cbar | trap | eret | ldqBind | st | ldv | ldvg | ldvq | stv | stvx | ropMcas | ropEnq | ropChase | phase |
    fenceo | fencex | pref | tld | tst | shmld | shmst | kfree | pfxh | pfxl | pfxi | pfxp | specb | specc | speca =>
    cases hi
    exact Ctl.vector_of_plain hwf
  | shli | shri | srai | ext | ins | waitany | ld | ldq | ldvs | stvs | cas | tlbi | kvst | kalloc =>
    cases hi
    exact Ctl.vector_of_plain (Bool.and_elim_left hwf)
  | atom =>
    cases hi
    exact Ctl.vector_of_plain (Bool.and_elim_left (Bool.and_elim_left (Bool.and_elim_left hwf)))
  | vsel | vand | vor | vxor | vshl | vshr | vsra | vperm | vslide | vbcast | vsplat | vextr | viota | vmov =>
    cases hi
    exact hwf
  | vadd | vsub | vmul | vfma | vfms | vfnma | vmin | vmax | vabs | vneg | vrcp | vrsq | vexp2 | vlog2 | vtanh | vcvt
    | viadd | visub | vimul | vimin | vimax | vred | vscan | vpack | vunpk | vdqnt | vrope =>
    cases hi
    exact Bool.and_elim_left hwf
  | vcmp | vqnt =>
    cases hi
    exact Bool.and_elim_left (Bool.and_elim_left hwf)
  | tbind | tbindUnb | tfetch | trel | tstat | tzero | wload | wswap | mma | mmas | tdrain | normk | aliasTab | seed |
    smm | smmv =>
    exact absurd rfl ht
  | cpy | cpySet | cpyt | cpyl | kvld | send | sendRq | jobq | coll | reshard | slotsel | park | wake | wakeThr |
    linkst =>
    exact absurd rfl hc
  | _ => cases hi
end

/-! ## The round trip of a well-formed slot instruction (R56 to R66) -/

section
variable {i : Instr} {k : OpClass}

/-- A class belongs to the fields of an instruction that has some, and its word is the word of these fields. -/
theorem Instr.form_of_opClass (hk : i.opClass = some k) :
    ∃ f c, i.form = some (f, c) ∧ Sys2Proof.opClass f.opc.toNat = some k ∧ i.encode = f.word c := by
  cases hi : i.form with
  | none => simp [Instr.opClass, hi] at hk
  | some p => exact ⟨p.1, p.2, rfl, by simpa [Instr.opClass, hi] using hk, by simp [Instr.encode, hi]⟩

theorem opcode_word (f : Form) (c : Ctl) : (f.word c).extractLsb' 54 10 = f.opc :=
  congrArg Form.opc (Form.ofWord_word f c)

/-- The class of the opcode in an instruction's word is the instruction's class. -/
theorem opClass_encode (hk : i.opClass = some k) :
    opClass (i.encode.extractLsb' 54 10).toNat = some k := by
  obtain ⟨f, c, -, hc, hw⟩ := Instr.form_of_opClass hk
  rw [hw, opcode_word, hc]

/-- Reading the word of a well-formed instruction gives the instruction. -/
theorem parse_encode (hwf : i.wf = true) (hk : i.opClass = some k) : parse k i.encode = some i := by
  obtain ⟨f, c, hi, -, hw⟩ := Instr.form_of_opClass hk
  have hplain (h : k ≠ .tensor ∧ k ≠ .copy) : Ctl.ofWord (f.word c) = c :=
    Ctl.ofWord_word_of_vector (Instr.vector_of_wf hwf hi (by simpa [hk] using h.1) (by simpa [hk] using h.2))
  have hstep (h : k = .tensor ∨ k = .copy) : Ctl.ofWordT (f.word c) = c :=
    Ctl.ofWordT_word (Instr.form_c_eq_step hi (by simpa [hk] using h))
  rw [hw]
  cases k with
  | scalar => rw [parse, hplain (by decide), Form.ofWord_word, parseScalar_of_form hi hk]
  | control => rw [parse, hplain (by decide), Form.ofWord_word, parseControl_of_form hi hk]
  | memory => rw [parse, hplain (by decide), Form.ofWord_word, parseMemory_of_form hi hk]
  | vector => rw [parse, hplain (by decide), Form.ofWord_word, parseVector_of_form hi hk]
  | tensor => rw [parse, hstep (by decide), Form.ofWord_word, parseTensor_of_form hi hk]
  | copy => rw [parse, hstep (by decide), Form.ofWord_word, parseCopy_of_form hi hk]

/-! ## Step 8 of R68 -/

theorem checkFields_encode (hwf : i.wf = true) (hk : i.opClass = some k) : checkFields k i.encode = .ok i := by
  simp [checkFields, parse_encode hwf hk, hwf]

/-- What the checks accept is an instruction of the class of the word's opcode, not an event. The word 0, which stands
for an event, reads as the instruction of opcode 0. -/
theorem opClass_of_parse_encode (hk : opClass (i.encode.extractLsb' 54 10).toNat = some k)
    (hp : parse k i.encode = some i) : i.opClass = some k := by
  cases hi : i.form with
  | none =>
    have hw : i.encode = 0 := by simp [Instr.encode, hi]
    rw [hw] at hk hp
    cases hk
    cases hp
    cases hi
  | some p =>
    have hw : i.encode = p.1.word p.2 := by simp [Instr.encode, hi]
    rw [hw, opcode_word] at hk
    simpa [Instr.opClass, hi] using hk

/-- Fields of no well-formed instruction are refused. -/
theorem checkFields_of_no_instr {w : BitVec 64} (hk : opClass (w.extractLsb' 54 10).toNat = some k)
    (h : ¬∃ i : Instr, i.wf = true ∧ i.opClass.isSome = true ∧ i.encode = w) :
    checkFields k w = .error .reservedField := by
  cases hp : parse k w with
  | none => simp [checkFields, hp]
  | some i =>
    have hno : ¬(i.wf = true ∧ i.encode = w) := by
      rintro ⟨hwf, rfl⟩
      exact h ⟨i, hwf, by simp [opClass_of_parse_encode hk hp], rfl⟩
    simp only [checkFields, hp]
    rw [if_neg (by simpa using hno)]

end

/-! ## The header (R53) -/

/-- A reserved bit of a header word, or a barrier's index without SETV. -/
def HeaderReserved (w : BitVec 64) : Prop :=
  w.getLsbD 44 = true ∨ w.toNat % 2 ^ 28 ≠ 0 ∨ (w.getLsbD 32 = false ∧ w.toNat / 2 ^ 33 % 8 ≠ 0)

/-- A repeat over slot S2 or S3. -/
def HeaderRepeats (w : BitVec 64) : Prop :=
  w.toNat / 2 ^ 46 % 64 ≠ 0 ∧ (w.getLsbD 58 = true ∨ w.getLsbD 59 = true)

/-- A field of a word is zero as a bit vector iff it is as a number. -/
theorem extractLsb'_eq_zero_iff (w : BitVec 64) (s n : Nat) : w.extractLsb' s n = 0 ↔ w.toNat / 2 ^ s % 2 ^ n = 0 := by
  rw [← BitVec.toNat_inj, BitVec.extractLsb'_toNat, Nat.shiftRight_eq_div_pow]
  rfl

section
variable {w : BitVec 64}

theorem headerReserved_iff : HeaderReserved w ↔ (w.getLsbD 44 || w.extractLsb' 24 4 != 0 || w.extractLsb' 0 24 != 0
    || (!w.getLsbD 32 && w.extractLsb' 33 3 != 0)) = true := by
  have hlow : w.toNat % 2 ^ 28 ≠ 0 ↔ w.extractLsb' 24 4 ≠ 0 ∨ w.extractLsb' 0 24 ≠ 0 := by
    simp only [ne_eq, extractLsb'_eq_zero_iff]
    omega
  have hset : w.toNat / 2 ^ 33 % 8 ≠ 0 ↔ w.extractLsb' 33 3 ≠ 0 := by simp only [ne_eq, extractLsb'_eq_zero_iff]; rfl
  simp only [HeaderReserved, hlow, hset, Bool.or_eq_true, Bool.and_eq_true, Bool.not_eq_true', bne_iff_ne, or_assoc]

theorem headerRepeats_iff : HeaderRepeats w ↔ (w.extractLsb' 46 6 != 0
    && ((w.extractLsb' 56 8).getLsbD 2 || (w.extractLsb' 56 8).getLsbD 3)) = true := by
  have hrep : w.toNat / 2 ^ 46 % 64 ≠ 0 ↔ w.extractLsb' 46 6 ≠ 0 := by simp only [ne_eq, extractLsb'_eq_zero_iff]; rfl
  rw [HeaderRepeats, hrep]
  simp [-BitVec.getLsbD_eq_getElem]

theorem decodeHeader_of_reserved (h : HeaderReserved w) : decodeHeader w = .error .reservedField :=
  if_pos (headerReserved_iff.mp h)

theorem decodeHeader_of_repeats (hr : ¬HeaderReserved w) (h : HeaderRepeats w) :
    decodeHeader w = .error .illegalOpcode :=
  (if_neg fun hw => hr (headerReserved_iff.mpr hw)).trans (if_pos (headerRepeats_iff.mp h))

/-- The fields of a header word. -/
def Header.ofWord (w : BitVec 64) : Header :=
  { slots := w.extractLsb' 56 8, stall := w.extractLsb' 52 4, rep := w.extractLsb' 46 6, mark := w.getLsbD 45,
    wait := w.extractLsb' 36 8, set := if w.getLsbD 32 then some (w.extractLsb' 33 3) else none,
    scancel := w.extractLsb' 28 4 }

theorem decodeHeader_of_legal (hr : ¬HeaderReserved w) (hs : ¬HeaderRepeats w) :
    decodeHeader w = .ok (Header.ofWord w) :=
  (if_neg fun hw => hr (headerReserved_iff.mpr hw)).trans (if_neg fun hw => hs (headerRepeats_iff.mpr hw))

theorem ofBool_getLsbD (w : BitVec 64) (n : Nat) : BitVec.ofBool (w.getLsbD n) = w.extractLsb' n 1 := by
  ext j hj
  obtain rfl : j = 0 := by omega
  simp

/-- The fields of a header word and its zero bits are all of it. -/
theorem encode_ofWord_of_not_reserved (h : ¬HeaderReserved w) : (Header.ofWord w).encode = w := by
  obtain ⟨hbit, hlow, hset⟩ : w.getLsbD 44 = false ∧ w.toNat % 2 ^ 28 = 0 ∧
      (w.getLsbD 32 = false → w.toNat / 2 ^ 33 % 8 = 0) := by simpa [HeaderReserved] using h
  have hzero1 : (0#1 : BitVec 1) = w.extractLsb' 44 1 := by rw [← ofBool_getLsbD, hbit]; rfl
  have hzero28 : (0#28 : BitVec 28) = w.extractLsb' 0 28 := by
    refine ((extractLsb'_eq_zero_iff w 0 28).mpr ?_).symm
    simpa using hlow
  have hindex : (if w.getLsbD 32 then some (w.extractLsb' 33 3) else none).getD 0 = w.extractLsb' 33 3 := by
    cases hv : w.getLsbD 32 with
    | true => rfl
    | false => exact ((extractLsb'_eq_zero_iff w 33 3).mpr (hset hv)).symm
  have hsetv : (if w.getLsbD 32 then some (w.extractLsb' 33 3) else none).isSome = w.getLsbD 32 := by
    cases w.getLsbD 32 <;> rfl
  simp only [Header.encode, Header.ofWord, hindex, hsetv, ofBool_getLsbD, hzero1, hzero28]
  simp (disch := decide) only [BitVec.extractLsb'_append_extractLsb'_eq_extractLsb']
  exact BitVec.extractLsb'_eq_self

end

/-! ## The slots (R55, R61, R67) -/

/-- The lowest slot of an opcode's class, by the ranges of R61; none outside them. -/
def firstSlot (n : Nat) : Option Nat :=
  if n ≤ 0x030 then some 0 else if 0x100 ≤ n ∧ n ≤ 0x10D then some 2 else if 0x140 ≤ n ∧ n ≤ 0x15F then some 3
  else if 0x200 ≤ n ∧ n ≤ 0x22A then some 4 else if 0x300 ≤ n ∧ n ≤ 0x30E then some 6
  else if 0x380 ≤ n ∧ n ≤ 0x38B then some 7 else none

theorem firstSlot_eq (n : Nat) : firstSlot n = (opClass n).map OpClass.slot := by
  simp only [firstSlot, opClass, apply_ite (Option.map OpClass.slot)]
  rfl

theorem OpClass.inSlot_iff (k : OpClass) (s : Nat) :
    k.inSlot s = true ↔ s = k.slot ∨ (s = k.slot + 1 ∧ (k.slot = 0 ∨ k.slot = 4)) := by
  cases k <;> simp [OpClass.inSlot, OpClass.slot]

/-- A ready tag or a sticky bit in slots S0 to S3, or a tile index without its tag. -/
def BadTag (s : Nat) (w : BitVec 64) : Prop :=
  (s < 4 ∧ w.getLsbD 53 = true) ∨ (¬w.getLsbD 53 = true ∧ w.toNat / 2 ^ 48 % 32 ≠ 0) ∨ (s < 4 ∧ w.getLsbD 47 = true)

/-- A sticky bit on an opcode that R67 does not list. -/
def BadSticky (w : BitVec 64) : Prop :=
  w.getLsbD 47 = true ∧ ¬((0x200 ≤ w.toNat / 2 ^ 54 ∧ w.toNat / 2 ^ 54 ≤ 0x22A) ∨ w.toNat / 2 ^ 54 ∈
    [0x301, 0x302, 0x304, 0x305, 0x306, 0x307, 0x308, 0x309, 0x380, 0x381, 0x383, 0x384])

theorem toNat_opcode (w : BitVec 64) : (w.extractLsb' 54 10).toNat = w.toNat / 2 ^ 54 := by
  rw [BitVec.extractLsb'_toNat, Nat.shiftRight_eq_div_pow]
  omega

theorem stickyOpcode_iff (n : Nat) : stickyOpcode n = true ↔ (0x200 ≤ n ∧ n ≤ 0x22A) ∨
    n ∈ [0x301, 0x302, 0x304, 0x305, 0x306, 0x307, 0x308, 0x309, 0x380, 0x381, 0x383, 0x384] := by
  have hrange : (0x304 ≤ n ∧ n ≤ 0x309) ↔ n = 0x304 ∨ n = 0x305 ∨ n = 0x306 ∨ n = 0x307 ∨ n = 0x308 ∨ n = 0x309 := by
    omega
  simp [stickyOpcode, hrange, or_assoc]

section
variable {s : Nat} {k : OpClass} {w : BitVec 64}

theorem badTag_iff : BadTag s w ↔ (s < 4 && (w.getLsbD 53 || w.getLsbD 47)
    || (!w.getLsbD 53 && w.extractLsb' 48 5 != 0)) = true := by
  have htile : w.toNat / 2 ^ 48 % 32 ≠ 0 ↔ w.extractLsb' 48 5 ≠ 0 := by
    simp only [ne_eq, extractLsb'_eq_zero_iff]; rfl
  simp only [BadTag, htile, Bool.or_eq_true, Bool.and_eq_true, decide_eq_true_eq, Bool.not_eq_true', bne_iff_ne,
    Bool.not_eq_true]
  tauto

theorem badSticky_iff :
    BadSticky w ↔ (w.getLsbD 47 && !stickyOpcode (w.toNat / 2 ^ 54)) = true := by
  rw [BadSticky, ← stickyOpcode_iff, Bool.and_eq_true, Bool.not_eq_true', Bool.not_eq_true]

/-! ## Steps 4 to 8 of R68, one lemma for each outcome -/

theorem decodeSlot_of_unassigned (h : opClass (w.toNat / 2 ^ 54) = none) :
    decodeSlot s w = .error .illegalOpcode := by
  simp only [decodeSlot, toNat_opcode, h]

theorem decodeSlot_of_not_inSlot (hk : opClass (w.toNat / 2 ^ 54) = some k) (hs : ¬k.inSlot s = true) :
    decodeSlot s w = .error .illegalSlot := by
  simp only [decodeSlot, toNat_opcode, hk, hs]
  rfl

variable (hk : opClass (w.toNat / 2 ^ 54) = some k) (hs : k.inSlot s = true)
include hk hs

theorem decodeSlot_of_badTag (ht : BadTag s w) : decodeSlot s w = .error .reservedField := by
  simp only [decodeSlot, toNat_opcode, hk, hs, badTag_iff.mp ht]
  rfl

theorem decodeSlot_of_badSticky (ht : ¬BadTag s w) (hy : BadSticky w) :
    decodeSlot s w = .error .stickyInvalid := by
  rw [badTag_iff] at ht
  rw [badSticky_iff] at hy
  simp only [decodeSlot, toNat_opcode, hk, hs, ht, hy]
  rfl

theorem decodeSlot_eq_checkFields (ht : ¬BadTag s w) (hy : ¬BadSticky w) : decodeSlot s w = checkFields k w := by
  rw [badTag_iff] at ht
  rw [badSticky_iff] at hy
  simp only [decodeSlot, toNat_opcode, hk, hs, ht, hy]
  rfl

end

/-! ## Several slots (R68, R69) -/

open Machine in
/-- Of several slot words the first that does not decode is reported, with its slot and its address. -/
theorem decodeSlots_of_first_error {pc : Word} {len n : Nat} {f : DecodeFault} {j : Nat} {ks : List Nat} {ws : List Word}
    (hlen : ks.length = ws.length) (hn : n < ks.length)
    (hbefore : ∀ x < n, ∃ i, decodeSlot (ks.getD x 0) (ws.getD x 0) = .ok i)
    (hfail : decodeSlot (ks.getD n 0) (ws.getD n 0) = .error f) :
    decodeSlots pc len j ks ws =
      .error (.fail (ofDecode f) (ks.getD n 0) (pc + BitVec.ofNat 64 (8 * (j + n + 1))) len false) := by
  induction n generalizing j ks ws with
  | zero =>
    match ks, ws with
    | k :: ks, w :: ws =>
      have hhead : decodeSlot k w = .error f := hfail
      simp [decodeSlots, hhead]
  | succ n ih =>
    match ks, ws with
    | k :: ks, w :: ws =>
      obtain ⟨i, hi⟩ : ∃ i, decodeSlot k w = .ok i := hbefore 0 n.succ_pos
      have htail := ih (j := j + 1) (ks := ks) (ws := ws) (by simpa using hlen) (by simpa using hn)
        (fun x hx => hbefore (x + 1) (by omega)) hfail
      simp only [decodeSlots, hi, htail, List.getD_cons_succ, Nat.add_right_comm j 1 n, Nat.add_assoc]

/-! ## The obligation -/

/-- Settles O53: each outcome is one of the lemmas above, and the round trip decides step 8. -/
theorem decodingChecksInOrder : Obligations.DecodingChecksInOrder := by
  refine ⟨fun w => ⟨decodeHeader_of_reserved, decodeHeader_of_repeats, fun hr hs =>
      ⟨_, decodeHeader_of_legal hr hs, encode_ofWord_of_not_reserved hr, rfl, rfl, rfl, rfl, rfl, rfl, rfl⟩⟩,
    fun s w _ => ⟨fun hnone => ?_, fun n hfirst => ?_⟩,
    fun pc len j ks ws n f hlen hn hbefore hfail => decodeSlots_of_first_error hlen hn hbefore hfail⟩
  · have hc : (opClass (w.toNat / 2 ^ 54)).map OpClass.slot = none := (firstSlot_eq _).symm.trans hnone
    exact decodeSlot_of_unassigned (Option.map_eq_none_iff.mp hc)
  · have hc : (opClass (w.toNat / 2 ^ 54)).map OpClass.slot = some n := (firstSlot_eq _).symm.trans hfirst
    obtain ⟨k, hk, rfl⟩ := Option.map_eq_some_iff.mp hc
    refine ⟨fun hs => decodeSlot_of_not_inSlot hk (mt (k.inSlot_iff s).mp hs),
      fun hs ht => decodeSlot_of_badTag hk ((k.inSlot_iff s).mpr hs) ht,
      fun hs ht hy => decodeSlot_of_badSticky hk ((k.inSlot_iff s).mpr hs) ht hy, fun hs ht hy => ?_⟩
    have hcheck : decodeSlot s w = checkFields k w := decodeSlot_eq_checkFields hk ((k.inSlot_iff s).mpr hs) ht hy
    rw [hcheck]
    rw [← toNat_opcode] at hk
    refine ⟨fun i hwf hi hw => ?_, checkFields_of_no_instr hk⟩
    subst hw
    obtain ⟨k', hk'⟩ := Option.isSome_iff_exists.mp hi
    obtain rfl : k' = k := Option.some.inj ((opClass_encode hk').symm.trans hk)
    exact checkFields_encode hwf hk'

end Sys2Proof

/-! Saturation, and quotients and remainders (R117, R118): what each instruction of the scalar class that can saturate
or divide lands in a slot that opens, the clamped value in each view, and the quotient and the remainder of the exact
views as operations on words of any width. -/

namespace Sys2Proof.Machine

/-! ## What the instructions land (R158) -/

section
variable {s t : State} {c : Ctl} {d a b : IOp}

theorem exec_add (h : s.Opens c [a, b] [d] t) (w32 nat sat : Bool) : exec (.add c d a b w32 nat sat) s =
    .next (t.landI 1 d (intResult w32 nat sat (viewOf w32 nat (t.src .a a) + viewOf w32 nat (t.src .b b)))) :=
  State.scalarSlot_eq h _

theorem exec_sub (h : s.Opens c [a, b] [d] t) (w32 nat sat : Bool) : exec (.sub c d a b w32 nat sat) s =
    .next (t.landI 1 d (intResult w32 nat sat (viewOf w32 nat (t.src .a a) - viewOf w32 nat (t.src .b b)))) :=
  State.scalarSlot_eq h _

theorem exec_mul (h : s.Opens c [a, b] [d] t) (w32 nat sat : Bool) : exec (.mul c d a b w32 nat sat) s =
    .next (t.landI 3 d (intResult w32 nat sat (viewOf w32 nat (t.src .a a) * viewOf w32 nat (t.src .b b)))) :=
  State.scalarSlot_eq h _

theorem exec_addi (h : s.Opens c [a] [d] t) (imm : BitVec 16) (w32 nat sat : Bool) :
    exec (.addi c d a imm w32 nat sat) s =
      .next (t.landI 1 d (intResult w32 nat sat (viewOf w32 nat (t.src .a a) + imm.toInt))) :=
  State.scalarSlot_eq h _

theorem exec_abs (h : s.Opens c [a] [d] t) (w32 sat : Bool) : exec (.abs c d a w32 sat) s =
    .next (t.landI 1 d (intResult w32 false sat |viewS w32 (t.src .a a)|)) := by
  rw [← Int.natCast_natAbs]
  exact State.scalarSlot_eq h _

theorem exec_div (h : s.Opens c [a, b] [d] t) (w32 : Bool) : exec (.div c d a b w32) s =
    .next (t.landI 18 d (wrapInt w32 (quotient (viewS w32 (t.src .a a)) (viewS w32 (t.src .b b))))) :=
  State.scalarSlot_eq h _

theorem exec_divu (h : s.Opens c [a, b] [d] t) (w32 : Bool) : exec (.divu c d a b w32) s =
    .next (t.landI 18 d (wrapInt w32 (quotient (viewN w32 (t.src .a a)) (viewN w32 (t.src .b b))))) :=
  State.scalarSlot_eq h _

theorem exec_rem (h : s.Opens c [a, b] [d] t) (w32 : Bool) : exec (.rem c d a b w32) s =
    .next (t.landI 18 d (wrapInt w32 (remainder (viewS w32 (t.src .a a)) (viewS w32 (t.src .b b))))) :=
  State.scalarSlot_eq h _

theorem exec_remu (h : s.Opens c [a, b] [d] t) (w32 : Bool) : exec (.remu c d a b w32) s =
    .next (t.landI 18 d (wrapInt w32 (remainder (viewN w32 (t.src .a a)) (viewN w32 (t.src .b b))))) :=
  State.scalarSlot_eq h _

end

/-! ## Views and results in each width (R117, R157) -/

@[simp] theorem viewS_64 (x : Word) : viewS false x = x.toInt := rfl
@[simp] theorem viewS_32 (x : Word) : viewS true x = (low32 x).toInt := rfl
@[simp] theorem viewN_64 (x : Word) : viewN false x = x.toNat := rfl
@[simp] theorem viewN_32 (x : Word) : viewN true x = (low32 x).toNat := rfl
@[simp] theorem viewOf_signed (w32 : Bool) (x : Word) : viewOf w32 false x = viewS w32 x := rfl
@[simp] theorem viewOf_natural (w32 : Bool) (x : Word) : viewOf w32 true x = viewN w32 x := rfl

@[simp] theorem wrapInt_64 (v : Int) : wrapInt false v = BitVec.ofInt 64 v := rfl
@[simp] theorem wrapInt_32 (v : Int) : wrapInt true v = sext32 (BitVec.ofInt 32 v) := rfl

theorem intResult_sat_signed_64 (v : Int) :
    intResult false false true v = BitVec.ofInt 64 (clampInt (-(2 ^ 63)) (2 ^ 63 - 1) v) := rfl
theorem intResult_sat_natural_64 (v : Int) :
    intResult false true true v = BitVec.ofInt 64 (clampInt 0 (2 ^ 64 - 1) v) := rfl
theorem intResult_sat_signed_32 (v : Int) :
    intResult true false true v = sext32 (BitVec.ofInt 32 (clampInt (-(2 ^ 31)) (2 ^ 31 - 1) v)) := rfl
theorem intResult_sat_natural_32 (v : Int) :
    intResult true true true v = sext32 (BitVec.ofInt 32 (clampInt 0 (2 ^ 32 - 1) v)) := rfl

/-! ## Quotients and remainders of words (R118) -/

section
variable {w : Nat} (x y : BitVec w)

theorem toInt_eq_zero_iff : y.toInt = 0 ↔ y = 0 := by
  rw [← BitVec.toInt_inj]
  simp

theorem toNat_eq_zero_iff : (y.toNat : Int) = 0 ↔ y = 0 := by
  rw [← BitVec.toNat_inj]
  simp

theorem ofInt_neg_one : BitVec.ofInt w (-1) = BitVec.allOnes w := by
  rw [BitVec.ofInt_neg, ← BitVec.neg_one_eq_allOnes]
  rfl

/-- The one quotient out of range, of the most negative number by −1, wraps on both sides. -/
theorem ofInt_tdiv_toInt : BitVec.ofInt w (x.toInt.tdiv y.toInt) = x.sdiv y :=
  BitVec.eq_of_toInt_eq (by rw [BitVec.toInt_ofInt, BitVec.toInt_sdiv])

theorem ofInt_tmod_toInt : BitVec.ofInt w (x.toInt.tmod y.toInt) = x.srem y := by
  rw [← BitVec.toInt_srem, BitVec.ofInt_toInt]

theorem ofInt_tdiv_toNat : BitVec.ofInt w ((x.toNat : Int).tdiv y.toNat) = x / y := by
  rw [BitVec.udiv_def, ← Int.ofNat_tdiv, BitVec.ofInt_natCast]

theorem ofInt_tmod_toNat : BitVec.ofInt w ((x.toNat : Int).tmod y.toNat) = x % y := by
  rw [BitVec.umod_def, ← Int.ofNat_tmod, BitVec.ofInt_natCast]

theorem ofInt_quotient_toInt : BitVec.ofInt w (quotient x.toInt y.toInt) =
    if y = 0 then BitVec.allOnes w else x.sdiv y := by
  simp only [quotient, toInt_eq_zero_iff, apply_ite (BitVec.ofInt w), ofInt_neg_one, ofInt_tdiv_toInt]

theorem ofInt_quotient_toNat : BitVec.ofInt w (quotient x.toNat y.toNat) =
    if y = 0 then BitVec.allOnes w else x / y := by
  simp only [quotient, toNat_eq_zero_iff, apply_ite (BitVec.ofInt w), ofInt_neg_one, ofInt_tdiv_toNat]

theorem ofInt_remainder_toInt : BitVec.ofInt w (remainder x.toInt y.toInt) = if y = 0 then x else x.srem y := by
  simp only [remainder, toInt_eq_zero_iff, apply_ite (BitVec.ofInt w), BitVec.ofInt_toInt, ofInt_tmod_toInt]

theorem ofInt_remainder_toNat : BitVec.ofInt w (remainder x.toNat y.toNat) = if y = 0 then x else x % y := by
  simp only [remainder, toNat_eq_zero_iff, apply_ite (BitVec.ofInt w), ofInt_tmod_toNat, BitVec.ofInt_natCast,
    BitVec.ofNat_toNat, BitVec.setWidth_eq]

end

theorem sext32_allOnes : sext32 (BitVec.allOnes 32) = BitVec.allOnes 64 := by decide

/-! ## The obligation -/

/-- Settles O2: each instruction lands the value of its lemma above, which the lemmas on clamping, or on quotients and
remainders of words, give in the manual's terms. -/
theorem scalarSaturationAndQuotients : Obligations.ScalarSaturationAndQuotients := by
  refine ⟨fun s t c d a b imm => ⟨fun h => ?_, fun h => ?_⟩, fun s t c d a b h => ?_⟩
  · simp [exec_add h, exec_sub h, exec_mul h, intResult_sat_signed_64, intResult_sat_natural_64,
      intResult_sat_signed_32, intResult_sat_natural_32]
  · simp [exec_addi h, exec_abs h, intResult_sat_signed_64, intResult_sat_natural_64,
      intResult_sat_signed_32, intResult_sat_natural_32]
  · simp only [exec_div h, exec_divu h, exec_rem h, exec_remu h, viewS_64, viewS_32, viewN_64, viewN_32, wrapInt_64,
      wrapInt_32, ofInt_quotient_toInt, ofInt_quotient_toNat, ofInt_remainder_toInt, ofInt_remainder_toNat,
      apply_ite sext32, sext32_allOnes, and_self]

end Sys2Proof.Machine
